-- ==== Sys2Proof/Word.lean ====
section
/-!
DEFINITION. The words of the model: bytes, 64-bit register words, and the sparse maps that hold
registers, tables and memories as plain sorted data.
-/

namespace Sys2Proof

/-- One byte (R11). -/
abbrev Byte := BitVec 8

/-- One 64-bit register word (R13). -/
abbrev W64 := BitVec 64

/-- A sparse map held as plain data: pairs in strictly rising key order. -/
abbrev NMap (α : Type) := List (Nat × α)

end Sys2Proof
end

