-- ==== Sys2Proof/Machine/Types.lean ====
section
/-!
DEFINITION. The plain data types of the block: status codes, commands' headers, journal records,
what the device sends outside, and one structure of state per chapter of the spec.
-/

namespace Sys2Proof.Machine

open Sys2Proof

/-! ### Shared types -/

/-- Command status codes. The spec names them (R7, R337) and gives them no numbers: a register or a
format shows `Config.statusCode`. -/
inductive Status where
  | ok | invalid | busy | noRoom | refusedMode | refusedUnauthenticated | versionConflict
  | timeNotValid | aborted | keyErased | incomplete
  deriving DecidableEq, Repr

/-- The register field `lo + wid - 1 : lo` at BAR0 address `addr`, with its reset value (R17). -/
structure Fld where
  addr : Nat
  lo : Nat
  wid : Nat
  rst : Nat
  deriving DecidableEq, Repr

/-- The eight modes of R41 are numbers 0–7 in MOD_STAT.MODE. -/
inductive Mode where
  | reset | load | test | sync | serve | splice | safe | freeze
  deriving DecidableEq, Repr

/-- What carries a command: its command mailbox, its requester, the bytes the tag covers (the 32-byte
header of R339, the inline payload and the indirect payload), and the tag. -/
structure CmdHdr where
  mbx : Nat
  requester : Nat
  body : List Byte
  tag : BitVec 128
  /-- The DMA read of the indirect payload fails (R339). -/
  dmaErr : Bool
  deriving DecidableEq, Repr

/-- The answer firmware holds for a command mailbox until it writes the response (R337): the command's
header, and the key that tags the response, if any. -/
structure Answer where
  head : List Byte
  key : Option (List Byte)
  status : Status
  payload : List Byte
  deriving DecidableEq, Repr

/-- STATUS of a journal record: a command status or a plain code (R434). -/
inductive JStatus where
  | num (n : Nat)
  | code (c : Status)
  deriving DecidableEq, Repr

/-- A journal record (R432). -/
structure JRec where
  typ : Nat
  sev : Nat
  tvalid : Nat
  source : Nat
  mode : Nat
  req : Nat
  holdupOvr : Nat
  seq : Nat
  boot : Nat
  ns : Nat
  uptime : Nat
  unit : Nat
  status : JStatus
  arg0 : Nat
  arg1 : Nat
  arg2 : Nat
  deriving DecidableEq, Repr

/-- What leaves the device: the model's own record of its outputs, newest last. -/
inductive Sent where
  /-- A frame on a port; `stomped` is the inverted FCS of R39. -/
  | frame (port : Nat) (bytes : List Byte) (stomped : Bool)
  /-- An MSI-X vector of PF0 (0) or PF1 (1), or an interrupt or wake event of a master (R321, R332). -/
  | vector (fn vec : Nat)
  | wake (master : Nat)
  /-- A DMA write to host memory. -/
  | dma (addr : Nat) (bytes : List Byte)
  /-- A write by an engine or core to control-die memory. -/
  | mem (addr : Nat) (bytes : List Byte)
  /-- A value returned by a read access to a requester. -/
  | read (requester : Nat) (val : Nat) (nbytes : Nat)
  /-- The completion of a memory request: stack, address, data, poisoned (R304). -/
  | memAnswer (stack addr : Nat) (bytes : List Byte) (poisoned : Bool)
  /-- A bus error, Unsupported Request or AER report to a master (R330). -/
  | busError (master : Nat)
  /-- A command response delivered in a mailbox. -/
  | response (mbx : Nat) (status : Status) (payload : List Byte) (tag : BitVec 128)
  /-- A Bolvis message to a peer (R370). -/
  | bolvis (peer : Nat) (bytes : List Byte)
  /-- A rushes frame (R458). -/
  | rushes (bytes : List Byte)
  /-- The SMBus answer, or a NACK (R493). -/
  | smbus (bytes : List Byte) (nack : Bool)
  /-- An interrupt or event to the management cores, with its source's name. -/
  | coreInt (what : String) (arg : Nat)
  /-- A level driven on a named output pin. -/
  | pin (name : String) (level : Bool)
  /-- Bytes shifted out on TDO (R458, R476). -/
  | tdo (bytes : List Byte)
  deriving DecidableEq, Repr

/-! ### Register descriptors (chapters 0 and 18) -/

/-- Access codes (R16); reserved bits are in no field. -/
inductive Acc where
  | ro | rw | w1c | w1s | wo | rl
  deriving DecidableEq, Repr

/-- Reset classes (R17). -/
inductive RClass where
  | P | C | W | D | E
  deriving DecidableEq, Repr

/-- Further entries of the Reset column (R17). -/
inductive RSrc where
  | val | live | fuse | image | flash | cause | rule
  deriving DecidableEq, Repr

/-- Which written values take effect. -/
inductive WOk where
  | any
  | le (n : Nat)
  | neq (n : Nat)
  | zeroOr (lo hi : Nat)
  | range (lo hi m : Nat)
  deriving DecidableEq, Repr

/-- One field of a field map. `own`: the opcode table gives writing it a row of its own.
`stat`: the field shows a command status code. -/
structure FieldDesc where
  lo : Nat
  wid : Nat
  acc : Acc
  rst : Nat
  src : RSrc
  cls : List RClass
  ok : WOk
  own : Bool
  stat : Bool
  deriving DecidableEq, Repr

/-- One row of the register index: base, instance counts and strides, 64-only (R14), written only by a
management core (R322), device-wide in quadrant windows (R462), REG_WRITE group (R342; none: 99). -/
structure RegDesc where
  name : String
  base : Nat
  dims : List (Nat × Nat)
  only64 : Bool
  coreOnly : Bool
  devWide : Bool
  grp : Nat
  fields : List FieldDesc
  deriving DecidableEq, Repr

/-! ### Host interface, mailboxes and sessions (chapter 12) -/

/-- A requester's staging latch (R13): a low half waiting for its high half, or a snapshot's high half. -/
inductive Latch where
  | write (addr : Nat) (low : Nat)
  | snap (addr : Nat) (high : Nat)
  deriving DecidableEq, Repr

/-- A device nonce (R343). -/
structure Nonce where
  requester : Nat
  value : List Byte
  issued : Nat
  used : Bool
  deriving DecidableEq, Repr

/-- A table-update batch whose LAST segment has not been read (R349). -/
structure OpenBatch where
  since : Nat
  bytes : List Byte
  deriving DecidableEq, Repr

/-- The PCIe link states R332 distinguishes. -/
inductive LinkState where
  | down | l0 | l1 | l2
  deriving DecidableEq, Repr

/-- How the PCIe link has come up (R319, R332): in flit mode or not, the state it then idles in (L0, L1 or L2), and the
MSI-X vectors, function and number, that host software masks. -/
structure LinkUp where
  flit : Bool
  idle : LinkState
  mask : List (Nat × Nat)
  deriving DecidableEq, Repr

/-- Who asks a stack: its share (0 flow, 1 buffer, 2 other, 3 maintenance), a number that names the requester, and the
page hint of the request (R298, R299). -/
structure HbmPort where
  share : Nat
  req : Nat
  hint : Nat
  deriving DecidableEq, Repr

/-- The end of a rate change (R313): the stack, and its channels that fail the retraining. -/
structure RateEnd where
  stack : Nat
  bad : List Nat
  deriving DecidableEq, Repr

/-- State of chapter 12 that is not a register field. -/
structure HostS where
  latches : NMap Latch
  takenBy : NMap Nat
  responseDue : NMap Answer
  nonces : List Nonce
  ringTail : NMap Nat
  batches : NMap OpenBatch
  evSeq : Nat
  outRing : List (Nat × List Byte)
  held : List (Nat × List Byte)
  link : LinkState
  wakeN : Bool
  wakeEnding : Bool
  vecHeld : List (Nat × Nat)
  txNext : NMap Nat
  authAt : NMap Nat
  refclk : Bool
  msixMask : List (Nat × Nat)
  msixPend : List (Nat × Nat)
  aerUr : List Nat
  deriving DecidableEq, Repr

/-! ### Safety and the journal (chapter 16) -/

/-- State of chapter 16 that is not a register field. -/
structure SafeS where
  /-- Standing conditions: fault code and locator. -/
  standing : List (Nat × Nat)
  /-- Code 20: an uncorrectable read has set the bit since its last clearing (R416). -/
  uncRead : Bool
  /-- UPTIME of the last passed slice per physical pipe (9q + p) and engine group (8q + k). -/
  pipePass : NMap Nat
  engPass : NMap Nat
  /-- Faults detected in RESET, LOAD or TEST, journalled once firmware runs (R389). -/
  unposted : List (Nat × Nat × Nat)
  pfwN : Bool
  /-- TIM_UPTIME at the last change of mode. -/
  modeSince : Nat
  /-- After a reset the AON driver asserts FAULT_N until firmware has started (R421). -/
  aonFault : Bool
  holdupTest : Bool
  v0 : Nat
  /-- The board record's LOAD_MW and VMIN_MV (R431). -/
  boardRecord : Option (Nat × Nat)
  scanOn : Bool
  /-- The tail, the overflow buffer, the flash ring, the HBM mirror (oldest first). -/
  jTail : List JRec
  jOver : List JRec
  jFlash : List JRec
  jMirror : List JRec
  jLost : Nat
  jRetry : Bool
  /-- Temperatures the SMBus answers with, once known: the median of die d, and of stack s at 16 + s (R493). -/
  temps : NMap Nat
  /-- UPTIME at which the watchdog of management core 32 + c last began to count (SAF_WDT[c]). -/
  wdtAt : NMap Nat
  deriving DecidableEq, Repr

/-! ### Counters, sampling and freeze (chapter 17) -/

/-- Instructions of the IEEE 1149.1 port (R430, R457, R458, R460, R476). -/
inductive JtagIr where
  | bypass | idcode | samplePreload | extest | rushesReq | rushesTdo | hbmDump | hbmDumpEnd | scan
  deriving DecidableEq, Repr

/-- State of chapter 17 that is not a register field. -/
structure CtrS where
  /-- Programmable counters with SRC = 1 and the address they watch (a reading of CTR_SEL). -/
  watch : List (Nat × Nat)
  /-- Sample buffer, oldest first; per-quadrant FIFOs of records; selector event counts (4j + q). -/
  smpBuf : List (List Byte)
  smpFifo : NMap (List (List Byte))
  smpSel : NMap Nat
  smpSeq : Nat
  /-- An accepted trigger (code, unit) not yet taken by the freeze controller. -/
  frzReq : Option (Nat × Nat)
  /-- A FREEZE command answered, its trigger due 100 µs later (requester). -/
  frzCmd : Option Nat
  /-- Step of R456 reached: 0 none, 4 zeroized, 7 all domains stopped. -/
  frzStep : Nat
  frzDataRo : Bool
  frzDump : Nat
  rushesTo : Bool
  /-- A warm reset waits for the freeze's journal commit (R456). -/
  frzWarm : Bool
  /-- The IEEE 1149.1 instruction, and the preloaded boundary register (R476). -/
  jtag : JtagIr
  preload : List (String × Bool)
  /-- TIM_UPTIME at which the response of that FREEZE was written or discarded. -/
  frzAt : Option Nat
  deriving DecidableEq, Repr

/-! ### Cells, frames and queues (chapter 9) -/

/-- A cell that is not free: its descriptor (R239) and data bytes. STATE 0 is a cell not listed. -/
structure CellS where
  next : Nat
  st : Nat
  sof : Bool
  eof : Bool
  crc : Nat
  len : Nat
  abort : Bool
  oclass : Nat
  owner : Nat
  remain : Nat
  data : List Byte
  deriving DecidableEq, Repr

/-- A timestamp record (R274). -/
structure TsRec where
  ns : Nat
  subns : Nat
  tag : Nat
  alignPs : Nat
  dir : Nat
  asym : Bool
  valid : Bool
  port : Nat
  deriving DecidableEq, Repr

/-- Where a frame stands in its ingress section. -/
inductive Ingress where
  | arriving | held | done
  deriving DecidableEq, Repr

/-- A frame in the device, named by its first cell: what the MAC and the ingress section know of it. -/
structure FrameS where
  inPort : Nat
  quad : Nat
  /-- The physical pipe that runs the frame's ingress section (R28); 15 before it has entered one. -/
  pipe : Nat
  pool : Nat
  oclass : Nat
  owner : Nat
  tsIn : Nat
  tsRec : TsRec
  fp : Nat
  bus : Nat
  ipid : Nat
  lastState : Nat
  len : Nat
  last : Nat
  ended : Bool
  writer : Bool
  phase : Ingress
  /-- 0: not aborted; otherwise the drop code of unsent copies and of stomped copies (R261). -/
  abortUnsent : Nat
  abortStomp : Nat
  /-- The scheduled copy was rechecked at the frame's end (R287). -/
  copies : List Nat
  /-- Handover: the frame is held for an end marker of its port group (R28). -/
  heldPg : Option Nat
  /-- Latency sample slot (R197), and the sampler's selector (R450). -/
  smp : Option Nat
  sel : Option Nat
  deriving DecidableEq, Repr

/-- Where a copy stands. -/
inductive CopySt where
  | pending | queued | sending
  deriving DecidableEq, Repr

/-- One copy of a frame (R40), named by its copy cell, or by the frame's first cell when it is the only copy. -/
structure CopyS where
  head : Nat
  port : Nat
  queue : Nat
  sched : Bool
  mirror : Bool
  trunc : Nat
  bus : Nat
  st : CopySt
  units : Nat
  enqNs : Nat
  selNs : Nat
  /-- Egress window of a reserved queue's frame: opening and closing counter values (R288). -/
  win : Option (Nat × Nat)
  /-- The guard of R285 has counted this frame as held. -/
  guarded : Bool
  /-- This copy alone is aborted, with this drop code (R287); 0: it is not. -/
  dropAs : Nat
  deriving DecidableEq, Repr

/-- The header of a queue-tree section (R250). -/
structure TreeHdr where
  nodeCount : Nat
  qbase : Nat
  qcount : Nat
  egrPos : Nat
  replPos : Nat
  deriving DecidableEq, Repr

/-- A queue-tree node (R250, R252): configuration and state; a queue's frames are a list, head first. -/
structure NodeS where
  level : Nat
  tc : Nat
  shaped : Bool
  prio : Nat
  weight : Nat
  parent : Nat
  rateKbps : Nat
  burst : Nat
  f10 : Nat
  f14 : Nat
  f18 : Nat
  units : Nat
  deficit : Int
  tokens : Int
  tupd : Nat
  turn : Bool
  frames : List Nat
  deriving DecidableEq, Repr

/-- A port MAC's receive side: the frame being cut, or bytes being discarded up to a frame's end. -/
structure RxS where
  frame : Option Nat
  discard : Bool
  bytes : Nat
  stopped : Bool
  deriving DecidableEq, Repr

/-- A queue tree written to a shadow bank (R253): the bank it takes and the one it leaves, its header and
nodes, and the region version that changes with it. -/
structure ShadowS where
  bank : Nat
  old : Nat
  hdr : TreeHdr
  nodes : List NodeS
  ver : Nat
  deriving DecidableEq, Repr

/-- A replication member (R258). -/
structure MemberS where
  port : Nat
  qoff : Nat
  prune : Bool
  deriving DecidableEq, Repr

/-- State of chapter 9 that is not a register field. -/
structure CelS where
  cells : NMap CellS
  frames : NMap FrameS
  copies : NMap CopyS
  spill : NMap Int
  spillAt : NMap Nat
  rx : NMap RxS
  /-- Node records, key 2^22 × bank + entry, and headers by bank: port group g has the banks g and g + 64.
  Shadow trees and the ports yet to switch, by port group (R253). -/
  nodes : NMap NodeS
  treeHdr : NMap TreeHdr
  shadow : NMap ShadowS
  toSwitch : NMap (List Nat)
  replGroup : NMap (Nat × Nat)
  replMember : NMap MemberS
  replOld : List (Nat × Nat × Nat)
  /-- The copy each port is sending. -/
  tx : NMap Nat
  deriving DecidableEq, Repr

/-! ### Time base and Shutter (chapter 10) -/

/-- A gate control list (R281, R282). -/
structure GateList where
  cycle : Nat
  schedTcs : Nat
  baseOff : Nat
  entries : List (Nat × Nat)
  deriving DecidableEq, Repr

/-- A reservation (R286), named by its queue. -/
structure RsvS where
  port : Nat
  tc : Nat
  maxLen : Nat
  admOff : Nat
  admLen : Nat
  egrOff : Nat
  egrLen : Nat
  frames : Nat
  used : Nat
  /-- The cycle start whose admission window has last started for the reservation (R287). -/
  started : Option Nat
  deriving DecidableEq, Repr

/-- State of chapter 10 that is not a register field. -/
structure TimS where
  /-- Fifths of a nanosecond beyond TIM_UPTIME (R267: 0.8 ns a cycle). -/
  upFifths : Nat
  /-- TIM_UPTIME at entry to HOLDOVER. -/
  holdStart : Option Nat
  /-- Network time minus NS, a multiple of 2^32 ns (R263). -/
  netBase : Nat
  /-- Operating and administrative banks per front port; the counter value at which the entry in
  progress ends (absent until BASE is reached); the previous cycle start S′. -/
  oper : NMap GateList
  admBank : NMap GateList
  entryEnd : NMap Nat
  prevStart : NMap Nat
  rsv : NMap RsvS
  rxStore : NMap TsRec
  txFifo : NMap (List TsRec)
  ppsHigh : Bool
  deriving DecidableEq, Repr

/-! ### Fuses and the image (chapter 2) -/

/-- One-time programmed contents (R351, R57, R60): absent where unprogrammed. -/
structure FuseS where
  /-- The contents are known: a reset sequence has sensed the fuses (log 7). -/
  sensed : Bool
  deviceKey : List Byte
  rootHash : List Byte
  ownerHash : Option (List Byte)
  imageKey : Option (List Byte)
  deriving DecidableEq, Repr

/-- The fuse contents that a part's registers show: blown rollback fuses, ID_PART, ID_LOT (R60, R2, R20). -/
structure PartS where
  rollback : Nat
  part : Nat
  step : Nat
  variant : Nat
  lot : Nat
  wafer : Nat
  x : Nat
  y : Nat
  deriving DecidableEq, Repr

/-- A copy of the boot record (R484). -/
structure BootRecS where
  seq : Nat
  fwSlot : Nat
  imgSlot : Nat
  fallback : Bool
  deriving DecidableEq, Repr

/-- What a board programmer leaves in the boot flash while PWR_RST_N is low (R61, R477, R483): image slots,
firmware slots, the valid copies of the boot record, and the board record's LOAD_MW and VMIN_MV (R431, R438). -/
structure FlashS where
  slot0 : List Byte
  slot1 : List Byte
  fwA : List Byte
  fwB : List Byte
  bootA : Option BootRecS
  bootB : Option BootRecS
  board : Option (Nat × Nat)
  deriving DecidableEq, Repr

/-- A stack's identity as its IEEE 1500 port gives it (R293, R294): present, height code, density code, rating. -/
structure StackId where
  present : Bool
  height : Nat
  density : Nat
  rating : Nat
  deriving DecidableEq, Repr

/-- A running section of the image (R47, R51), its payload decrypted. -/
structure SecS where
  kind : Nat
  region : Nat
  inst : Nat
  bytes : List Byte
  deriving DecidableEq, Repr

/-- A partial image that has passed its checks and is being applied region by region (R65). -/
structure PartialS where
  secs : List SecS
  /-- Regions not yet live, in the order of R402, with their versions. -/
  todo : List (Nat × Nat)
  deriving DecidableEq, Repr

/-- State of chapter 2 that is not a register field. -/
structure ImgS where
  /-- The two image slots of the boot flash (R61): 33,554,432 bytes each, trailing bytes blank. -/
  slot0 : List Byte
  slot1 : List Byte
  /-- The copies of the boot record (R484); none: not valid. -/
  bootA : Option BootRecS
  bootB : Option BootRecS
  running : List SecS
  part : Option PartialS
  /-- The slot a full load reads, and whether the other slot has been tried. -/
  loadSlot : Nat
  fellBack : Bool
  /-- A full image that has passed every check and waits for its application. -/
  staged : Option (List Byte)
  /-- QSPI pins released to a board programmer (R64). -/
  qspiOut : Bool
  /-- SEQ of the record of a refused load after whose commit the pins are released (R64). -/
  qspiAfter : Option Nat
  /-- The image last staged in region 0 of stack 0 by IMAGE_PARTIAL or FLASH_IMAGE (R62, R295, R496). -/
  staging : List Byte
  deriving DecidableEq, Repr

/-! ### Resets, TEST and live update (chapter 15) -/

/-- Where a reset sequence stands (R395, R396): no power, the commit of a warm reset, the fuses, the PLLs (a
reference clock may be missing), the verification of a firmware slot, both slots failed, firmware started. -/
inductive SeqSt where
  | off | commit | fuses | plls | verify | failed | running
  deriving DecidableEq, Repr

/-- A hitless restart under way (R409): the slot it starts, the release that runs now, and the mailboxes whose
readers the restarting core has lent to another. -/
structure RestartS where
  slot : Nat
  old : Nat
  moved : List Nat
  deriving DecidableEq, Repr

/-- State of chapter 15 that is not a register field. -/
structure ModS where
  seq : SeqSt
  /-- Cause of the warm reset whose commit runs (R396), as PWR_RST_CAUSE numbers it. -/
  cause : Nat
  /-- A reference clock was missing at step 3 of R395 (R480). -/
  clkWait : Bool
  clkLate : Bool
  /-- The firmware slot under verification, and whether the other one has failed. -/
  fwSlot : Nat
  fwTried : Bool
  /-- Firmware slots A and B of the boot flash (R408). -/
  fwA : List Byte
  fwB : List Byte
  /-- A WARM_RESET accepted, its reset due 100 µs after its response, and when that response was written (R394). -/
  warmDue : Bool
  warmAt : Option Nat
  /-- When both firmware slots had failed (R395). -/
  failAt : Option Nat
  /-- TEST (R390): training results by stack, stacks whose record space is cleared, the hold-up check, the
  failing checks found so far, and whether every check has finished. -/
  trained : NMap Bool
  cleared : List Nat
  holdup : Option Bool
  failed : List Nat
  tested : Bool
  /-- Quadrants whose park request waits for its pools, since when, and quadrants on their way back, with whether
  their full rotation has ended (R400). -/
  parking : NMap Nat
  unparking : NMap Bool
  restart : Option RestartS
  /-- STRAP_FLASH and STRAP_SMB as sampled (R481). -/
  strapFlash : Nat
  strapSmb : Nat
  deriving DecidableEq, Repr

/-! ### Pipes and the stand-in handover (chapters 1 and 15) -/

/-- The programs of a physical pipe: parser graph, stage program and its class. -/
structure ProgS where
  parser : List Byte
  stages : List Byte
  cls : Nat
  deriving DecidableEq, Repr

/-- A handover in progress (R28): target, spare, ports redirected, port groups handed over, and those whose
end marker has reached the queue manager. -/
structure HandS where
  target : Nat
  spare : Nat
  pgs : List Nat
  switched : List Nat
  ended : List Nat
  /-- Frames the spare has processed that wait for their port group's end marker, oldest first. -/
  waiting : List Nat
  deriving DecidableEq, Repr

/-- State of the pipes that is not a register field. Physical pipes are 9 × quadrant + p. -/
structure PipeS where
  prog : NMap ProgS
  hand : NMap HandS
  /-- The pipe of a quadrant that is in its test or reload. -/
  testing : NMap Nat
  /-- UPTIME at which the rotation in progress started, per quadrant, and its steps so far. -/
  rotAt : NMap Nat
  rotSteps : NMap Nat
  /-- HANDOVER commands that wait for their quadrant's next step, and the answers they owe. -/
  want : NMap Nat
  /-- The program load of the spare under way: the physical pipe it prepares for. -/
  load : NMap Nat
  deriving DecidableEq, Repr

/-! ### Key store, cipher engine and verifier (chapter 13) -/

/-- Key bits of a slot: two 128-bit halves, each written or not (R351, R353). -/
structure SlotS where
  lo : Option (List Byte)
  hi : Option (List Byte)
  deriving DecidableEq, Repr

/-- A rewrite waiting for leases (R360). -/
inductive Rewrite where
  | load (key : List Byte) (use owner : Nat) (key128 : Bool)
  | erase
  deriving DecidableEq, Repr

/-- Where a job stands. -/
inductive JobSt where
  | waiting | running | done
  deriving DecidableEq, Repr

/-- A job fetched from a ring (R355): its descriptor, the input it computes on, and what it wrote. -/
structure JobS where
  desc : List Byte
  st : JobSt
  status : Status
  input : List Byte
  old : List Byte
  /-- The last block computed. -/
  last : List Byte
  /-- Bytes written to memory from OUT_ADDR on. -/
  wrote : Nat
  /-- The key bits its core took at its start. -/
  key : List Byte
  deriving DecidableEq, Repr

/-- A group on a core (R358, R360): its ring, the job index of its next job, every slot's GEN as its
first job saw it, and the carried value. -/
structure GroupRun where
  ring : Nat
  next : Nat
  gens : List Nat
  carry : List Byte
  busy : Bool
  deriving DecidableEq, Repr

/-- State of chapter 13 that is not a register field. -/
structure KeyS where
  slots : NMap SlotS
  /-- Slots of K_cmd and K_rsp of each open session (R345). -/
  sess : NMap (Nat × Nat)
  pend : NMap Rewrite
  /-- Fetched jobs per ring, from HEAD on; the fetched TAIL per ring. -/
  jobs : NMap (List JobS)
  tail : NMap Nat
  cores : NMap GroupRun
  rr : Nat
  /-- Device private keys: the ECDH scalar and the ML-KEM seeds (R364). -/
  devEcdh : Option Nat
  devKem : Option (List Byte)
  deriving DecidableEq, Repr

/-! ### Takes (chapter 3) -/

/-- State of the take controller that is not a register field (R90–R97, R497). -/
structure TakeS where
  /-- t_act of an accepted immediate commit that has not switched yet. -/
  accepted : Option Nat
  /-- t_act of a pending timed commit. -/
  timed : Option Nat
  /-- TIM_UPTIME of the switch while the older take drains. -/
  drainSince : Option Nat
  /-- The older take is retired and its changed entries settle. -/
  settling : Bool
  /-- Cluster commit that owns the pending timed commit, if any. -/
  cluster : Bool
  deriving DecidableEq, Repr

/-! ### Tables (chapters 4 and 5) -/

/-- A table declaration (R116); table 256 is the witness table (R423). -/
structure TblDecl where
  num : Nat
  kind : Nat
  v6 : Bool
  learn : Bool
  egress : Bool
  quads : Nat
  keyLen : Nat
  sizeLog2 : Nat
  classes : Nat
  seed0 : Nat
  seed1 : Nat
  ageMs : Nat
  conMs : Nat
  lk0 : Nat
  lk1 : Nat
  learnAfter : Nat
  deriving DecidableEq, Repr

/-- An entry of a bucket array (R121, R127), named by its first slot. `key` of an LPM entry is the VRF in
bits 13:0 and PFX above, and `action` its RESULT index; `len`, `marker` and `unas` (the filter cells a
repair has taken it from) are the manager's own knowledge of an LPM entry. `hit` has one bit per replica. -/
structure TEnt where
  key : Nat
  w : Nat
  gen : Nat
  action : Nat
  hit : Nat
  learned : Bool
  static : Bool
  stamp : Nat
  len : Nat
  marker : Bool
  unas : List Nat
  deriving DecidableEq, Repr

/-- A real prefix (R131): VRF and PFX as an LPM entry's key, its length, action and visibility. -/
structure RibE where
  key : Nat
  len : Nat
  action : Nat
  gen : Nat
  deriving DecidableEq, Repr

/-- A direct-index entry; an index holds the copies of R92 while a take changes it. -/
structure DirE where
  gen : Nat
  action : Nat
  deriving DecidableEq, Repr

/-- An entry of a care-mask bank, by slot (R100, R101). The last four fields are the manager's record of
an exact-match entry in an overflow store (R113, R121). -/
structure CmsE where
  value : Nat
  mask : Nat
  gen : Nat
  len : Nat
  action : Nat
  hit : Nat
  learned : Bool
  static : Bool
  stamp : Nat
  deriving DecidableEq, Repr

/-- A request in a learn arbiter's queue (R133): a learn or a move, its key, learn port, TS_IN and quadrant. -/
structure LearnReq where
  move : Bool
  key : Nat
  port : Nat
  ts : Nat
  quad : Nat
  /-- TIM_UPTIME at TS_IN: the hold-off and flap windows exceed the 32-bit time base. -/
  up : Int
  deriving DecidableEq, Repr

/-- A remembered commit or move, or a flap record (R135). -/
structure SeenRec where
  tbl : Nat
  key : Nat
  up : Int
  deriving DecidableEq, Repr

structure FlapRec where
  tbl : Nat
  key : Nat
  first : Int
  count : Nat
  deriving DecidableEq, Repr

/-- A deferred block of a Continuity sweep (R141): table, replica, block, FWD_TBL_SEQ at its read. -/
structure ConDefer where
  tbl : Nat
  quad : Nat
  block : Nat
  seq : Nat
  since : Nat
  deriving DecidableEq, Repr

/-- An ageing sweep in progress (R137, R138): its next bucket, its start, and how the last one ended. -/
structure AgeSweep where
  next : Nat
  start : Nat
  onTime : Nat
  deriving DecidableEq, Repr

/-- State of chapters 4 and 5 that is not a register field. -/
structure TabS where
  /-- Bucket arrays per table, by slot; result arrays; VRF class maps, and assignments staged in a take. -/
  bkt : NMap (NMap TEnt)
  /-- Real prefixes of LPM tables as the manager holds them (R131): per table, in no order. -/
  rib : NMap (List RibE)
  res : NMap (NMap Nat)
  cmap : NMap (NMap Nat)
  cmapNew : List (Nat × Nat × Nat)
  dir : NMap (NMap (List DirE))
  /-- Care-mask banks, key 32q + b, by slot. -/
  cms : NMap (NMap CmsE)
  /-- What freed slots still hold with VALID = 0 (R89, R110, R124): bucket slots per table, direct-index entries per
  table, care-mask entries per bank (key 32q + b). -/
  bktOld : NMap (NMap Nat)
  dirOld : NMap (NMap Nat)
  cmsOld : NMap (NMap CmsE)
  /-- Banks whose spacing is to be restored, key 32q + b, with the HOLE_INTERVAL that applied to the insert (R108). -/
  holes : NMap Nat
  /-- Changes of the batch being applied: table, quadrants, offset, length (for R349's undo). -/
  log : List (Nat × Nat × Nat × Nat)
  queue : NMap (List LearnReq)
  seen : List SeenRec
  flaps : List FlapRec
  age : NMap AgeSweep
  conDefer : List ConDefer
  /-- Blocks unverified in the last sweep of their table, the same so far in the sweep in progress, and
  the sweeps in progress with their start and whether they have found a difference or an unverified block. -/
  conUnver : List (Nat × Nat × Nat)
  conUnverNow : List (Nat × Nat × Nat)
  conSweep : NMap (Nat × Bool)
  deriving DecidableEq, Repr

/-! ### Memory and the HBM stacks (chapter 11) -/

/-- Byte-addressed memory: listed bytes in rising address order, none of them zero; an unlisted byte reads 0. -/
abbrev Mem := List Host.Cell

/-- A migration (R315): logical channel, source, destination. The copied blocks are in HBM_MIG_STAT.MARK. -/
structure MigS where
  logical : Nat
  src : Nat
  dst : Nat
  deriving DecidableEq, Repr

/-- A row that a bank holds open (R299): its number, the last access to it, and the burst a requester may go on with:
its granules left and when it ends. -/
structure RowS where
  row : Nat
  last : Nat
  req : Nat
  left : Nat
  till : Nat
  deriving DecidableEq, Repr

/-- State of chapter 11 that is not a register field. Keys of memory and poison: stack × 2^40 + address. -/
structure HbmS where
  mem : Mem
  /-- Granules that carry a poison mark (R306). -/
  poison : List Nat
  /-- Postponed refreshes per channel, key 64 × stack + channel (R308). -/
  debt : NMap Nat
  /-- Channels in a training pass, key 64 × stack + channel, with the UPTIME of its start (R312). -/
  pass : NMap Nat
  /-- Logical channels handed to a spare without migration, key 64 × stack + logical channel: the granules
  written since, and whether the record-space clear has run over them (R316). -/
  lost : NMap (List Nat × Bool)
  /-- The temperature at a channel's last pass and its UPTIME (R312). -/
  passTemp : NMap Nat
  passAt : NMap Nat
  mig : NMap MigS
  /-- Stacks in initial training (R313). -/
  initial : List Nat
  /-- First-read mismatches per channel, UPTIME of each (R317), and automatic triggers that wait. -/
  mism : NMap (List Nat)
  /-- Passes that a rate change found gathering: discarded, and run again at the new rate (R313). -/
  again : List Nat
  autoWait : List (Nat × Nat)
  /-- Open rows, key 65,536 × (64 × stack + channel) + bank (R299). -/
  rows : NMap RowS
  /-- The bank whose refresh is next, per channel (R308). -/
  bank : NMap Nat
  /-- UPTIME at which a stack's refresh catch-up ends (R310). -/
  catchUntil : NMap Nat
  /-- Granules in a stack's write queue, oldest first, as keys of memory (R300). -/
  queued : List Nat
  deriving DecidableEq, Repr

/-! ### The flow table (chapter 6) and its services (chapter 7) -/

/-- State of a cache line (R153); an INVALID line is not listed. -/
inductive LineSt where
  | clean | dirty | filling
  deriving DecidableEq, Repr

/-- What a FILLING line waits for (R160, R162, R166). -/
inductive MissSt where
  | none | b0 | b1 | ovf | victim | setup
  deriving DecidableEq, Repr

/-- A way of a flow cache, key 2^24 × quadrant + 16 × set + way: its matched key, record and tag, its hold
list (a frame, and whether it came through an alias), and the task of its setup. -/
structure LineS where
  key : Nat
  st : LineSt
  content : Nat
  pinned : Bool
  used : Nat
  slot : Nat
  hold : List (Nat × Bool)
  miss : MissSt
  task : Nat
  deriving DecidableEq, Repr

/-- An entry of a victim buffer (R166). -/
structure VictimS where
  quad : Nat
  slot : Nat
  key : Nat
  content : Nat
  deriving DecidableEq, Repr

/-- What a fragment entry knows of its flow (R84). -/
inductive FragSt where
  | pending | flow | default
  deriving DecidableEq, Repr

/-- A fragment entry, key 2^14 × quadrant + 4 × set + way. -/
structure FragS where
  key : Nat
  ports : Nat
  st : FragSt
  /-- Flow handle, once the first fragment's flow is known. -/
  handle : Nat
  stamp : Nat
  deriving DecidableEq, Repr

/-- A flow command that waits for a FILLING line (R167). -/
inductive FlowCmd where
  | create (record : Nat)
  | pin
  | unpin
  | delete
  deriving DecidableEq, Repr

structure FlowWait where
  head : List Byte
  mbx : Nat
  key : Option (List Byte)
  matched : Nat
  cmd : FlowCmd
  deriving DecidableEq, Repr

/-- A sweep of a record space (R168): the next slot, its start, and the slots reached before a pause. -/
structure SweepS where
  next : Nat
  start : Nat
  deriving DecidableEq, Repr

/-- A removal sweep (R183): service, backend, when it was scheduled, the next slot of each quadrant, and whether
it has started. -/
structure RemovalS where
  service : Nat
  backend : Nat
  since : Nat
  next : List Nat
  started : Bool
  deriving DecidableEq, Repr

/-- A latency sample slot (R197), key 2^12 × quadrant + slot. -/
structure SampS where
  key : Nat
  since : Nat
  /-- The latency the egress MAC has measured. -/
  lat : Option Nat
  deriving DecidableEq, Repr

/-- A tentative port (R189): quadrant and store slot of the subscriber, address index, public port, task. -/
structure TentS where
  quad : Nat
  sub : Nat
  addr : Nat
  port : Nat
  since : Nat
  task : Nat
  deriving DecidableEq, Repr

/-- State of chapters 6 and 7 that is in no register and not in HBM. -/
structure FloS where
  lines : NMap LineS
  victims : List VictimS
  clock : Nat
  byteTok : NMap Int
  byteAt : NMap Nat
  setTok : NMap Int
  setAt : NMap Nat
  frag : NMap FragS
  sweep : NMap SweepS
  removal : List RemovalS
  waiting : List FlowWait
  samples : NMap SampS
  /-- Export buffer per quadrant: when the record entered, IPv6 or not, the data record. -/
  expBuf : NMap (List (Nat × Bool × List Byte))
  /-- The rewrite array and the pool table (R184, R185), replicated in the table stores. -/
  rewrite : NMap Nat
  pools : NMap Nat
  /-- Port-bitmap slots in use, 2^20 × quadrant + slot (R187). -/
  maps : List Nat
  tentative : List TentS
  /-- Admission classes (R196): RATE and BURST; tokens per quadrant, key 2^16 × quadrant + class. -/
  adm : NMap (Nat × Nat)
  admTok : NMap Int
  admAt : NMap Nat
  /-- UPTIME of the last POOL_EXHAUSTED event per pool (R193). -/
  exhaustedAt : NMap Nat
  /-- UPTIME in ns at which a quadrant last sent its templates since EXPORT_EN became 1 (R199). -/
  tmplAt : NMap Nat
  deriving DecidableEq, Repr

/-! ### Flow engines (chapter 8) -/

/-- A buffered message of an ordered task (R232). -/
inductive BufMsg where
  | event (payload : List Byte)
  | inject (port : Nat) (bytes : List Byte)
  | ipfix (bytes : List Byte)
  deriving DecidableEq, Repr

/-- A task (R223–R225, R231). `line` is the FILLING line of a setup, `ctx` the context that runs it. -/
structure TaskS where
  kind : Nat
  quad : Nat
  cls : Nat
  group : Nat
  entry : Nat
  prio : Nat
  ordered : Bool
  domain : Nat
  seq : Nat
  args : List Nat
  payload : List Byte
  line : Option Nat
  ctx : Option Nat
  flag : Option Nat
  cancel : Bool
  abandoned : Bool
  since : Nat
  msgs : List BufMsg
  /-- The key of the record a place of this task put in HBM. -/
  placed : Option Nat
  /-- SEQ of the task's domain has been assigned (R231). -/
  admitted : Bool
  /-- What the standard setup microcode has decided (R175): the outcome the task ends with. -/
  decided : Option Nat
  deriving DecidableEq, Repr

/-- An outstanding asynchronous memory operation (R214). -/
structure MemOpS where
  op : Nat
  space : Nat
  len : Nat
  lbOff : Nat
  addr : Nat
  dataReg : Nat
  a : Nat
  b : Nat
  /-- The line-buffer granules a write or a flow-table operation takes, as they stood at its issue. -/
  data : List Byte
  /-- The word's HBM page hint (R206, R299). -/
  hint : Nat
  /-- The sampler's selector, the word's address, and whether the word waited (R452). -/
  sel : Option Nat
  uaddr : Nat
  waited : Bool
  deriving DecidableEq, Repr

/-- What a suspended context waits for: its word's WAIT_COND, MDONE, or room for its message. `over`: its wait has
ended, and its word has yet to take an issue slot (R204). -/
inductive WaitSt where
  | no | cond | mdone | msg | over
  deriving DecidableEq, Repr

/-- A context that runs a task (R205). -/
structure CtxS where
  task : Nat
  pc : Nat
  w : List Nat
  z : Bool
  n : Bool
  c : Bool
  v : Bool
  stack : List Nat
  merr : Bool
  timeout : Bool
  mem : Option MemOpS
  waiting : WaitSt
  /-- Pending interrupts: cause and code, oldest first. -/
  intr : List (Nat × Nat)
  inTrap : Bool
  /-- A trap whose entry waits for MDONE: cause, code and address. -/
  trapWait : Option (Nat × Nat × Nat)
  /-- Of the word being issued: the selector that samples it, and whether it has waited (R452). -/
  sel : Option Nat
  waited : Bool
  /-- The handle of the task's last space-1 operation. -/
  handle : Option Nat
  deriving DecidableEq, Repr

/-- A group's control store and its section's header (R220). -/
structure StoreS where
  words : NMap Nat
  count : Nat
  kinds : Nat
  faultVec : Nat
  intVec : Nat
  entries : List Nat
  ft : NMap Nat
  /-- The section is Naurn's standard setup microcode (R175). -/
  std : Bool
  deriving DecidableEq, Repr

/-- A slot of an ordering domain (R232). -/
inductive RelS where
  | pending
  | done (task outcome : Nat)
  | void
  deriving DecidableEq, Repr

/-- State of chapter 8 that is not a register field. Groups are 8 × quadrant + k, contexts 64 × group + c. -/
structure EngS where
  store : NMap StoreS
  scratch : Mem
  lb : Mem
  /-- Table-store bytes that engines have written by byte offset, key 2^32 × quadrant + offset. -/
  tstore : NMap Byte
  ctxs : NMap CtxS
  tasks : NMap TaskS
  nextTask : Nat
  /-- Queued tasks, key 8 × group + level; the input side queue per quadrant. -/
  queues : NMap (List Nat)
  side : NMap (List Nat)
  /-- Created tasks not yet admitted, per quadrant, oldest first. -/
  inq : NMap (List Nat)
  /-- NEXT and HEAD per domain, key 2^16 × quadrant + domain; slots, key 2^16 × that + sequence. -/
  doms : NMap (Nat × Nat)
  rel : NMap RelS
  affinity : NMap Nat
  /-- Tasks in affinity slots, per group (R228). -/
  affWait : NMap (List Nat)
  /-- Reloads under way: group and class. -/
  loading : NMap Nat
  /-- Idle groups that stand in while a class region is spliced (R236, R407). -/
  standIn : List Nat
  /-- The context of an engine (16 × group + engine) whose turn is next, 0–3 (R204). -/
  turn : NMap Nat
  deriving DecidableEq, Repr

/-! ### Clusters (chapter 14) -/

/-- What a device keeps of a peer: the replay window of R372 (highest BOOT and SEQ, bit i of `mask`: SEQ − i has
arrived) and its last heartbeat (BOOT, acting role, TIM_STAT, LAST_ID, TIM_UPTIME of its arrival), the consecutive
heartbeats whose LAST_ID differed, and when its previous instance was last heard (R378). -/
structure PeerS where
  boot : Nat
  seq : Nat
  mask : Nat
  hbBoot : Option Nat
  acting : Nat
  tstat : Nat
  lastId : Nat
  heard : Nat
  diff : Nat
  prevHeard : Option Nat
  deriving DecidableEq, Repr

/-- A cluster commit at the acting Director (R382): the Crew that must vote, the votes in order of arrival, the
Crew that have acknowledged GO, and the answer CLU_COMMIT owes. -/
structure CommitS where
  id : Nat
  tAct : Nat
  crew : List Nat
  votes : List (Nat × Status)
  go : Bool
  acked : List Nat
  head : List Byte
  mbx : Nat
  key : Option (List Byte)
  deriving DecidableEq, Repr

/-- Which devices may hold a range of a pool's addresses (CLU_LEASE_SET). -/
structure GrantS where
  pool : Nat
  first : Nat
  count : Nat
  mask : Nat
  deriving DecidableEq, Repr

/-- A lease as the acting Director or the deputy counts it: held until this TIM_UPTIME; for the deputy also the
Director's own uptime in ms as LEASE_SYNC gives it. -/
structure LeaseS where
  pool : Nat
  first : Nat
  count : Nat
  device : Nat
  boot : Nat
  until_ : Nat
  dirMs : Nat
  deriving DecidableEq, Repr

/-- A lease this device holds, with its expiry. -/
structure HeldS where
  pool : Nat
  first : Nat
  count : Nat
  expiry : Nat
  deriving DecidableEq, Repr

/-- State of chapter 14 that is not a register field. -/
structure ClusterS where
  peers : NMap PeerS
  /-- SEQ of the last message sent. -/
  seqOut : Nat
  /-- The epoch that T_SWITCH brings (R374). -/
  rollTo : Nat
  commit : Option CommitS
  /-- RING_VER per service, and services whose copy has missed a message (R377). -/
  ringVer : NMap Nat
  missed : List Nat
  grants : List GrantS
  leases : List LeaseS
  held : List HeldS
  /-- The highest TERM of an accepted message (R371, R384). -/
  seenTerm : Nat
  /-- Services whose whole copy is arriving, with the ring slot expected next (R377). -/
  resync : NMap Nat
  /-- Bolvis frames that wait for their port's gates to close: peer, port, frame (R370). -/
  outq : List (Nat × Nat × List Byte)
  deriving DecidableEq, Repr

end Sys2Proof.Machine
end

