-- ==== Sys2Proof/Syntax.lean ====
section
/-!
DEFINITION. The commands of the block: one constructor per row of the opcode table. Every row is a
register access, an operation of a bus or protocol, an event of a pin, a timer or an engine of the
block, or a firmware command; the operands are what the rule of the row says it carries. Rows
without operands stand last.
-/

namespace Sys2Proof

open Sys2Proof.Machine

/-- The commands and events of the block. -/
inductive Instr where
  /-- R16. A write to a register field that has no step of its own takes effect according to its access
    code. -/
  | registerWrite (requester addr value : Nat)
  /-- R13. A 32-bit access to half of a register holding a field that crosses bit 32 is staged in or
    latched from the requester's latch. -/
  | halfAccess (requester addr : Nat) (write : Bool) (value : Nat)
  /-- R14. A 32-bit access to a 64-only register reads all ones or writes nothing, and sets
    HIF_ERR_STAT.NARROW. -/
  | narrowAccess (requester addr : Nat) (write : Bool)
  /-- R15. An access to a BAR0 offset that holds no register reads 0 or has no effect, and sets
    HIF_ERR_STAT.UNMAPPED. -/
  | unmappedAccess (requester addr nbytes : Nat) (write : Bool)
  /-- R322. A host write to a register that only a management core writes has no effect and sets
    HIF_ERR_STAT.PROTECTED. -/
  | protectedWrite (requester addr : Nat)
  /-- R243. The ingress MAC begins a frame, gives it an owner class and chooses its pool at the first cell.
    -/
  | frameStart (port : Nat) (bytes : List Byte) (align : Nat) (clean : Bool)
  /-- R246. Each further cell of a frame is cut, gets a CRC and is admitted against its owner. -/
  | cellWrite (port : Nat) (bytes : List Byte)
  /-- R494. At the last byte, runt length and FCS are checked, EOF is written and store-and-forward copies
    are enqueued. -/
  | frameEnd (port : Nat) (bytes : List Byte) (witErr : Bool)
  /-- R260. A port reports loss of signal, lock or a local fault before the last byte of a frame, and the
    MAC declares a stop. -/
  | inputStop (port : Nat)
  /-- R76. The first cell with its metadata enters the serving pipe, which stamps the take and runs the
    ingress section. -/
  | packetIngress (head ecc : Nat) (witErr : Bool)
  /-- R160. A bucket read returns and the miss engine finds the key, reads onward, ends the miss on poison,
    or turns it into a setup. -/
  | bucketReadDone (line : Nat) (first again : List (Nat × Nat))
  /-- R166. A victim writeback completes and frees its buffer entry, and a waiting miss goes on. -/
  | writebackDone (entry ecc : Nat)
  /-- R256. When a port can accept a frame, its scheduler descends the queue tree by priority, DWRR,
    shapers, gates and the guard, and selects a frame. -/
  | schedulerSelect (port : Nat) (hurt : List Byte)
  /-- R257. The head scan visits every backlogged queue head and drops expired heads. -/
  | headScan (quad : Nat)
  /-- R240. The egress section and MAC read the cells, check CRCs, apply rewrites and the MAC directive,
    and send or stomp the copy. -/
  | egressSend (port fault : Nat) (out : Option (List Byte)) (dir align : Nat)
  /-- R248. A named owner releases a shared chain, and the last release frees it, while an early free is
    refused. -/
  | chainRelease (head : Nat) (writer : Bool) (cp : Nat)
  /-- R247. A management-core request frees the chain at PTR under the freeing rules. -/
  | celFree (requester quad ptr : Nat)
  /-- R253. A port switches to its new queue-tree configuration at its next frame boundary on egress. -/
  | portTreeSwitch (port : Nat)
  /-- R325. A copy queued to a host port is written into a posted receive buffer with its timestamp record.
    -/
  | rxFrameWrite (port fault : Nat) (desc : List Byte) (out : Option (List Byte))
  /-- R323. A host write of TAIL to a packet ring doorbell posts descriptors. -/
  | txRingDoorbell (off tail : Nat)
  /-- R324. The device reads a transmit descriptor's frame, checks its length and injects it at the host
    port. -/
  | txDescriptor (ring : Nat) (desc frame : List Byte)
  /-- R326. The device writes an event entry to the event ring, or discards it when the ring is full. -/
  | eventPost (typ quad : Nat) (ctl : Bool) (payload : List Byte)
  /-- R326. The host returns consumed event entries by writing HEAD to the event doorbell. -/
  | eventRingHead (head : Nat)
  /-- R327. A host write of TAIL to a table-update ring doorbell posts batch segments. -/
  | tuRingDoorbell (off tail : Nat) (segs : List (List Byte × List Byte))
  /-- R349. A batch whose LAST segment is not posted within 100 ms is refused with INCOMPLETE. -/
  | batchIncomplete (ring : Nat)
  /-- R27. A management-core write of GO starts a stand-in handover of TARGET, or refuses it. -/
  | handoverGo (requester quad target : Nat)
  /-- R28. A port of the target's port groups is redirected to the spare at its next packet boundary. -/
  | handoverPortSwitch (port : Nat)
  /-- R28. The target's end marker for a port group reaches the queue manager, which releases the spare's
    held frames. -/
  | handoverEndMarker (quad pg : Nat) (witErr : Bool)
  /-- R28. The target holds no packet or pending access, and the crossbar shows the spare in its place. -/
  | handoverRelieved (quad : Nat)
  /-- R29. The relieved pipe's test or reload ends, and it becomes the spare or is retired. -/
  | relievedPipeTestDone (quad : Nat) (pass : Bool)
  /-- R404. The rotation sequencer starts the next step on the next target in rotation order. -/
  | rotationStep (quad : Nat)
  /-- R30. The program load of the spare for the next target completes. -/
  | spareProgramLoadDone (quad : Nat)
  /-- R35. A flit CRC mismatch requests a replay, and three failed replays declare the link faulty and drop
    its frames with 0x13. -/
  | flitReplay (link failed : Nat) (frames : List Nat)
  /-- R395. The rails reach their good levels and a power-on reset sequence starts. -/
  | powerGood (strapFlash strapSmb : Nat) (flash : Option FlashS)
  /-- R395. PWR_RST_N held low for 1 µs starts a cold reset sequence. -/
  | pwrRstN (strapFlash strapSmb : Nat) (flash : Option FlashS)
  /-- R394. The WARM_RESET command is answered OK and schedules a warm reset 100 µs after the response. -/
  | warmReset (hdr : CmdHdr)
  /-- R395. Fuses are sensed and key slots 0 and 1 are filled. -/
  | fuseSense (part : PartS) (fuses : FuseS)
  /-- R395. The PLLs lock, or the sequence waits at step 3 until a missing reference clock appears. -/
  | pllLock (clocksOk : Bool)
  /-- R395. The boot ROM finishes verifying a firmware slot and starts firmware, tries the other slot, or
    sets FW_ERR. -/
  | fwVerifyDone (tail : Nat)
  /-- R64. The full image has been read into staging, and the loader runs its ordered checks and refuses or
    applies it. -/
  | imageReadDone (ids : List StackId) (hurt : List Nat)
  /-- R388. The image is applied, and with the device keys derived the mode changes to TEST. -/
  | loadApplyDone (v0 : Nat)
  /-- R311. Initial training of a stack completes, or fails and keeps the device in TEST. -/
  | initTrainingDone (stack : Nat) (ok : Bool) (bad : List Nat)
  /-- R173. Clearing of a quadrant's record space completes. -/
  | recordSpaceClearDone (quad : Nat) (ok : Bool)
  /-- R438. 1 ms after TEST entry V1 is sampled, HOLDUP_TEST is released and the usable energy is judged.
    -/
  | holdupSample (v1 : Nat)
  /-- R390. All TEST checks finish, and the device enters SYNC or stays in TEST with TEST_FAIL. -/
  | testComplete (badPipes badGroups : List Nat)
  /-- R398. PERST_N resets the HIF domain, rings, host sessions and locks. -/
  | perstN (low : Bool)
  /-- R398. A function level reset resets one function as a reset of that master. -/
  | flr (fn : Nat)
  /-- R333. On a master's reset its FULL inbound mailboxes are emptied and its locks released. -/
  | masterReset (master : Nat)
  /-- R397. A domain reset of a pipe clears its pipeline state, or is refused. -/
  | domainResetPipe (requester quad index : Nat)
  /-- R237. A domain reset of an engine group kills contexts, moves queued tasks and clears scratch and
    flags. -/
  | domainResetGroup (requester quad index : Nat)
  /-- R318. A domain reset of an HBM stack resets its controller and PHY in self-refresh and retrains it.
    -/
  | domainResetStack (requester quad index : Nat)
  /-- R397. A domain reset of a management core restarts it while the other cores take its duties. -/
  | domainResetCore (requester quad index : Nat)
  /-- R397. A management-core watchdog expires, raising fault 15 and resetting that core's domain. -/
  | watchdogExpire (core : Nat)
  /-- R399. PD = 1 powers down a port's lanes and drops its queued copies with 0x10. -/
  | portPowerDown (requester port : Nat)
  /-- R399. PD = 0 retrains a powered-down port. -/
  | portPowerUp (requester port : Nat)
  /-- R399. RETRAIN retrains a port's lanes in full while they stay powered. -/
  | portRetrain (requester port : Nat)
  /-- R399. A port's training ends and its link comes up. -/
  | portTrainDone (port : Nat)
  /-- R400. A request to park a quadrant is checked and waits for its pools to drain. -/
  | quadrantPark (requester quad : Nat)
  /-- R400. After the cells drain, the quadrant's clocks, stack, SerDes and fabric links are put to rest.
    -/
  | parkComplete (quad : Nat)
  /-- R400. Pools still holding cells 1 s after a park request complete the request with BUSY. -/
  | parkDrainTimeout (quad : Nat)
  /-- R400. Clearing the park bit relocks, retrains and rotates the quadrant. -/
  | quadrantUnpark (requester quad : Nat)
  /-- R403. A region goes live, IMG_REGION_VER updates, and the next region starts or the mode returns to
    SERVE. -/
  | regionLive (region : Nat)
  /-- R392. The SAFE_EXIT command leaves SAFE when no fault stands, and a paused splice resumes. -/
  | safeExit (hdr : CmdHdr)
  /-- R409. MOD_FW.RESTART verifies the next firmware slot and starts a hitless restart. -/
  | fwRestart (requester : Nat)
  /-- R65. A partial image is checked in order and accepted for splicing or refused. -/
  | imagePartial (hdr : CmdHdr) (bytes : List Byte)
  /-- R496. A full or firmware image is staged, verified and, if every check passes, written to a flash
    slot. -/
  | flashImage (hdr : CmdHdr) (slot : Nat) (bytes : List Byte)
  /-- R61. BOOT_SET writes IMG_BOOT and the boot record together. -/
  | bootSet (hdr : CmdHdr) (slot fallback : Nat)
  /-- R60. ROLLBACK_COMMIT blows fuses one at a time until F equals the running ROLLBACK, and journals it.
    -/
  | rollbackCommit (hdr : CmdHdr) (cut : Option Nat)
  /-- R349. A batch is tag-verified and its entries are applied in order, or undone on a refusal. -/
  | tableBatch (hdr : CmdHdr) (batch : List Byte)
  /-- R108. While no command waits, the insertion manager moves entries to restore hole spacing. -/
  | holeRestore (quad : Nat)
  /-- R114. The bank scrubber reads one slice, checks CHECK, and records and journals a mismatch. -/
  | cmsScrub (quad bank slice : Nat) (bad : Bool)
  /-- R93. TAKE_COMMIT activates the next take immediately or schedules a timed commit, or is refused. -/
  | takeCommit (hdr : CmdHdr) (timed : Bool) (tAct : Nat)
  /-- R93. TAKE_DISCARD undoes staged changes and cancels a pending timed commit, or is refused with BUSY.
    -/
  | takeDiscard (hdr : CmdHdr)
  /-- R134. The learn arbiter commits a queued learn request, or floods on failure. -/
  | learnCommit (table : Nat)
  /-- R135. The learn arbiter decides a move request, applies or holds a flap, and posts STATION_MOVE. -/
  | moveDecide (table : Nat)
  /-- R137. The sweeper visits a bucket, test-and-clears HIT, or removes idle entries under the HIT or
    stamp rule. -/
  | ageingVisit (table : Nat)
  /-- R141. The checker starts a sweep of a table, compares block CRCs with the shadow and defers differing
    blocks. -/
  | continuitySweep (table : Nat) (shadow : List Byte) (hurt : List (Nat × Nat))
  /-- R141. A deferred block is re-read once APPLIED_SEQ catches up, or is counted unverified on timeout.
    -/
  | continuityCatchup (table quad block applied : Nat) (shadow : List Byte) (hurt : List Nat) (timedOut : Bool)
  /-- R258. REPL_SET writes a new member run and then the group entry. -/
  | replSet (hdr : CmdHdr) (group : Nat) (members : List (Nat × Nat × Bool))
  /-- R163. A setup not released within LIMIT_US is abandoned, and its held packets take the default
    action. -/
  | setupLimitExpire (task : Nat)
  /-- R167. FLOW_CREATE places and installs a record, or is refused. -/
  | flowCreate (hdr : CmdHdr) (record : Nat)
  /-- R167. FLOW_PIN fetches a record and pins it, or is refused. -/
  | flowPin (hdr : CmdHdr) (key : Nat)
  /-- R167. FLOW_UNPIN clears PIN, or is refused. -/
  | flowUnpin (hdr : CmdHdr) (key : Nat)
  /-- R167. FLOW_DELETE removes a record with its alias. -/
  | flowDelete (hdr : CmdHdr) (key : Nat)
  /-- R167. A flow command waiting on a FILLING line is decided when the line resolves. -/
  | flowCmdResume (entry : Nat)
  /-- R223. The sweep sequencer posts a sweep task for the next 4,096 slots. -/
  | sweepTaskPost (quad : Nat) (removal : Option Nat)
  /-- R170. A repair task re-reads a quarantined bucket granule by granule, rewrites or clears it, and
    unlists it. -/
  | quarantineRepair (quad entry : Nat) (bad : List Nat)
  /-- R189. The subscriber home allocates a tentative port from a held or new block, or reports exhaustion.
    -/
  | portAllocate (vrf : Nat) (v6 : Bool) (addr pool task : Nat)
  /-- R189. A tentative port not confirmed within 20 µs is released. -/
  | tentativePortExpire (entry : Nat)
  /-- R190. A port is released at the subscriber home and an emptied block is held. -/
  | portRelease (vrf : Nat) (v6 : Bool) (addr index port : Nat)
  /-- R190. Firmware visits each subscriber store once per second and releases expired held blocks. -/
  | subscriberVisit (quad : Nat)
  /-- R203. SVC_SET writes a service entry. -/
  | svcSet (hdr : CmdHdr) (service policy seed : Nat) (hpEn : Bool) (hpPool max : Nat)
  /-- R203. SVC_DELETE undefines a service. -/
  | svcDelete (hdr : CmdHdr) (service : Nat)
  /-- R182. BACKEND_SET changes a backend's state or fields by the backend state table and rebuilds the
    ring. -/
  | backendSet (hdr : CmdHdr) (service index addr : Nat) (v6 : Bool) (port zone weight state : Nat)
  /-- R183. 20 µs after a backend is removed, its removal sweep starts. -/
  | removalSweepStart (entry : Nat)
  /-- R182. A removal sweep ends, and the backend's BOUND clears and its index is freed. -/
  | removalSweepEnd (entry : Nat)
  /-- R203. POOL_SET writes a pool and its address entries. -/
  | poolSet (hdr : CmdHdr) (pool entry : Nat) (addrs : List Nat)
  /-- R203. POOL_CLEAR removes a pool without blocks. -/
  | poolClear (hdr : CmdHdr) (pool : Nat)
  /-- R196. ADM_SET writes an admission class and refills its buckets. -/
  | admSet (hdr : CmdHdr) (cls rate burst : Nat)
  /-- R197. A sample flit returns a latency that updates HIST and frees the slot. -/
  | sampleReturn (quad slot : Nat)
  /-- R197. A sample slot not returned within 1 ms is freed and counted. -/
  | sampleSlotExpire (quad slot : Nat)
  /-- R202. An IPFIX frame is built and enqueued when the next record exceeds MTU or the oldest record is
    100 ms old. -/
  | exportFrameBuild (quad : Nat)
  /-- R199. Templates are sent at enable and every TEMPLATE_S seconds. -/
  | templateSend (quad : Nat)
  /-- R231. A task is admitted to its group queue with a sequence in its domain, or held in the side queue.
    -/
  | taskAdmit (quad : Nat)
  /-- R227. The dispatcher starts the chosen task or flag task on an engine context. -/
  | dispatch (quad grp : Nat) (aff : Option Nat)
  /-- R210. A context issues a microword, which performs its ALU, memory, message and next-address
    operations. -/
  | microwordIssue (quad grp ctx ecc : Nat)
  /-- R214. An asynchronous memory operation completes, sets MDONE and may set MERR. -/
  | memOpComplete (quad grp ctx : Nat) (first again : List (Nat × Nat))
  /-- R215. A flow-table read fetches a record into the line buffer. -/
  | fopRead (quad grp ctx : Nat) (first again : List (Nat × Nat))
  /-- R164. A flow-table place puts a record and its alias in HBM by the placement rules. -/
  | fopPlace (quad grp ctx : Nat)
  /-- R215. A flow-table update rewrites a record in the cache or HBM. -/
  | fopUpdate (quad grp ctx : Nat)
  /-- R215. A flow-table remove removes a record, with an idleness re-test if RETEST is set. -/
  | fopRemove (quad grp ctx : Nat)
  /-- R215. A flow-table pin sets PIN within the pin limits. -/
  | fopPin (quad grp ctx : Nat)
  /-- R215. A flow-table unpin clears PIN. -/
  | fopUnpin (quad grp ctx : Nat)
  /-- R212. A waiting context resumes when its condition holds or its timeout passes. -/
  | waitEnd (quad grp ctx : Nat) (timedOut : Bool)
  /-- R224. TSK_POST_CTL.GO posts a descriptor as a kind-3 task, or reports BUSY, INVALID or REFUSED_MODE.
    -/
  | taskPost (requester quad grp : Nat)
  /-- R233. TSK_CANCEL.GO cancels an outstanding ordered task. -/
  | taskCancel (requester quad domain seq : Nat)
  /-- R233. A cancelled task still running 10 µs after its cancel has its context killed. -/
  | cancelKill (quad grp ctx : Nat)
  /-- R217. ENG_INT.GO raises interrupt 0x10 on a context. -/
  | engInt (requester quad grp ctx code : Nat)
  /-- R229. A write to TSK_FLAG sets event flags of a flag task. -/
  | flagWrite (requester quad grp task flags : Nat)
  /-- R229. Every TICK_US the group tick sets bit 31 of every declared flag task. -/
  | flagTick (quad grp : Nat)
  /-- R235. DRAIN removes a group from routing, moves queued tasks and sends cause 0x12 to running
    contexts. -/
  | groupDrain (requester quad grp : Nat)
  /-- R235. 20 µs into a drain, running contexts are killed and the group becomes drained. -/
  | drainKill (quad grp : Nat)
  /-- R235. RETURN brings a drained group back to serving. -/
  | groupReturn (requester quad grp : Nat)
  /-- R236. ADOPT loads a class control store into an idle or drained group. -/
  | groupAdopt (requester quad grp cls : Nat)
  /-- R235. RELEASE makes a drained group idle. -/
  | groupRelease (requester quad grp : Nat)
  /-- R341. The ENG_GROUP command drains, returns, adopts or releases an engine group. -/
  | engGroup (hdr : CmdHdr) (quad grp op cls : Nat)
  /-- R428. The engine-group test steps a group through drain, BIST slice and return or release, and a
    failure raises code 9. -/
  | engineGroupTest (quad grp : Nat) (idle : Option Nat) (pass : Bool)
  /-- R264. A write of TIM_INCREMENT takes effect if in range, or sets INC_REJ. -/
  | timIncrementWrite (requester value : Nat)
  /-- R266. A host write subtracts ACK from PENDING and may clear REBASE. -/
  | timEpochAck (requester ack : Nat) (clrRebase : Bool)
  /-- R269. A firmware step of the counter is applied or refused by state and jump limit. -/
  | timAdjStep (requester step : Nat)
  /-- R269. A firmware absolute set is applied in NO_TIME or refused. -/
  | timAdjSet (requester ns : Nat)
  /-- R268. Firmware declares lock and the time base becomes TIMED with VALID = 1. -/
  | lockDeclare (requester : Nat) (director : Bool) (epoch : Nat)
  /-- R268. Firmware declares loss of reference and the time base enters HOLDOVER. -/
  | lossDeclare (requester : Nat)
  /-- R290. TIME_SET sets network time absolutely and suspends the lists. -/
  | timeSet (hdr : CmdHdr) (sec ns : Nat)
  /-- R290. TIME_STEP steps the counter whatever the jump limit and suspends the lists. -/
  | timeStep (hdr : CmdHdr) (amount : Int)
  /-- R290. TIME_CFG writes the jump limit and the holdover duration. -/
  | timeCfg (hdr : CmdHdr) (limit hold : Nat)
  /-- R283. Firmware writes BASE and sets RUN to start a gate list, or the write is refused with BASE_ERR.
    -/
  | gateListRun (requester port base : Nat) (run : Bool)
  /-- R283. An entry interval ends and the gate engine applies the next entry, advancing the cycle starts
    at a cycle end. -/
  | gateEntryAdvance (port : Nat)
  /-- R284. A pending administrative list becomes operating at its change time. -/
  | listChangeTime (port : Nat)
  /-- R290. GATE_SET writes the administrative bank for a change under R284. -/
  | gateSet (hdr : CmdHdr) (port sched cycle baseOff : Nat) (entries : List (Nat × Nat))
  /-- R289. RSV_SET validates and installs a reservation. -/
  | rsvSet (hdr : CmdHdr) (queue port tc maxLen admOff admLen egrOff egrLen frames : Nat)
  /-- R290. RSV_CLEAR invalidates a reservation and drops its queued frames with 0x12. -/
  | rsvClear (hdr : CmdHdr) (queue : Nat)
  /-- R287. At each admission window start the reservation's USED returns to 0. -/
  | admissionWindowStart (queue : Nat)
  /-- R288. A frame still queued at the end of its egress window is dropped with 0x12. -/
  | egressWindowEnd (queue : Nat)
  /-- R276. A read of MAC_TXTS_LO dequeues the oldest transmit record and latches its second half. -/
  | macTxtsRead (requester port : Nat)
  /-- R280. A read of TIM_PPS_IN returns the capture and clears NEW. -/
  | ppsInRead (requester : Nat)
  /-- R279. A SyncE output is held low on link or lock loss and resumes after relock. -/
  | synceSquelch (output : Nat) (locked : Bool)
  /-- R300. A request arrives at the stack controller and is ordered, forwarded from the write queue and
    served. -/
  | hbmRequest (stack : Nat) (port : HbmPort) (op addr len : Nat) (data : List Byte) (forwarded : Bool)
    (first again : List (Nat × Nat))
  /-- R308. A per-bank refresh falls due and is issued or postponed. -/
  | refreshDue (stack pc : Nat) (flowQueued : Bool)
  /-- R309. Every 32 µs the stack temperature is read and hot state and alerts are updated. -/
  | tempReading (stack temp : Nat)
  /-- R312. A periodic or temperature-triggered retraining pass starts on a pseudo-channel. -/
  | retrainPass (stack pc : Nat)
  /-- R312. A retraining pass completes and a held rate change proceeds. -/
  | retrainPassDone (stack pc : Nat) (ok : Bool)
  /-- R313. MEM_RATE changes a stack's pin rate, held for a gathering pass if needed. -/
  | memRate (hdr : CmdHdr) (stack rate : Nat)
  /-- R313. A pin-rate change completes and the stack resumes. -/
  | rateChangeDone (done : RateEnd)
  /-- R317. PC_RETIRE starts a migration or retires a channel without migration. -/
  | pcRetire (hdr : CmdHdr) (stack pc rmode : Nat)
  /-- R315. One 1 KiB row-block is copied to the spare and MARK advances, with roles changing at the last
    block. -/
  | migrationBlockCopy (stack : Nat) (errs : List (Nat × Nat × Nat))
  /-- R331. A write to a mailbox message area stores the bytes or is rejected. -/
  | mbxDataWrite (master n word value : Nat)
  /-- R331. A write of MBX_HDR posts the message, sets SENDER and SEQ and notifies the reader. -/
  | mbxDoorbell (master n value : Nat) (msg : List Byte)
  /-- R330. A read of MBX_TAKE by the reader returns the header, empties the mailbox and notifies the
    writer. -/
  | mbxTake (master n : Nat)
  /-- R335. A read of a lock acquires it when free or reports its owner. -/
  | lockAcquire (requester lock : Nat)
  /-- R336. A write of its own number by the owner releases the lock, or leaves it RELEASING. -/
  | lockRelease (requester lock value : Nat)
  /-- R335. A management core force-releases a lock, and the release is journalled. -/
  | lckForce (core lock : Nat)
  /-- R337. A management core takes a command from a command mailbox and it becomes BUSY. -/
  | commandTake (core n : Nat)
  /-- R337. Firmware writes the response, which is delivered or discarded if the lock is releasing. -/
  | commandResponse (core n : Nat)
  /-- R343. SESSION_CHALLENGE returns a device nonce bound to the requester. -/
  | sessionChallenge (hdr : CmdHdr)
  /-- R345. SESSION_OPEN verifies signatures and key exchange and derives the session keys. -/
  | sessionOpen (hdr : CmdHdr) (payload : List Byte)
  /-- R346. SESSION_CLOSE closes a session and erases its key slots. -/
  | sessionClose (hdr : CmdHdr)
  /-- R343. DEVICE_KEYS returns the device's ECDH and ML-KEM public keys. -/
  | deviceKeys (hdr : CmdHdr)
  /-- R337. SESSION_STATUS reports a session's last accepted SEQ and status. -/
  | sessionStatus (hdr : CmdHdr) (session : Nat)
  /-- R341. REG_READ returns register contents. -/
  | regRead (hdr : CmdHdr) (addr count : Nat)
  /-- R341. TABLE_READ returns table contents. -/
  | tableRead (hdr : CmdHdr) (table off len : Nat)
  /-- R437. JOURNAL_READ returns up to COUNT journal records from FROM_SEQ. -/
  | journalRead (hdr : CmdHdr) (first count : Nat)
  /-- R342. REG_WRITE writes masked fields of a core-only register under the rights of its block. -/
  | regWrite (hdr : CmdHdr) (addr value mask : Nat)
  /-- R404. The HANDOVER command is performed by firmware as the next rotation step of its quadrant. -/
  | handover (hdr : CmdHdr) (quad target : Nat)
  /-- R404. ROTATION_SET writes MOD_ROT, journalled, and a clear is refused on SK10240-S. -/
  | rotationSet (hdr : CmdHdr) (enable : Nat)
  /-- R439. HOLDUP_OVERRIDE lets TEST end despite a failed hold-up check on SK10240-C. -/
  | holdupOverride (hdr : CmdHdr)
  /-- R454. The FREEZE command is answered OK and schedules trigger 2 100 µs later. -/
  | freeze (hdr : CmdHdr)
  /-- R458. A rushes request reads a scan chain, array, HBM range or directory into one frame. -/
  | rushesReq (space tag unit addr len : Nat) (valid sec : Bool) (hurt : List Nat)
  /-- R460. HBM_DUMP restarts the chosen stacks' MEM domains for read-out without writing their arrays. -/
  | hbmDump (mask : Nat)
  /-- R365. KEY_LOAD derives KW and unwraps a key into a slot. -/
  | keyLoad (hdr : CmdHdr) (slot use owner : Nat) (key128 : Bool) (wrapped : List Byte)
  /-- R365. KEY_ERASE erases a slot ordinarily or in an emergency. -/
  | keyErase (hdr : CmdHdr) (slot emode : Nat)
  /-- R362. KEY_ZEROIZE erases every slot and device key and sets ZEROIZED. -/
  | keyZeroize (hdr : CmdHdr)
  /-- R360. A pending rewrite is applied when the slot's leases are gone, and GEN advances. -/
  | keyRewriteApply (slot : Nat)
  /-- R354. A write of CIP_RING_TAIL posts job descriptors. -/
  | cipherRingDoorbell (master ring tail : Nat) (descs : List (List Byte))
  /-- R360. A core begins a job, takes its leases and checks the group's GEN. -/
  | cipherJobStart (core : Nat) (input old : List Byte) (dmaErr : Bool)
  /-- R356. A job finishes computing, returns its leases and writes its output. -/
  | cipherJobDone (core : Nat)
  /-- R358. A group's last job ends, its tag is compared, and every member's completion is posted. -/
  | cipherGroupComplete (ring : Nat)
  /-- R363. The signature verifier serves a hash, verification, ECDH or decapsulation request in order. -/
  | sigRequest (func : Nat) (pub msg sig : List Byte)
  /-- R375. A received heartbeat refreshes a peer's liveness, term, time state and LAST_ID. -/
  | heartbeat (port : Nat) (frame : List Byte)
  /-- R375. No heartbeat within MISS_COUNT × HB_MS marks a peer lost. -/
  | peerLost (peer : Nat)
  /-- R375. The acting Director accepts or refuses a JOIN. -/
  | join (port : Nat) (frame : List Byte)
  /-- R375. A Crew receiving JOIN_ACK sets JOINED or counts the refusal. -/
  | joinAck (port : Nat) (frame : List Byte)
  /-- R376. A TIME message carries a PTP message between the acting Director and a Crew. -/
  | time (dst : Option Nat) (port : Nat) (frame : List Byte)
  /-- R377. A Crew applies an SVC message to its service copy. -/
  | svc (port : Nat) (frame : List Byte)
  /-- R377. A Crew applies RING slots, or sends RESYNC on a version gap. -/
  | ring (port : Nat) (frame : List Byte)
  /-- R377. The acting Director resends a whole service on RESYNC. -/
  | resync (port : Nat) (frame : List Byte)
  /-- R378. A holder sets its lease expiry, or revokes the lease for REMAIN_MS 0. -/
  | lease (port : Nat) (frame : List Byte)
  /-- R373. The deputy records a lease from LEASE_SYNC. -/
  | leaseSync (port : Nat) (frame : List Byte)
  /-- R382. A Crew makes a local timed commit and votes. -/
  | prepare (port : Nat) (frame : List Byte)
  /-- R382. The acting Director records a Crew vote. -/
  | vote (port : Nat) (frame : List Byte)
  /-- R382. A Crew arms its commit and sends GO_ACK. -/
  | go (port : Nat) (frame : List Byte)
  /-- R382. The acting Director records a Crew's GO_ACK. -/
  | goAck (port : Nat) (frame : List Byte)
  /-- R382. A Crew cancels its pending cluster commit on ABORT. -/
  | abort (port : Nat) (frame : List Byte)
  /-- R374. A device records T_SWITCH and sets the new epoch then, or at once without valid time. -/
  | keyRoll (port : Nat) (frame : List Byte)
  /-- R381. A STEER frame on a Bolvis port is decapsulated and parsed, or dropped with 0x08. -/
  | steer (port : Nat) (bytes : List Byte) (align : Nat) (witErr : Bool)
  /-- R386. CLU_PEER_SET writes or deletes a peer entry. -/
  | cluPeerSet (hdr : CmdHdr) (id addr mac port : Nat) (delete : Bool)
  /-- R382. CLU_COMMIT runs a cluster commit from the acting Director. -/
  | cluCommit (hdr : CmdHdr) (timed : Bool) (t : Nat)
  /-- R374. CLU_KEY_ROLL distributes KEY_ROLL to the cluster. -/
  | cluKeyRoll (hdr : CmdHdr) (epoch t : Nat)
  /-- R378. CLU_LEASE_SET grants or revokes address leases. -/
  | cluLeaseSet (hdr : CmdHdr) (pool first count mask : Nat)
  /-- R386. CLU_DEPUTY_SET replaces DEPUTY_ID. -/
  | cluDeputySet (hdr : CmdHdr) (id : Nat)
  /-- R385. CLU_RECLAIM takes back the Director role with the next term. -/
  | cluReclaim (hdr : CmdHdr)
  /-- R415. A fault source fires, sets its SAF_FAULT bit and latches SAF_FIRST. -/
  | faultDetect (code unit detail : Nat) (standing : Bool)
  /-- R416. A write of 1 to SAF_FAULT clears acknowledgeable sources. -/
  | faultAck (requester value : Nat)
  /-- R416. A fault clears by itself when its condition ends, and the clearing is journalled. -/
  | faultClear (code unit : Nat)
  /-- R429. A domain clock or reference goes out of tolerance over a 1 µs window. -/
  | clockMonitor (unit : Nat) (hif : Bool)
  /-- R429. A rail leaves its window or the bandgaps disagree. -/
  | voltageMonitor (rail : Nat)
  /-- R429. Every 1 ms the die sensors are voted and over-temperature or disagreement is raised. -/
  | tempVote (die t0 t1 t2 : Nat)
  /-- R429. Every 8 ms the spare test lane and eye monitor are checked. -/
  | serdesLoopback (die : Nat) (laneBad eyeLow : Bool)
  /-- R429. Every 8 ms each stack's PHY spare lane is looped back. -/
  | hbmPhyLoopback (stack : Nat) (bad : Bool)
  /-- R427. A serving pipe untested for 8 ms raises code 8. -/
  | pipeTestAge (quad pipe : Nat)
  /-- R435. A record enters the journal tail or the overflow buffer, or is discarded. -/
  | journalPost (typ sev req unit : Nat) (status : JStatus) (a0 a1 a2 : Nat)
  /-- R435. A flash program of tail records completes and they are mirrored, or a failure is retried. -/
  | journalCommit (count : Nat) (ok : Bool)
  /-- R430. BST_SCAN.EN enables scan test only while ZEROIZED = 1, otherwise REFUSED_MODE. -/
  | scanEnable (requester : Nat)
  /-- R444. A CTR_SEL write takes effect at the next count boundary, or sets SEL_ERR. -/
  | ctrSelWrite (index value inc incEven : Nat)
  /-- R444. A CTR_VAL write sets the counter at the next count boundary. -/
  | ctrValWrite (index value inc : Nat)
  /-- R442. A counter passes 2^48, sets CTR_OVF, may interrupt and chains to its odd neighbour. -/
  | counterOverflow (index inc : Nat)
  /-- R445. A counter reaches a match VALUE, sets HIT and may interrupt or trigger a freeze. -/
  | matchFire (unit inc : Nat)
  /-- R449. A BAR2 counter window access returns a snapshot, or 0 with USER_DENIED. -/
  | counterWindowAccess (requester page slot : Nat) (write narrow : Bool)
  /-- R451. A sampled event completes and its record is written, or discarded when full. -/
  | sampleRecord (quad : Nat)
  /-- R468. A read of an indirect window returns a byte of the selected space. -/
  | indirectWindowRead (requester addr : Nat) (narrow bad : Bool)
  /-- R468. A write to an indirect window has no effect and sets PROTECTED. -/
  | indirectWindowWrite (addr : Nat)
  /-- R493. The SMBus target answers Read Word with PEC and NACKs anything else. -/
  | smbusReadWord (addr code : Nat) (readWord : Bool)
  /-- R332. The PCIe link reaches L0 after an exit from L1 or L2, and the device sends the MSI-X vectors
    held for it. -/
  | pcieLinkL0 (speed width : Nat) (up : LinkUp)
  /-- R120. A front port's link goes down while no frame is being received, removing it from its
    aggregate's up members and setting its state to down. -/
  | portLinkDown (port : Nat)
  /-- R283. The counter reaches BASE of a running list, and entry 0 applies as the first cycle starts. -/
  | gateListStart (port : Nat)
  /-- R236. The control-store load of an adopted or reloaded engine group completes within 80 µs and the
    group starts serving its class. -/
  | controlStoreLoadDone (quad grp ecc : Nat)
  /-- R476. An IEEE 1149.1 instruction such as EXTEST, SAMPLE/PRELOAD, IDCODE or BYPASS is loaded and acts
    on the boundary balls. -/
  | jtagInstruction (instr : JtagIr) (cells : List (String × Bool))
  /-- R396. WARM_RST_N held low for 1 µs starts a warm reset sequence. -/
  | warmRstN
  /-- R396. 100 µs after the WARM_RESET response the warm reset sequence starts. -/
  | warmResetStart
  /-- R396. The journal tail is committed, the stacks enter self-refresh and the domains reset. -/
  | warmResetCommitDone
  /-- R480. A missing reference clock appears and the reset sequence continues from step 3. -/
  | refclkAppear
  /-- R395. 100 ms after both firmware slots fail, the device releases its QSPI pins. -/
  | fwFailQspiRelease
  /-- R364. The verifier derives the device ECDH and ML-KEM key pairs from slot 0. -/
  | deviceKeyDerive
  /-- R391. With valid time and every scheduled list running, or with no scheduled class, the device
    changes from SYNC to SERVE. -/
  | serveEntry
  /-- R409. One management core finishes restarting from the new slot and the next core begins. -/
  | fwCoreRestartDone
  /-- R90. At t_act, or when the previous take settles for a late commit, stamping switches to the new
    take. -/
  | takeActivate
  /-- R95. The older take's packet count reaches zero and the take retires. -/
  | takeDrainComplete
  /-- R95. DRAIN_LIMIT elapses after the switch and the older take retires. -/
  | drainLimitExpire
  /-- R96. Settling of the changed entries ends and OLD_LIVE returns to 0. -/
  | takeSettleDone
  /-- R258. 2 µs after a REPL_SET the old member run is freed. -/
  | replRunFree
  /-- R230. Contexts still running 10 µs after a dispatcher mode change are killed. -/
  | modeChangeKill
  /-- R266. NS wraps by counting, and PENDING advances and the WRAP interrupt is set. -/
  | nsWrap
  /-- R268. The hold timer reaches HOLD_S, VALID falls to 0 and the lists are suspended. -/
  | holdTimerExpire
  /-- R280. PPS_OUT rises when NS reaches NEXT, and NEXT advances by PERIOD_NS. -/
  | ppsOutEdge
  /-- R280. A PPS_IN rising edge captures a timestamp record and sets NEW. -/
  | ppsIn
  /-- R454. FREEZE_N held low for 30 ns fires trigger 1 when armed. -/
  | freezeN
  /-- R456. A freeze trigger records FRZ_LAST, journals, starts zeroize and stops the domains in order. -/
  | freezeTrigger
  /-- R456. The journal tail is committed, CTL and TIM stop, the stacks enter self-refresh and AON stops.
    -/
  | freezeJournalCommitDone
  /-- R460. HBM_DUMP_END returns the stacks to self-refresh and stops their MEM domains. -/
  | hbmDumpEnd
  /-- R373. Every HB_MS a member sends HEARTBEAT to all peers. -/
  | heartbeatSend
  /-- R384. The deputy takes the next term and acts as Director. -/
  | deputyTakeover
  /-- R375. A Crew sends JOIN every 100 ms until accepted, or every 1 s after a refusal. -/
  | joinSend
  /-- R378. Every 2 s the acting Director sends LEASE to each live holder. -/
  | leaseRenew
  /-- R378. At lease expiry the holder sets LEASED := 0. -/
  | leaseExpire
  /-- R382. At T_ACT − 600 µs the Director sends GO or ABORT according to the votes. -/
  | voteDeadline
  /-- R382. Every 50 µs GO is repeated to Crew without GO_ACK until T_ACT − 100 µs. -/
  | goRepeat
  /-- R382. A Crew without GO by T_ACT − 100 µs cancels its commit. -/
  | crewGoDeadline
  /-- R374. At T_SWITCH the device switches its send epoch. -/
  | keySwitch
  /-- R429. The time-base duplicate and rate cross-check fails and lists are suspended. -/
  | timeCrosscheck
  /-- R420. A SAFE_N or FAULT_N read-back that differs for 1 µs raises code 17. -/
  | pinReadback
  /-- R436. PFW_N held low for 1 µs raises code 18 and starts a power-fail commit. -/
  | pfwNAssert
  /-- R436. The tail is committed and PF_DONE is set. -/
  | powerFailCommitDone
  /-- R436. PFW_N deasserts, PF_DONE clears and commits resume. -/
  | pfwNDeassert
  /-- R451. SMP_CTL.CLEAR empties the sample buffer. -/
  | smpClear
  /-- R393. Removal of power ends every mode, FREEZE included, and loses all volatile state until the next
    power-on. -/
  | powerRemoval
  /-- R395. The PCIe REFCLK appears and the HIF PLL locks, making the host interface available. -/
  | pcieRefclkPresent
  deriving DecidableEq, Repr

end Sys2Proof
end

