-- ==== Sys2Proof/Decode.lean ====
section
/-!
DEFINITION. The decoder over table words. No row of the opcode table gives bits (log 1): no word spells
a command.
-/

namespace Sys2Proof

/-- The command a word spells: the table gives no row any bits. -/
def decodeTableWord (_nbits _w : Nat) : Option Instr := none

end Sys2Proof
end

