-- ==== Sys2Proof/Config.lean ====
section
/-!
DEFINITION. What one unit or one cryptographic standard fixes and the spec leaves without a formula.
Every constant here has no body: no proof can see a value of it.
-/

namespace Sys2Proof.Config

open Sys2Proof

/-- The free value number `n`: any 64-bit word (log 2). -/
opaque freeValue : Nat → BitVec 64

/-- The 16-bit number that a format or register shows for a command status code; the spec gives the
codes names only (log 3). -/
opaque statusCode : Machine.Status → BitVec 16

/-! The cryptographic functions the spec names by their standards and does not define (log 4). -/

/-- AES encryption of one block under a 16- or 32-byte key (FIPS 197). -/
opaque aesEnc : (key block : List Byte) → BitVec 128

/-- AES decryption of one block (FIPS 197). -/
opaque aesDec : (key block : List Byte) → BitVec 128

/-- SHA-384 (FIPS 180-4), as a 384-bit digest. -/
opaque sha384 : List Byte → BitVec 384

/-- ECDSA P-384 verification: public key, message digest, signature (FIPS 186-5). -/
opaque ecdsaOk : (pub msg sig : List Byte) → Bool

/-- ML-DSA-87 verification, pure, empty context (FIPS 204). -/
opaque mldsaOk : (pub msg sig : List Byte) → Bool

/-- The point lies on curve P-384. -/
opaque onCurve : List Byte → Bool

/-- ECDH P-384: the x-coordinate of the shared point, or none where the agreement fails. -/
opaque ecdh : (priv : Nat) → (pub : List Byte) → Option (BitVec 384)

/-- The order of P-384, less 1, is positive; the public key of a private scalar, 97 bytes. -/
opaque p384Order : Nat

/-- Public point of a private scalar, uncompressed. -/
opaque p384Pub : (priv : Nat) → BitVec 776

/-- ML-KEM-1024 encapsulation key of the seeds d and z (FIPS 203). -/
opaque mlkemPub : (seeds : List Byte) → BitVec 12544

/-- ML-KEM-1024 decapsulation with the key pair of the seeds. -/
opaque mlkemDecaps : (seeds ct : List Byte) → Option (BitVec 256)

/-- The hash that chooses the quadrant and set of a fragment key (R83); the spec names none (log 10). -/
opaque fragHash : (key : Nat) → Nat

/-- SUB, SUB32 and CMP set C to the borrow (true) or to its complement (false); R207 says "the carry" (log 17). -/
opaque subBorrow : Bool

/-- A byte offset of a quadrant's table store holds a safety-scope table; where the loader places tables the
spec does not say (R117, R214, log 18). -/
opaque safetyScope : (quad offset : Nat) → Bool

/-- A microcode section is Naurn's standard setup microcode, whose words the spec does not give (R175, log 11). -/
opaque standardSetup : (section_ : List Byte) → Bool

/-- Bytes of a quadrant's table store that its fragment table and counters take; the spec gives neither an entry
size nor a total (R83, R117, log 25). -/
opaque storeOverhead : Nat

/-- A stage-program section belongs to a pipe class whose egress program can set CF_OFF above 184 or CK_OFF above 190;
the spec gives egress programs no format (R276, R277, log 39). -/
opaque egressOver : (section_ : List Byte) → Bool

/-- Where, in units of 64 bytes of its quadrant's table store, the node records of a queue-tree bank begin; the spec
does not say (R251, log 18). -/
opaque treeBase : (bank : Nat) → Nat

/-- The bank and the row of a channel that hold a row-block, and the banks of a channel; JEDEC HBM4 gives them, the
spec does not (R297, R299, R308, log 44). -/
opaque hbmBank : (block : Nat) → Nat
opaque hbmRow : (block : Nat) → Nat
opaque hbmBanks : Nat

end Sys2Proof.Config
end

