-- ==== Sys2Proof/Machine/Operands.lean ====
section
/-!
DEFINITION. Operand helpers shared by every family: bit fields of naturals, little-endian and
network byte order (R11), sparse maps, and the two CRCs the spec names.
-/

namespace Sys2Proof.Machine

open Sys2Proof

/-! ### Sparse maps -/

/-- The value at key `k`, if one is listed. -/
def mget {α : Type} : NMap α → Nat → Option α
  | [], _ => none
  | (k', v) :: m, k => if k' = k then some v else mget m k

/-- Drop key `k`. -/
def mdel {α : Type} (m : NMap α) (k : Nat) : NMap α := m.filter (fun e => e.1 != k)

/-- Insert at the sorted place; the key is not listed in `m`. -/
def mins {α : Type} : NMap α → Nat → α → NMap α
  | [], k, v => [(k, v)]
  | (k', v') :: m, k, v => if k < k' then (k, v) :: (k', v') :: m else (k', v') :: mins m k v

/-- Write key `k`, keeping the keys strictly rising. -/
def mset {α : Type} (m : NMap α) (k : Nat) (v : α) : NMap α := mins (mdel m k) k v

/-- The value at key `k`, or `d` where the key is not listed. -/
def mgetD {α : Type} (m : NMap α) (k : Nat) (d : α) : α := (mget m k).getD d

/-- Change the value at `k` if listed. -/
def mmod {α : Type} (m : NMap α) (k : Nat) (f : α → α) : NMap α :=
  match mget m k with
  | some v => mset m k (f v)
  | none => m

/-! ### Bits of naturals -/

/-- Bits `lo + w - 1 : lo` of `v`. -/
def bits (v lo w : Nat) : Nat := v / 2 ^ lo % 2 ^ w

/-- Bit `i` of `v`. -/
def bit (v i : Nat) : Bool := v / 2 ^ i % 2 == 1

/-- `v` with bits `lo + w - 1 : lo` replaced by the low `w` bits of `x`. -/
def putBits (v lo w x : Nat) : Nat :=
  v % 2 ^ lo + (x % 2 ^ w) * 2 ^ lo + v / 2 ^ (lo + w) * 2 ^ (lo + w)

/-- `v` with bit `i` set. -/
def setBit (v i : Nat) : Nat := putBits v i 1 1

/-- `v` with bit `i` clear. -/
def clrBit (v i : Nat) : Nat := putBits v i 1 0

/-- Population count of the low `n` bits. -/
def popcount : Nat → Nat → Nat
  | 0, _ => 0
  | n + 1, v => v % 2 + popcount n (v / 2)

/-- A Bool as the bit it stands for. -/
def b2n (b : Bool) : Nat := if b then 1 else 0

/-- Signed reading of the low `w` bits of `v`. -/
def sbits (w v : Nat) : Int :=
  let u := v % 2 ^ w
  if u < 2 ^ (w - 1) then (u : Int) else (u : Int) - (2 ^ w : Nat)

/-- The low `w` bits of an integer. -/
def ibits (w : Nat) (v : Int) : Nat := (v % (2 ^ w : Nat)).toNat

/-- Serial-number order modulo `2 ^ w`: `a` is newer than `b` (R42, R432). -/
def serialNewer (w a b : Nat) : Bool :=
  let d := (a + 2 ^ w - b % 2 ^ w) % 2 ^ w
  0 < d && d < 2 ^ (w - 1)

/-! ### Bytes -/

/-- Little-endian value of bytes (R11). -/
def leNat : List Byte → Nat
  | [] => 0
  | b :: bs => b.toNat + 256 * leNat bs

/-- `n` little-endian bytes of a value (R11). -/
def toLe : Nat → Nat → List Byte
  | 0, _ => []
  | n + 1, v => BitVec.ofNat 8 v :: toLe n (v / 256)

/-- Network-order value of bytes (R11). -/
def beNat (bs : List Byte) : Nat := bs.foldl (fun a b => a * 256 + b.toNat) 0

/-- `n` network-order bytes of a value (R11). -/
def toBe (n v : Nat) : List Byte := (toLe n v).reverse

/-- `n` bytes from offset `o`; bytes beyond the end read 0. -/
def slice (bs : List Byte) (o n : Nat) : List Byte :=
  let t := (bs.drop o).take n
  t ++ List.replicate (n - t.length) 0

/-- The `n`-byte little-endian field at offset `o` of a structure. -/
def fieldLe (bs : List Byte) (o n : Nat) : Nat := leNat (slice bs o n)

/-- The `n`-byte network-order field at offset `o` of a frame. -/
def fieldBe (bs : List Byte) (o n : Nat) : Nat := beNat (slice bs o n)

/-- `bs` with the bytes from offset `o` replaced by `x` (where `bs` reaches that far). -/
def putBytes (bs : List Byte) (o : Nat) (x : List Byte) : List Byte :=
  bs.take o ++ x.take (bs.length - o) ++ bs.drop (o + x.length)

/-- Ceiling division. -/
def cdiv (a b : Nat) : Nat := (a + b - 1) / b

/-- Floor of log2, 0 for 0. -/
def ilog2 (v : Nat) : Nat := Nat.log2 v

/-! ### CRCs -/

/-- One byte of a reflected CRC. -/
def crcByte (poly : Nat) : Nat → Nat → Nat
  | 0, c => c
  | n + 1, c => crcByte poly n (if c % 2 = 1 then (c / 2) ^^^ poly else c / 2)

/-- Reflected CRC over bytes with the given start register and no final inversion. -/
def crcReg (poly init : Nat) (bs : List Byte) : Nat :=
  bs.foldl (fun c b => crcByte poly 8 (c ^^^ b.toNat)) init

/-- CRC-32C with a given initial register (Castagnoli, reflected, output inverted). PRESUMED (log 5). -/
def crc32c (init : Nat) (bs : List Byte) : Nat :=
  (crcReg 0x82F63B78 (init % 2 ^ 32) bs) ^^^ 0xFFFF_FFFF

/-- One shift of the CRC-16 of R100. -/
def crc16Bit : Nat → Nat → Nat
  | 0, c => c
  | n + 1, c =>
    crc16Bit n (if c / 2 ^ 15 % 2 = 1 then ((c * 2) % 2 ^ 16) ^^^ 0x1021 else (c * 2) % 2 ^ 16)

/-- CRC-16, polynomial 0x1021, initial value 0xFFFF (R100); bits most significant first. DESIGN CHOICE (log 5). -/
def crc16 (bs : List Byte) : Nat :=
  bs.foldl (fun c b => crc16Bit 8 (c ^^^ (b.toNat * 256))) 0xFFFF

/-- Replace element `i`. -/
def listSet {α : Type} (l : List α) (i : Nat) (v : α) : List α := l.set i v

/-- Element `i` or a default. -/
def listAt {α : Type} (l : List α) (i : Nat) (d : α) : α := l.getD i d

/-- The numbers `a, a+1, …, a+n-1`. -/
def upFrom (a n : Nat) : List Nat := (List.range n).map (a + ·)

end Sys2Proof.Machine
end

