-- ==== Sys2Proof/Machine/Crypto.lean ====
section
/-!
DEFINITION. CMAC, the key derivation of R359 and the block modes of R356, over the block cipher of
Config. A block is 16 bytes; its first byte is the most significant (NIST SP 800-38B).
-/

namespace Sys2Proof.Machine

open Sys2Proof

/-- AES encryption of 16 bytes. -/
def aesE (key block : List Byte) : List Byte := toBe 16 (Config.aesEnc key block).toNat

/-- AES decryption of 16 bytes. -/
def aesD (key block : List Byte) : List Byte := toBe 16 (Config.aesDec key block).toNat

/-- Byte-wise exclusive or. -/
def xorBytes (a b : List Byte) : List Byte := List.zipWith (· ^^^ ·) a b

/-- Sixteen zero bytes. -/
def zeroBlock : List Byte := List.replicate 16 0

/-- Doubling in GF(2^128) with the constant 0x87 (SP 800-38B). -/
def dbl (b : List Byte) : List Byte :=
  let v := beNat b
  let d := v * 2 % 2 ^ 128
  toBe 16 (if 2 ^ 127 ≤ v then d ^^^ 0x87 else d)

/-- Subkeys K1 and K2 of a key (SP 800-38B). -/
def subK1 (key : List Byte) : List Byte := dbl (aesE key zeroBlock)
def subK2 (key : List Byte) : List Byte := dbl (subK1 key)

/-- Block `i` of a byte string. -/
def blockAt (bs : List Byte) (i : Nat) : List Byte := slice bs (16 * i) 16

/-- CMAC as R356's building modes form it: `max 1 ⌈n / 16⌉` chained blocks, the last under K1 if complete
and otherwise padded with 0x80 and under K2. -/
def cmacBytes (key msg : List Byte) : List Byte :=
  let n := max 1 (cdiv msg.length 16)
  let c := (List.range (n - 1)).foldl (fun c i => aesE key (xorBytes (blockAt msg i) c)) zeroBlock
  let tail := msg.drop (16 * (n - 1))
  let last := if tail.length = 16 then xorBytes tail (subK1 key)
    else xorBytes (slice (tail ++ [0x80]) 0 16) (subK2 key)
  aesE key (xorBytes last c)

/-- The tag of a message as a 128-bit value, its first byte in bits 7:0. -/
def tagOf (key msg : List Byte) : BitVec 128 := BitVec.ofNat 128 (leNat (cmacBytes key msg))

/-- ASCII bytes of a label. -/
def ascii (s : String) : List Byte := s.toList.map (fun c => BitVec.ofNat 8 c.toNat)

/-- SP 800-108 counter-mode KDF with CMAC (R359): `n` blocks of 16 bytes. -/
def kdf (ki : List Byte) (label : String) (ctx : List Byte) (n : Nat) : List Byte :=
  (upFrom 1 n).foldl (fun a i =>
    a ++ cmacBytes ki (toBe 4 i ++ ascii label ++ [0] ++ ctx ++ toBe 4 (128 * n))) []

/-- SHA-384 as 48 bytes. -/
def sha (bs : List Byte) : List Byte := toBe 48 (Config.sha384 bs).toNat

/-- CTR keystream over bytes at image offset `x` (R59): counter block NONCE ‖ (x / 16), little-endian in 32 bits. -/
def ctrAt (key nonce : List Byte) (x : Nat) (data : List Byte) : List Byte :=
  (List.range (cdiv data.length 16)).foldl (fun a i =>
    a ++ xorBytes ((data.drop (16 * i)).take 16) (aesE key (nonce ++ toLe 4 (x / 16 + i)))) []

end Sys2Proof.Machine
end

