-- ==== Sys2Proof/Machine/Fields.lean ====
section
/-!
DEFINITION. Every register field of the spec's field maps by name: its BAR0 address (R462, R463), its
place in the register and its reset value (R17). A register that its chapter calls device-wide has its
one home in quadrant 0's window (R462).
-/

namespace Sys2Proof.Machine

/-- Writer and reader of a data mailbox (R328). -/
def mailboxPair (n : Nat) : Nat × Nat :=
  if n < 8 then (1, 32 + n / 2)
  else if n < 16 then (32 + (n - 8) / 2, 1)
  else if n < 20 then (48, 32 + (n - 16))
  else if n < 24 then (32 + (n - 20), 48)
  else if n < 28 then (32 + (n - 24), 32 + (n - 23) % 4)
  else (0, 0)

/-- The role of a physical pseudo-channel at first use: 0–61 serve, 62 and 63 are spares (R314). -/
def firstRole (p : Nat) : Nat := if p < 62 then 0 else 1

/-- The logical channel a physical pseudo-channel serves at first use (R314). -/
def firstLogical (p : Nat) : Nat := if p < 62 then p else 0x3F

def R.idPartPart : Fld := ⟨0x0, 0, 16, 0x2800⟩
def R.idPartStep : Fld := ⟨0x0, 16, 8, 0⟩
def R.idPartVariant : Fld := ⟨0x0, 24, 1, 0⟩
def R.idLotLot : Fld := ⟨0x8, 0, 32, 0⟩
def R.idLotWafer : Fld := ⟨0x8, 32, 5, 0⟩
def R.idLotX : Fld := ⟨0x8, 40, 8, 0⟩
def R.idLotY : Fld := ⟨0x8, 48, 8, 0⟩
def R.idFwVerRelease : Fld := ⟨0x10, 0, 32, 0⟩
def R.fabLinkState (i : Nat) : Fld := ⟨0x200000 + i * 0x8, 0, 2, 0⟩
def R.fabCntCount (i j : Nat) : Fld := ⟨0x200100 + i * 0x20 + j * 0x8, 0, 48, 0⟩
def R.macFrameMaxMax (i j : Nat) : Fld := ⟨0x1900000 + i * 0x1000000 + j * 0x1000, 0, 14, 0⟩
def R.hifWinSelSpace (i : Nat) : Fld := ⟨0x24000 + i * 0x8, 0, 3, 0⟩
def R.hifWinSelQuad (i : Nat) : Fld := ⟨0x24000 + i * 0x8, 4, 2, 0⟩
def R.hifWinSelBase (i : Nat) : Fld := ⟨0x24000 + i * 0x8, 8, 12, 0⟩
def R.modStatMode : Fld := ⟨0x100, 0, 3, 0⟩
def R.modStatPrev : Fld := ⟨0x100, 4, 3, 0⟩
def R.modStatSplicePaused : Fld := ⟨0x100, 8, 1, 0⟩
def R.modStatFwErr : Fld := ⟨0x100, 9, 1, 0⟩
def R.modStatTestFail : Fld := ⟨0x100, 12, 4, 0⟩
def R.modStatSinceMs : Fld := ⟨0x100, 32, 32, 0⟩
def R.modSpliceRegion : Fld := ⟨0x108, 0, 8, 255⟩
def R.modSpliceIncomplete : Fld := ⟨0x108, 8, 1, 0⟩
def R.modFwSlotNext : Fld := ⟨0x110, 0, 1, 0⟩
def R.modFwRestart : Fld := ⟨0x110, 1, 1, 0⟩
def R.modFwStatus : Fld := ⟨0x110, 16, 16, 0⟩
def R.modFwStatCoreSlot : Fld := ⟨0x118, 0, 4, 0⟩
def R.modFwStatPhase : Fld := ⟨0x118, 4, 2, 0⟩
def R.modFwStatCore : Fld := ⟨0x118, 6, 2, 0⟩
def R.modFwStatRelease : Fld := ⟨0x118, 32, 32, 0⟩
def R.modXbarPg (q n : Nat) : Fld := ⟨0x200 + q * 0x8, 4 * n, 4, 0⟩
def R.modSpareSpare (i : Nat) : Fld := ⟨0x220 + i * 0x8, 0, 4, 8⟩
def R.modSpareRetired (i : Nat) : Fld := ⟨0x220 + i * 0x8, 8, 9, 0⟩
def R.modHandoverTarget (i : Nat) : Fld := ⟨0x240 + i * 0x8, 0, 4, 0⟩
def R.modHandoverGo (i : Nat) : Fld := ⟨0x240 + i * 0x8, 4, 1, 0⟩
def R.modHandoverFailed (i : Nat) : Fld := ⟨0x240 + i * 0x8, 5, 1, 0⟩
def R.modHandoverState (i : Nat) : Fld := ⟨0x240 + i * 0x8, 8, 2, 0⟩
def R.modHandoverStatus (i : Nat) : Fld := ⟨0x240 + i * 0x8, 16, 16, 0⟩
def R.modHandoverRelieved (i : Nat) : Fld := ⟨0x240 + i * 0x8, 32, 4, 15⟩
def R.modRotEn : Fld := ⟨0x260, 0, 4, 0⟩
def R.modRotStatNext (i : Nat) : Fld := ⟨0x280 + i * 0x8, 0, 4, 15⟩
def R.modRotStatLastUs (i : Nat) : Fld := ⟨0x280 + i * 0x8, 16, 16, 0⟩
def R.modRotStatCount (i : Nat) : Fld := ⟨0x280 + i * 0x8, 32, 32, 0⟩
def R.stgTakeStatCur : Fld := ⟨0x400, 0, 16, 0⟩
def R.stgTakeStatOld : Fld := ⟨0x400, 16, 16, 0⟩
def R.stgTakeStatOldLive : Fld := ⟨0x400, 32, 1, 0⟩
def R.stgTakeStatPhase : Fld := ⟨0x400, 33, 3, 0⟩
def R.stgTakeStatLate : Fld := ⟨0x400, 36, 1, 0⟩
def R.stgTakeStatOverrun : Fld := ⟨0x400, 37, 1, 0⟩
def R.stgTakeCfgDrainLimit : Fld := ⟨0x408, 0, 5, 12⟩
def R.stgTakeActActTime : Fld := ⟨0x410, 0, 32, 0⟩
def R.stgTakeActActTake : Fld := ⟨0x410, 32, 16, 0⟩
def R.stgTakeActTimed : Fld := ⟨0x410, 48, 1, 0⟩
def R.stgTakeDoneDoneTime : Fld := ⟨0x418, 0, 32, 0⟩
def R.stgTakeDoneTake : Fld := ⟨0x418, 32, 16, 0⟩
def R.stgTakeStagedChanges : Fld := ⟨0x420, 0, 17, 0⟩
def R.stgTakeOverrunCntCount : Fld := ⟨0x428, 0, 48, 0⟩
def R.modPipeVerClassVer (i j : Nat) : Fld := ⟨0x500 + i * 0x48 + j * 0x8, 0, 32, 0⟩
def R.modPipeVerParserVer (i j : Nat) : Fld := ⟨0x500 + i * 0x48 + j * 0x8, 32, 32, 0⟩
def R.pwrRstCauseCause : Fld := ⟨0x10000, 0, 4, 0⟩
def R.pwrRstCauseFromFreeze : Fld := ⟨0x10000, 4, 1, 0⟩
def R.pwrRstCauseTailLost : Fld := ⟨0x10000, 5, 1, 0⟩
def R.pwrDomRstType : Fld := ⟨0x10008, 0, 2, 0⟩
def R.pwrDomRstQuad : Fld := ⟨0x10008, 2, 2, 0⟩
def R.pwrDomRstIndex : Fld := ⟨0x10008, 4, 4, 0⟩
def R.pwrDomRstGo : Fld := ⟨0x10008, 8, 1, 0⟩
def R.pwrDomRstStatus : Fld := ⟨0x10008, 16, 16, 0⟩
def R.pwrParkReq : Fld := ⟨0x10010, 0, 4, 0⟩
def R.pwrParkParked : Fld := ⟨0x10010, 4, 4, 0⟩
def R.pwrParkStatus : Fld := ⟨0x10010, 16, 16, 0⟩
def R.pwrPortPd (i : Nat) : Fld := ⟨0x11000 + i * 0x8, 0, 1, 0⟩
def R.pwrPortRetrain (i : Nat) : Fld := ⟨0x11000 + i * 0x8, 1, 1, 0⟩
def R.pwrPortState (i : Nat) : Fld := ⟨0x11000 + i * 0x8, 2, 2, 3⟩
def R.hifErrStatNarrow : Fld := ⟨0x20000, 0, 1, 0⟩
def R.hifErrStatUnmapped : Fld := ⟨0x20000, 1, 1, 0⟩
def R.hifErrStatProtected : Fld := ⟨0x20000, 2, 1, 0⟩
def R.hifErrStatMbxReject : Fld := ⟨0x20000, 3, 1, 0⟩
def R.hifErrStatLockBadrel : Fld := ⟨0x20000, 4, 1, 0⟩
def R.hifErrStatDmaErr : Fld := ⟨0x20000, 5, 1, 0⟩
def R.hifErrStatDescErr : Fld := ⟨0x20000, 6, 1, 0⟩
def R.hifLinkSpeed : Fld := ⟨0x20008, 0, 3, 0⟩
def R.hifLinkWidth : Fld := ⟨0x20008, 8, 4, 0⟩
def R.hifLinkFlit : Fld := ⟨0x20008, 12, 1, 0⟩
def R.hifEvtBaseAddr : Fld := ⟨0x20010, 12, 52, 0⟩
def R.hifEvtCfgSizeLog2 : Fld := ⟨0x20018, 0, 5, 0⟩
def R.hifEvtCfgModUs : Fld := ⟨0x20018, 16, 16, 0⟩
def R.hifEvtStatTail : Fld := ⟨0x20020, 0, 17, 0⟩
def R.hifEvtStatHead : Fld := ⟨0x20020, 32, 17, 0⟩
def R.hifRingBaseAddr (i : Nat) : Fld := ⟨0x21000 + i * 0x10, 12, 52, 0⟩
def R.hifRingCfgSizeLog2 (i : Nat) : Fld := ⟨0x21008 + i * 0x10, 0, 5, 0⟩
def R.hifRingCfgBufKib (i : Nat) : Fld := ⟨0x21008 + i * 0x10, 8, 4, 0⟩
def R.hifRingCfgModUs (i : Nat) : Fld := ⟨0x21008 + i * 0x10, 16, 16, 0⟩
def R.hifRingCfgHead (i : Nat) : Fld := ⟨0x21008 + i * 0x10, 32, 16, 0⟩
def R.hifSessOpen (i : Nat) : Fld := ⟨0x22010 + (i - 1) * 0x10, 0, 1, 0⟩
def R.hifSessReq (i : Nat) : Fld := ⟨0x22010 + (i - 1) * 0x10, 1, 6, 0⟩
def R.hifSessKeyId (i : Nat) : Fld := ⟨0x22010 + (i - 1) * 0x10, 16, 16, 0⟩
def R.hifSessRights (i : Nat) : Fld := ⟨0x22010 + (i - 1) * 0x10, 32, 16, 0⟩
def R.hifSessLastStatus (i : Nat) : Fld := ⟨0x22010 + (i - 1) * 0x10, 48, 16, 0⟩
def R.hifSessSeqSeq (i : Nat) : Fld := ⟨0x22018 + (i - 1) * 0x10, 0, 64, 0⟩
def R.hifCntCount (i : Nat) : Fld := ⟨0x23000 + i * 0x8, 0, 48, 0⟩
def R.mbxDataBytes (i j : Nat) : Fld := ⟨0x30000 + i * 0x100 + j * 0x8, 0, 64, 0⟩
def R.mbxHdrLen (i : Nat) : Fld := ⟨0x34000 + i * 0x20, 0, 9, 0⟩
def R.mbxHdrSender (i : Nat) : Fld := ⟨0x34000 + i * 0x20, 16, 6, 0⟩
def R.mbxHdrResp (i : Nat) : Fld := ⟨0x34000 + i * 0x20, 22, 1, 0⟩
def R.mbxHdrValid (i : Nat) : Fld := ⟨0x34000 + i * 0x20, 23, 1, 0⟩
def R.mbxHdrSeq (i : Nat) : Fld := ⟨0x34000 + i * 0x20, 24, 8, 0⟩
def R.mbxHdrCookie (i : Nat) : Fld := ⟨0x34000 + i * 0x20, 32, 32, 0⟩
def R.mbxTakeHeader (i : Nat) : Fld := ⟨0x34008 + i * 0x20, 0, 64, 0⟩
def R.mbxStatState (i : Nat) : Fld := ⟨0x34010 + i * 0x20, 0, 2, 0⟩
def R.mbxStatReject (i : Nat) : Fld := ⟨0x34010 + i * 0x20, 2, 1, 0⟩
def R.mbxStatAborted (i : Nat) : Fld := ⟨0x34010 + i * 0x20, 3, 1, 0⟩
def R.mbxStatOwner (i : Nat) : Fld := ⟨0x34010 + i * 0x20, 8, 6, 0⟩
def R.mbxCfgWriter (i : Nat) : Fld := ⟨0x34018 + i * 0x20, 0, 6, (mailboxPair i).1⟩
def R.mbxCfgReader (i : Nat) : Fld := ⟨0x34018 + i * 0x20, 8, 6, (mailboxPair i).2⟩
def R.mbxCfgFillInt (i : Nat) : Fld := ⟨0x34018 + i * 0x20, 16, 1, 1⟩
def R.mbxCfgEmptyInt (i : Nat) : Fld := ⟨0x34018 + i * 0x20, 17, 1, 1⟩
def R.lckOwner (i : Nat) : Fld := ⟨0x35000 + i * 0x8, 0, 6, 0⟩
def R.lckForceLock : Fld := ⟨0x35100, 0, 5, 0⟩
def R.lckForceGo : Fld := ⟨0x35100, 5, 1, 0⟩
def R.keyStatZeroized : Fld := ⟨0x40000, 0, 1, 0⟩
def R.keyStatDevkeys : Fld := ⟨0x40000, 1, 1, 0⟩
def R.keyStatFree : Fld := ⟨0x40000, 2, 7, 56⟩
def R.keySlotState (i : Nat) : Fld := ⟨0x40100 + i * 0x8, 0, 2, 0⟩
def R.keySlotUse (i : Nat) : Fld := ⟨0x40100 + i * 0x8, 2, 4, 0⟩
def R.keySlotOwner (i : Nat) : Fld := ⟨0x40100 + i * 0x8, 6, 6, 0⟩
def R.keySlotKey128 (i : Nat) : Fld := ⟨0x40100 + i * 0x8, 12, 1, 0⟩
def R.keySlotLeases (i : Nat) : Fld := ⟨0x40100 + i * 0x8, 13, 3, 0⟩
def R.keySlotGen (i : Nat) : Fld := ⟨0x40100 + i * 0x8, 16, 8, 0⟩
def R.cipRingBaseAddr (i : Nat) : Fld := ⟨0x41000 + i * 0x20, 6, 58, 0⟩
def R.cipRingCfgSizeLog2 (i : Nat) : Fld := ⟨0x41008 + i * 0x20, 0, 4, 0⟩
def R.cipRingTailTail (i : Nat) : Fld := ⟨0x41010 + i * 0x20, 0, 12, 0⟩
def R.cipRingStatHead (i : Nat) : Fld := ⟨0x41018 + i * 0x20, 0, 12, 0⟩
def R.cipCntCount (i : Nat) : Fld := ⟨0x41200 + i * 0x8, 0, 48, 0⟩
def R.sigStatBusy : Fld := ⟨0x42000, 0, 1, 0⟩
def R.sigStatFunc : Fld := ⟨0x42000, 1, 3, 0⟩
def R.sigStatQueued : Fld := ⟨0x42000, 4, 4, 0⟩
def R.sigCntCount (i : Nat) : Fld := ⟨0x42100 + i * 0x8, 0, 48, 0⟩
def R.timNowNs : Fld := ⟨0x50000, 0, 32, 0⟩
def R.timNowFrac : Fld := ⟨0x50000, 32, 32, 0⟩
def R.timNowxNs : Fld := ⟨0x50008, 0, 32, 0⟩
def R.timNowxPending : Fld := ⟨0x50008, 32, 8, 0⟩
def R.timNowxRebase : Fld := ⟨0x50008, 40, 1, 0⟩
def R.timIncrementInc : Fld := ⟨0x50010, 0, 36, 3435973837⟩
def R.timStatValid : Fld := ⟨0x50018, 0, 1, 0⟩
def R.timStatState : Fld := ⟨0x50018, 1, 2, 0⟩
def R.timStatSource : Fld := ⟨0x50018, 3, 2, 0⟩
def R.timStatJumpRefused : Fld := ⟨0x50018, 5, 1, 0⟩
def R.timStatIncRej : Fld := ⟨0x50018, 6, 1, 0⟩
def R.timStatHoldElapsed : Fld := ⟨0x50018, 16, 16, 0⟩
def R.timJumpLimitLimitNs : Fld := ⟨0x50020, 0, 32, 1000⟩
def R.timCfgHoldS : Fld := ⟨0x50028, 0, 16, 60⟩
def R.timAdjStepNs : Fld := ⟨0x50030, 0, 32, 0⟩
def R.timAdjSet : Fld := ⟨0x50030, 32, 1, 0⟩
def R.timAdjGo : Fld := ⟨0x50030, 33, 1, 0⟩
def R.timAdjStatus : Fld := ⟨0x50030, 48, 16, 0⟩
def R.timCtlLock : Fld := ⟨0x50038, 0, 1, 0⟩
def R.timCtlLoss : Fld := ⟨0x50038, 1, 1, 0⟩
def R.timCtlDirector : Fld := ⟨0x50038, 2, 1, 0⟩
def R.timEpochAckAck : Fld := ⟨0x50040, 0, 8, 0⟩
def R.timEpochAckClrRebase : Fld := ⟨0x50040, 8, 1, 0⟩
def R.timIntWrap : Fld := ⟨0x50048, 0, 1, 0⟩
def R.timIntJump : Fld := ⟨0x50048, 1, 1, 0⟩
def R.timIntValidChg : Fld := ⟨0x50048, 2, 1, 0⟩
def R.timIntSuspend : Fld := ⟨0x50048, 3, 1, 0⟩
def R.timIntEn : Fld := ⟨0x50048, 16, 4, 0⟩
def R.timUptimeNs : Fld := ⟨0x50050, 0, 64, 0⟩
def R.timBootBoot : Fld := ⟨0x50058, 0, 32, 0⟩
def R.timPpsOutNextNext : Fld := ⟨0x50060, 0, 32, 0⟩
def R.timPpsOutCfgPeriodNs : Fld := ⟨0x50068, 0, 32, 0⟩
def R.timPpsOutCfgWidthUs : Fld := ⟨0x50068, 32, 16, 100⟩
def R.timPpsInNs : Fld := ⟨0x50070, 0, 32, 0⟩
def R.timPpsInSubns : Fld := ⟨0x50070, 32, 16, 0⟩
def R.timPpsInNew : Fld := ⟨0x50070, 48, 1, 0⟩
def R.timSyncePort (i : Nat) : Fld := ⟨0x50078 + i * 0x8, 0, 10, 0⟩
def R.timSynceDiv (i : Nat) : Fld := ⟨0x50078 + i * 0x8, 16, 2, 0⟩
def R.timSynceSquelched (i : Nat) : Fld := ⟨0x50078 + i * 0x8, 18, 1, 1⟩
def R.safStatSafeN : Fld := ⟨0x60000, 0, 1, 1⟩
def R.safStatFaultN : Fld := ⟨0x60000, 1, 1, 1⟩
def R.safStatReadbackErr : Fld := ⟨0x60000, 2, 1, 0⟩
def R.safStatDiagOff : Fld := ⟨0x60000, 3, 1, 0⟩
def R.safStatHoldupOvr : Fld := ⟨0x60000, 4, 1, 0⟩
def R.safStatRotLost : Fld := ⟨0x60000, 8, 4, 0⟩
def R.safFaultFault : Fld := ⟨0x60008, 0, 23, 0⟩
def R.safFirstCode : Fld := ⟨0x60010, 0, 8, 255⟩
def R.safFirstUnit : Fld := ⟨0x60010, 16, 16, 0⟩
def R.safFirstUptimeUs : Fld := ⟨0x60010, 32, 32, 0⟩
def R.safCfgBeSafe : Fld := ⟨0x60018, 0, 1, 0⟩
def R.safHoldupCfgLoadMw : Fld := ⟨0x60020, 0, 16, 0⟩
def R.safHoldupCfgVminMv : Fld := ⟨0x60020, 16, 16, 0⟩
def R.safHoldupV0Mv : Fld := ⟨0x60028, 0, 16, 0⟩
def R.safHoldupV1Mv : Fld := ⟨0x60028, 16, 16, 0⟩
def R.safHoldupEUj : Fld := ⟨0x60028, 32, 24, 0⟩
def R.safHoldupCause : Fld := ⟨0x60028, 56, 3, 0⟩
def R.safWdtTimeoutUs (i : Nat) : Fld := ⟨0x60040 + i * 0x8, 0, 16, 1000⟩
def R.safWdtKick (i : Nat) : Fld := ⟨0x60040 + i * 0x8, 16, 1, 0⟩
def R.safWdtSuspended (i : Nat) : Fld := ⟨0x60040 + i * 0x8, 17, 1, 0⟩
def R.safCntCount (i : Nat) : Fld := ⟨0x60100 + i * 0x8, 0, 48, 0⟩
def R.jnlStatSeq : Fld := ⟨0x64000, 0, 32, 0⟩
def R.jnlStatTail : Fld := ⟨0x64000, 32, 17, 0⟩
def R.jnlStatPfDone : Fld := ⟨0x64000, 49, 1, 0⟩
def R.jnlStatSlow : Fld := ⟨0x64000, 50, 1, 0⟩
def R.jnlStatWriteErr : Fld := ⟨0x64000, 51, 1, 0⟩
def R.jnlCfgTailMax : Fld := ⟨0x64008, 0, 17, 4096⟩
def R.jnlCntCount (i : Nat) : Fld := ⟨0x64100 + i * 0x8, 0, 48, 0⟩
def R.conCfgCatchupUs : Fld := ⟨0x6c000, 0, 20, 1000⟩
def R.conStatErr : Fld := ⟨0x6c008, 0, 1, 0⟩
def R.conStatUnverified : Fld := ⟨0x6c008, 1, 1, 0⟩
def R.conStatLate : Fld := ⟨0x6c008, 2, 1, 0⟩
def R.conErrAddrTable : Fld := ⟨0x6c010, 0, 9, 0⟩
def R.conErrAddrQuad : Fld := ⟨0x6c010, 9, 2, 0⟩
def R.conErrAddrOffset : Fld := ⟨0x6c010, 16, 32, 0⟩
def R.conErrCntCount : Fld := ⟨0x6c018, 0, 48, 0⟩
def R.conRepairCntCount : Fld := ⟨0x6c020, 0, 48, 0⟩
def R.conUnverCntCount : Fld := ⟨0x6c028, 0, 48, 0⟩
def R.conTblPeriodMs (i : Nat) : Fld := ⟨0x6c100 + i * 0x10, 0, 32, 0⟩
def R.conTblRepairEn (i : Nat) : Fld := ⟨0x6c100 + i * 0x10, 32, 1, 0⟩
def R.conTblLastUs (i : Nat) : Fld := ⟨0x6c100 + i * 0x10, 40, 24, 0⟩
def R.conShadowAddr (i : Nat) : Fld := ⟨0x6c108 + i * 0x10, 12, 52, 0⟩
def R.frzCfgPinEn : Fld := ⟨0x70000, 0, 1, 0⟩
def R.frzCfgMatchEn : Fld := ⟨0x70000, 1, 1, 0⟩
def R.frzCfgSafetyEn : Fld := ⟨0x70000, 2, 1, 0⟩
def R.frzCfgDataRo : Fld := ⟨0x70000, 3, 1, 0⟩
def R.frzCfgSafetyMask : Fld := ⟨0x70000, 32, 23, 0⟩
def R.frzLastTrigger : Fld := ⟨0x70010, 0, 4, 0⟩
def R.frzLastUnit : Fld := ⟨0x70010, 4, 9, 0⟩
def R.frzLastLost : Fld := ⟨0x70010, 16, 16, 0⟩
def R.frzLastUptimeUs : Fld := ⟨0x70010, 32, 32, 0⟩
def R.bstPipeLast (i : Nat) : Fld := ⟨0x78000 + i * 0x8, 0, 4, 15⟩
def R.bstPipePass (i : Nat) : Fld := ⟨0x78000 + i * 0x8, 4, 1, 0⟩
def R.bstPipeAgeUs (i : Nat) : Fld := ⟨0x78000 + i * 0x8, 16, 16, 0⟩
def R.bstPipeCount (i : Nat) : Fld := ⟨0x78000 + i * 0x8, 32, 32, 0⟩
def R.bstEngLast (i : Nat) : Fld := ⟨0x78020 + i * 0x8, 0, 4, 15⟩
def R.bstEngPass (i : Nat) : Fld := ⟨0x78020 + i * 0x8, 4, 1, 0⟩
def R.bstEngUntested (i : Nat) : Fld := ⟨0x78020 + i * 0x8, 8, 8, 0⟩
def R.bstEngAgeUs (i : Nat) : Fld := ⟨0x78020 + i * 0x8, 16, 16, 0⟩
def R.bstEngCount (i : Nat) : Fld := ⟨0x78020 + i * 0x8, 32, 32, 0⟩
def R.bstAnaLaneFail : Fld := ⟨0x78040, 0, 4, 0⟩
def R.bstAnaEyeLow : Fld := ⟨0x78040, 4, 4, 0⟩
def R.bstAnaHbmLoop : Fld := ⟨0x78040, 8, 4, 0⟩
def R.bstAnaTempDis : Fld := ⟨0x78040, 12, 4, 0⟩
def R.bstScanEn : Fld := ⟨0x78048, 0, 1, 0⟩
def R.bstScanStatus : Fld := ⟨0x78048, 16, 16, 0⟩
def R.ctrSelSrc (i : Nat) : Fld := ⟨0x80000 + i * 0x8, 0, 2, 0⟩
def R.ctrSelAddr (i : Nat) : Fld := ⟨0x80000 + i * 0x8, 8, 25, 0⟩
def R.ctrSelChain (i : Nat) : Fld := ⟨0x80000 + i * 0x8, 33, 1, 0⟩
def R.ctrSelIntOvf (i : Nat) : Fld := ⟨0x80000 + i * 0x8, 34, 1, 0⟩
def R.ctrValCount (i : Nat) : Fld := ⟨0x81000 + i * 0x8, 0, 48, 0⟩
def R.ctrValChainedHi (i : Nat) : Fld := ⟨0x81000 + i * 0x8, 48, 16, 0⟩
def R.ctrStatOvfAtChange : Fld := ⟨0x82000, 0, 1, 0⟩
def R.ctrStatSelErr : Fld := ⟨0x82000, 1, 1, 0⟩
def R.ctrStatPair : Fld := ⟨0x82000, 8, 8, 0⟩
def R.ctrOvfOvf (i : Nat) : Fld := ⟨0x82040 + i * 0x8, 0, 64, 0⟩
def R.ctrMatchValue (i : Nat) : Fld := ⟨0x82100 + i * 0x8, 0, 48, 0⟩
def R.ctrMatchCounter (i : Nat) : Fld := ⟨0x82100 + i * 0x8, 48, 9, 0⟩
def R.ctrMatchFreeze (i : Nat) : Fld := ⟨0x82100 + i * 0x8, 57, 1, 0⟩
def R.ctrMatchInt (i : Nat) : Fld := ⟨0x82100 + i * 0x8, 58, 1, 0⟩
def R.ctrMatchHit (i : Nat) : Fld := ⟨0x82100 + i * 0x8, 59, 1, 0⟩
def R.ctrReasonCount (i : Nat) : Fld := ⟨0x83000 + i * 0x8, 0, 48, 0⟩
def R.ctrUserEnEn (i : Nat) : Fld := ⟨0x83800 + i * 0x8, 0, 1, 0⟩
def R.ctrUserEnBase (i : Nat) : Fld := ⟨0x83800 + i * 0x8, 8, 9, 0⟩
def R.ctrUserEnCount (i : Nat) : Fld := ⟨0x83800 + i * 0x8, 32, 9, 0⟩
def R.ctrUserEnUserDenied (i : Nat) : Fld := ⟨0x83800 + i * 0x8, 48, 1, 0⟩
def R.ctrPortCount (i j : Nat) : Fld := ⟨0x84000 + i * 0x40 + j * 0x8, 0, 48, 0⟩
def R.smpCfgIntAt : Fld := ⟨0x8e000, 0, 12, 0⟩
def R.smpSelKind (i : Nat) : Fld := ⟨0x8e010 + i * 0x8, 0, 1, 0⟩
def R.smpSelQuads (i : Nat) : Fld := ⟨0x8e010 + i * 0x8, 4, 4, 0⟩
def R.smpSelRatio (i : Nat) : Fld := ⟨0x8e010 + i * 0x8, 8, 4, 0⟩
def R.smpSelLo (i : Nat) : Fld := ⟨0x8e010 + i * 0x8, 16, 14, 0⟩
def R.smpSelHi (i : Nat) : Fld := ⟨0x8e010 + i * 0x8, 32, 14, 0⟩
def R.smpSelAny (i : Nat) : Fld := ⟨0x8e010 + i * 0x8, 46, 1, 0⟩
def R.smpStatCount : Fld := ⟨0x8e040, 0, 12, 0⟩
def R.smpStatFull : Fld := ⟨0x8e040, 12, 1, 0⟩
def R.smpCtlClear : Fld := ⟨0x8e048, 0, 1, 0⟩
def R.smpCtlStop : Fld := ⟨0x8e048, 1, 1, 0⟩
def R.smpCntCount (i : Nat) : Fld := ⟨0x8e100 + i * 0x8, 0, 48, 0⟩
def R.cluCfgHbMs : Fld := ⟨0x90000, 0, 8, 10⟩
def R.cluCfgMissCount : Fld := ⟨0x90000, 8, 4, 3⟩
def R.cluCfgCommitLeadUs : Fld := ⟨0x90000, 16, 16, 2000⟩
def R.cluCfgPtpDomain : Fld := ⟨0x90000, 32, 8, 24⟩
def R.cluCfgReuseS : Fld := ⟨0x90000, 48, 16, 600⟩
def R.cluStatRole : Fld := ⟨0x90008, 0, 2, 0⟩
def R.cluStatActing : Fld := ⟨0x90008, 2, 2, 0⟩
def R.cluStatDeviceId : Fld := ⟨0x90008, 4, 6, 0⟩
def R.cluStatClusterId : Fld := ⟨0x90008, 10, 4, 0⟩
def R.cluStatDirectorId : Fld := ⟨0x90008, 14, 6, 0⟩
def R.cluStatDeputyId : Fld := ⟨0x90008, 20, 6, 0⟩
def R.cluStatJoined : Fld := ⟨0x90008, 26, 1, 0⟩
def R.cluStatDirLost : Fld := ⟨0x90008, 27, 1, 0⟩
def R.cluStatOrphan : Fld := ⟨0x90008, 28, 1, 0⟩
def R.cluStatSplit : Fld := ⟨0x90008, 29, 1, 0⟩
def R.cluStatTerm : Fld := ⟨0x90008, 32, 32, 0⟩
def R.cluCommitStatPhase : Fld := ⟨0x90010, 0, 3, 0⟩
def R.cluCommitStatStatus : Fld := ⟨0x90010, 16, 16, 0⟩
def R.cluCommitStatCommitId : Fld := ⟨0x90010, 32, 32, 0⟩
def R.cluCommitActTAct : Fld := ⟨0x90018, 0, 32, 0⟩
def R.cluCommitActLastId : Fld := ⟨0x90018, 32, 32, 0⟩
def R.cluKeyEpoch : Fld := ⟨0x90020, 0, 8, 0⟩
def R.cluKeyRollPend : Fld := ⟨0x90020, 8, 1, 0⟩
def R.cluKeySwitchAt : Fld := ⟨0x90020, 32, 32, 0⟩
def R.cluCntCount (i : Nat) : Fld := ⟨0x90100 + i * 0x8, 0, 48, 0⟩
def R.cluPeerAddrAddr (i j : Nat) : Fld := ⟨0x91000 + i * 0x40 + j * 0x8, 0, 64, 0⟩
def R.cluPeerMac (i : Nat) : Fld := ⟨0x91010 + i * 0x40, 0, 48, 0⟩
def R.cluPeerPort (i : Nat) : Fld := ⟨0x91010 + i * 0x40, 48, 10, 0⟩
def R.cluPeerValid (i : Nat) : Fld := ⟨0x91010 + i * 0x40, 58, 1, 0⟩
def R.cluPeerState (i : Nat) : Fld := ⟨0x91010 + i * 0x40, 59, 2, 0⟩
def R.cluPeerBootBoot (i : Nat) : Fld := ⟨0x91018 + i * 0x40, 0, 32, 0⟩
def R.cluPeerBootSinceMs (i : Nat) : Fld := ⟨0x91018 + i * 0x40, 32, 32, 0⟩
def R.imgStatPhase : Fld := ⟨0xa0000, 0, 8, 0⟩
def R.imgStatDetail : Fld := ⟨0xa0000, 8, 8, 0⟩
def R.imgStatStatus : Fld := ⟨0xa0000, 16, 16, 0⟩
def R.imgStatSection : Fld := ⟨0xa0000, 32, 16, 65535⟩
def R.imgStatSlot : Fld := ⟨0xa0000, 48, 1, 0⟩
def R.imgStatPartial : Fld := ⟨0xa0000, 49, 1, 0⟩
def R.imgImageVerImageVer : Fld := ⟨0xa0008, 0, 32, 0⟩
def R.imgImageVerRollback : Fld := ⟨0xa0008, 32, 16, 0⟩
def R.imgImageVerFormatVer : Fld := ⟨0xa0008, 48, 16, 0⟩
def R.imgLineageLineage : Fld := ⟨0xa0010, 0, 64, 0⟩
def R.imgFuseRollbackFuses : Fld := ⟨0xa0018, 0, 7, 0⟩
def R.imgFuseOwnerProv : Fld := ⟨0xa0018, 8, 1, 0⟩
def R.imgFuseImgkeyProv : Fld := ⟨0xa0018, 9, 1, 0⟩
def R.imgBootSlot : Fld := ⟨0xa0020, 0, 1, 0⟩
def R.imgBootFallbackEn : Fld := ⟨0xa0020, 1, 1, 0⟩
def R.imgRegionVerVer (i : Nat) : Fld := ⟨0xa0100 + i * 0x8, 0, 32, 0⟩
def R.imgRegionVerPresent (i : Nat) : Fld := ⟨0xa0100 + i * 0x8, 32, 1, 0⟩
def R.imgRegionVerPending (i : Nat) : Fld := ⟨0xa0100 + i * 0x8, 33, 1, 0⟩
def R.hbmIdPresent (i : Nat) : Fld := ⟨0x100000 + i * 0x40000, 0, 1, 0⟩
def R.hbmIdHeight (i : Nat) : Fld := ⟨0x100000 + i * 0x40000, 1, 1, 0⟩
def R.hbmIdDensity (i : Nat) : Fld := ⟨0x100000 + i * 0x40000, 2, 1, 0⟩
def R.hbmIdRating (i : Nat) : Fld := ⟨0x100000 + i * 0x40000, 8, 2, 0⟩
def R.hbmIdPcMib (i : Nat) : Fld := ⟨0x100000 + i * 0x40000, 16, 16, 0⟩
def R.hbmStatState (i : Nat) : Fld := ⟨0x100008 + i * 0x40000, 0, 3, 0⟩
def R.hbmStatInitErr (i : Nat) : Fld := ⟨0x100008 + i * 0x40000, 3, 5, 0⟩
def R.hbmStatRate (i : Nat) : Fld := ⟨0x100008 + i * 0x40000, 8, 2, 0⟩
def R.hbmStatMigrating (i : Nat) : Fld := ⟨0x100008 + i * 0x40000, 10, 1, 0⟩
def R.hbmStatSpares (i : Nat) : Fld := ⟨0x100008 + i * 0x40000, 11, 2, 0⟩
def R.hbmStatDead (i : Nat) : Fld := ⟨0x100008 + i * 0x40000, 13, 1, 0⟩
def R.hbmThermTemp (i : Nat) : Fld := ⟨0x100010 + i * 0x40000, 0, 8, 0⟩
def R.hbmThermHot (i : Nat) : Fld := ⟨0x100010 + i * 0x40000, 8, 1, 0⟩
def R.hbmThermAlertC (i : Nat) : Fld := ⟨0x100010 + i * 0x40000, 16, 8, 95⟩
def R.hbmHintCfgFlow (i : Nat) : Fld := ⟨0x100018 + i * 0x40000, 0, 2, 1⟩
def R.hbmHintCfgBuffer (i : Nat) : Fld := ⟨0x100018 + i * 0x40000, 2, 2, 3⟩
def R.hbmHintCfgOther (i : Nat) : Fld := ⟨0x100018 + i * 0x40000, 4, 2, 2⟩
def R.hbmHintCfgOpenNs (i : Nat) : Fld := ⟨0x100018 + i * 0x40000, 16, 16, 200⟩
def R.hbmTrainCfgPeriodMs (i : Nat) : Fld := ⟨0x100020 + i * 0x40000, 0, 16, 100⟩
def R.hbmTrainCfgDeltaC (i : Nat) : Fld := ⟨0x100020 + i * 0x40000, 16, 8, 10⟩
def R.hbmRateTarget (i : Nat) : Fld := ⟨0x100028 + i * 0x40000, 0, 2, 2⟩
def R.hbmRateGo (i : Nat) : Fld := ⟨0x100028 + i * 0x40000, 2, 1, 0⟩
def R.hbmRateHeld (i : Nat) : Fld := ⟨0x100028 + i * 0x40000, 3, 1, 0⟩
def R.hbmRateStatus (i : Nat) : Fld := ⟨0x100028 + i * 0x40000, 16, 16, 0⟩
def R.hbmSpareCfgThresh (i : Nat) : Fld := ⟨0x100030 + i * 0x40000, 0, 16, 16⟩
def R.hbmSpareCfgWindowMs (i : Nat) : Fld := ⟨0x100030 + i * 0x40000, 16, 16, 1000⟩
def R.hbmSpareCfgAuto (i : Nat) : Fld := ⟨0x100030 + i * 0x40000, 32, 1, 1⟩
def R.hbmMigStatSrc (i : Nat) : Fld := ⟨0x100038 + i * 0x40000, 0, 6, 0⟩
def R.hbmMigStatDst (i : Nat) : Fld := ⟨0x100038 + i * 0x40000, 6, 6, 0⟩
def R.hbmMigStatMark (i : Nat) : Fld := ⟨0x100038 + i * 0x40000, 16, 21, 0⟩
def R.hbmErrStatNext (i : Nat) : Fld := ⟨0x100040 + i * 0x40000, 0, 6, 0⟩
def R.hbmErrStatOverrun (i : Nat) : Fld := ⟨0x100040 + i * 0x40000, 6, 1, 0⟩
def R.hbmMapBaseMib (i j : Nat) : Fld := ⟨0x100100 + i * 0x40000 + j * 0x8, 0, 16, 0⟩
def R.hbmMapSizeMib (i j : Nat) : Fld := ⟨0x100100 + i * 0x40000 + j * 0x8, 32, 16, 0⟩
def R.hbmPcRole (i j : Nat) : Fld := ⟨0x100200 + i * 0x40000 + j * 0x8, 0, 3, firstRole j⟩
def R.hbmPcLogical (i j : Nat) : Fld := ⟨0x100200 + i * 0x40000 + j * 0x8, 8, 6, firstLogical j⟩
def R.hbmCntCount (i j : Nat) : Fld := ⟨0x100400 + i * 0x40000 + j * 0x8, 0, 48, 0⟩
def R.hbmErrBytes (i j k : Nat) : Fld := ⟨0x101000 + i * 0x40000 + j * 0x20 + k * 0x8, 0, 64, 0⟩
def R.prsCfgStartFront (i j : Nat) : Fld := ⟨0x1000000 + i * 0x1000000 + j * 0x20000, 0, 8, 0⟩
def R.prsCfgStartHost (i j : Nat) : Fld := ⟨0x1000000 + i * 0x1000000 + j * 0x20000, 8, 8, 0⟩
def R.prsCfgStartRecirc (i j : Nat) : Fld := ⟨0x1000000 + i * 0x1000000 + j * 0x20000, 16, 8, 0⟩
def R.prsCfgStateCount (i j : Nat) : Fld := ⟨0x1000000 + i * 0x1000000 + j * 0x20000, 24, 9, 0⟩
def R.prsTruncCntCount (i j : Nat) : Fld := ⟨0x1000008 + i * 0x1000000 + j * 0x20000, 0, 48, 0⟩
def R.prsLenerrCntCount (i j : Nat) : Fld := ⟨0x1000010 + i * 0x1000000 + j * 0x20000, 0, 48, 0⟩
def R.stgCfgStageCount (i j : Nat) : Fld := ⟨0x1008000 + i * 0x1000000 + j * 0x20000, 0, 5, 0⟩
def R.stgCfgFlowAfter (i j : Nat) : Fld := ⟨0x1008000 + i * 0x1000000 + j * 0x20000, 8, 5, 0⟩
def R.stgCfgFlowEn (i j : Nat) : Fld := ⟨0x1008000 + i * 0x1000000 + j * 0x20000, 16, 1, 0⟩
def R.stgCfgPipeClass (i j : Nat) : Fld := ⟨0x1008000 + i * 0x1000000 + j * 0x20000, 24, 3, 0⟩
def R.stgTakeSeenOldest (i j : Nat) : Fld := ⟨0x1008008 + i * 0x1000000 + j * 0x20000, 0, 16, 0⟩
def R.stgTakeSeenEmpty (i j : Nat) : Fld := ⟨0x1008008 + i * 0x1000000 + j * 0x20000, 16, 1, 1⟩
def R.cmsCfgHoleInterval (i : Nat) : Fld := ⟨0x1200000 + i * 0x1000000, 0, 8, 0⟩
def R.cmsStatBusy (i : Nat) : Fld := ⟨0x1200008 + i * 0x1000000, 0, 1, 0⟩
def R.cmsStatRestoring (i : Nat) : Fld := ⟨0x1200008 + i * 0x1000000, 1, 1, 0⟩
def R.cmsStatCheckErr (i : Nat) : Fld := ⟨0x1200008 + i * 0x1000000, 2, 1, 0⟩
def R.cmsErrAddrBank (i : Nat) : Fld := ⟨0x1200010 + i * 0x1000000, 0, 5, 0⟩
def R.cmsErrAddrSlice (i : Nat) : Fld := ⟨0x1200010 + i * 0x1000000, 8, 12, 0⟩
def R.cmsMoveCntCount (i : Nat) : Fld := ⟨0x1200018 + i * 0x1000000, 0, 48, 0⟩
def R.cmsNoroomCntCount (i : Nat) : Fld := ⟨0x1200020 + i * 0x1000000, 0, 48, 0⟩
def R.cmsBankTable (i j : Nat) : Fld := ⟨0x1200100 + i * 0x1000000 + j * 0x8, 0, 16, 0⟩
def R.cmsBankWidth (i j : Nat) : Fld := ⟨0x1200100 + i * 0x1000000 + j * 0x8, 16, 2, 0⟩
def R.cmsBankRole (i j : Nat) : Fld := ⟨0x1200100 + i * 0x1000000 + j * 0x8, 18, 2, 0⟩
def R.cmsBankUsed (i j : Nat) : Fld := ⟨0x1200100 + i * 0x1000000 + j * 0x8, 32, 13, 0⟩
def R.cmsSearchCntCount (i j : Nat) : Fld := ⟨0x1200200 + i * 0x1000000 + j * 0x8, 0, 48, 0⟩
def R.fwdCfgKickDepth : Fld := ⟨0x1300000, 0, 3, 3⟩
def R.fwdCfgMarkerMax : Fld := ⟨0x1300000, 8, 16, 64⟩
def R.fwdMoveCfgHoldoffUs : Fld := ⟨0x1300008, 0, 24, 1000⟩
def R.fwdMoveCfgFlapWindowMs : Fld := ⟨0x1300008, 32, 16, 10⟩
def R.fwdMoveCfgFlapRepeat : Fld := ⟨0x1300008, 48, 4, 3⟩
def R.fwdStatFilterOver : Fld := ⟨0x1300010, 0, 1, 0⟩
def R.fwdSecSec : Fld := ⟨0x1300018, 0, 16, 0⟩
def R.fwdWitSeqSeq : Fld := ⟨0x1300020, 0, 64, 0⟩
def R.fwdPortLearnLimit (i j : Nat) : Fld := ⟨0x1301000 + i * 0x1000000 + j * 0x8, 0, 16, 0⟩
def R.fwdPortExcess (i j : Nat) : Fld := ⟨0x1301000 + i * 0x1000000 + j * 0x8, 16, 1, 0⟩
def R.fwdPortLearned (i j : Nat) : Fld := ⟨0x1301000 + i * 0x1000000 + j * 0x8, 32, 16, 0⟩
def R.fwdTblStatUsed (i : Nat) : Fld := ⟨0x1302000 + i * 0x20, 0, 24, 0⟩
def R.fwdTblStatStampMode (i : Nat) : Fld := ⟨0x1302000 + i * 0x20, 32, 1, 0⟩
def R.fwdTblStatLate (i : Nat) : Fld := ⟨0x1302000 + i * 0x20, 33, 1, 0⟩
def R.fwdTblSeqSeq (i : Nat) : Fld := ⟨0x1302008 + i * 0x20, 0, 64, 0⟩
def R.fwdTblAgeAgeMs (i : Nat) : Fld := ⟨0x1302010 + i * 0x20, 0, 32, 0⟩
def R.fwdTblOvfUsed (i j : Nat) : Fld := ⟨0x1302018 + i * 0x1000000 + j * 0x20, 0, 13, 0⟩
def R.fwdTblCntCount (i j : Nat) : Fld := ⟨0x1304000 + i * 0x80 + j * 0x8, 0, 48, 0⟩
def R.fltCfgFlowLog2 (i : Nat) : Fld := ⟨0x1400000 + i * 0x1000000, 0, 5, 0⟩
def R.fltCfgKickDepth (i : Nat) : Fld := ⟨0x1400000 + i * 0x1000000, 8, 2, 0⟩
def R.fltCfgLayout (i : Nat) : Fld := ⟨0x1400000 + i * 0x1000000, 16, 2, 0⟩
def R.fltCfgInner (i : Nat) : Fld := ⟨0x1400000 + i * 0x1000000, 18, 1, 0⟩
def R.fltSeedASeedq (i : Nat) : Fld := ⟨0x1400008 + i * 0x1000000, 0, 32, 0⟩
def R.fltSeedASeed0 (i : Nat) : Fld := ⟨0x1400008 + i * 0x1000000, 32, 32, 0⟩
def R.fltSeedBSeed1 (i : Nat) : Fld := ⟨0x1400010 + i * 0x1000000, 0, 32, 0⟩
def R.fltSeedBSeed2 (i : Nat) : Fld := ⟨0x1400010 + i * 0x1000000, 32, 32, 0⟩
def R.fltBudgetMissGbps (i : Nat) : Fld := ⟨0x1400018 + i * 0x1000000, 0, 10, 0⟩
def R.fltBudgetSetupMps (i : Nat) : Fld := ⟨0x1400018 + i * 0x1000000, 16, 8, 0⟩
def R.fltSetupCfgLimitUs (i : Nat) : Fld := ⟨0x1400020 + i * 0x1000000, 0, 4, 0⟩
def R.fltStatFilling (i : Nat) : Fld := ⟨0x1400028 + i * 0x1000000, 0, 17, 0⟩
def R.fltStatHeld (i : Nat) : Fld := ⟨0x1400028 + i * 0x1000000, 32, 18, 0⟩
def R.fltPinStatPinned (i : Nat) : Fld := ⟨0x1400030 + i * 0x1000000, 0, 19, 0⟩
def R.fltPinStatPinLimit (i : Nat) : Fld := ⟨0x1400030 + i * 0x1000000, 32, 19, 0⟩
def R.fltAgeCfgPeriodS (i : Nat) : Fld := ⟨0x1400038 + i * 0x1000000, 0, 13, 0⟩
def R.fltAgeStatLate (i : Nat) : Fld := ⟨0x1400040 + i * 0x1000000, 0, 1, 0⟩
def R.fltAgeStatLastMs (i : Nat) : Fld := ⟨0x1400040 + i * 0x1000000, 32, 32, 0⟩
def R.fltTickTick (i : Nat) : Fld := ⟨0x1400048 + i * 0x1000000, 0, 24, 0⟩
def R.fltQuarStatUsed (i : Nat) : Fld := ⟨0x1400050 + i * 0x1000000, 0, 7, 0⟩
def R.fltQuarStatFull (i : Nat) : Fld := ⟨0x1400050 + i * 0x1000000, 7, 1, 0⟩
def R.fltQuarBucket (i j : Nat) : Fld := ⟨0x1400100 + i * 0x1000000 + j * 0x8, 0, 25, 0⟩
def R.fltQuarValid (i j : Nat) : Fld := ⟨0x1400100 + i * 0x1000000 + j * 0x8, 63, 1, 0⟩
def R.fltTimeoutTicks (i j : Nat) : Fld := ⟨0x1400300 + i * 0x1000000 + j * 0x8, 0, 23, 0⟩
def R.fltCntCount (i j : Nat) : Fld := ⟨0x1400400 + i * 0x1000000 + j * 0x8, 0, 48, 0⟩
def R.fltCtCfgPickup : Fld := ⟨0x1401000, 0, 1, 0⟩
def R.fltCtCfgWinCheck : Fld := ⟨0x1401000, 1, 1, 1⟩
def R.fltTelCfgLatRatio : Fld := ⟨0x1401008, 0, 4, 7⟩
def R.fltTelCfgHistBaseNs : Fld := ⟨0x1401008, 8, 20, 1000⟩
def R.fltTelCfgExportEn : Fld := ⟨0x1401008, 32, 1, 0⟩
def R.fltTelCfgExportSetup : Fld := ⟨0x1401008, 33, 1, 0⟩
def R.fltTelCfgActiveS : Fld := ⟨0x1401008, 40, 16, 0⟩
def R.fltTelCfgTemplateS : Fld := ⟨0x1401008, 56, 8, 60⟩
def R.fltTelPortPort : Fld := ⟨0x1401010, 0, 10, 0⟩
def R.fltTelPortQueue : Fld := ⟨0x1401010, 16, 21, 0⟩
def R.fltTelPortMtu : Fld := ⟨0x1401010, 40, 14, 1500⟩
def R.fltTelHdrCfgHdrLen : Fld := ⟨0x1401018, 0, 7, 0⟩
def R.fltTelHdrCfgIpv6 : Fld := ⟨0x1401018, 7, 1, 0⟩
def R.fltTelHdrCfgL3Off : Fld := ⟨0x1401018, 8, 8, 14⟩
def R.fltTelHdrCfgDomainBase : Fld := ⟨0x1401018, 16, 32, 0⟩
def R.fltTelHdrBytes (i : Nat) : Fld := ⟨0x1401040 + i * 0x8, 0, 64, 0⟩
def R.fltTelSeqSeq (i : Nat) : Fld := ⟨0x1401080 + i * 0x1000000, 0, 32, 0⟩
def R.fltSvcCntCount (i j : Nat) : Fld := ⟨0x1401100 + i * 0x1000000 + j * 0x8, 0, 48, 0⟩
def R.fltFragStatUsed (i : Nat) : Fld := ⟨0x1408000 + i * 0x1000000, 0, 15, 0⟩
def R.fltFragFailCntCount (i : Nat) : Fld := ⟨0x1408008 + i * 0x1000000, 0, 48, 0⟩
def R.fltFragDefaultCntCount (i : Nat) : Fld := ⟨0x1408010 + i * 0x1000000, 0, 48, 0⟩
def R.engUcodeVerUcodeVer (i j : Nat) : Fld := ⟨0x1500000 + i * 0x1000000 + j * 0x2000, 0, 32, 0⟩
def R.engUcodeVerClass (i j : Nat) : Fld := ⟨0x1500000 + i * 0x1000000 + j * 0x2000, 32, 3, 0⟩
def R.engUcodeVerLoaded (i j : Nat) : Fld := ⟨0x1500000 + i * 0x1000000 + j * 0x2000, 35, 1, 0⟩
def R.engGrpStatState (i j : Nat) : Fld := ⟨0x1500008 + i * 0x1000000 + j * 0x2000, 0, 3, 0⟩
def R.engGrpStatDmode (i j : Nat) : Fld := ⟨0x1500008 + i * 0x1000000 + j * 0x2000, 4, 2, 0⟩
def R.engGrpStatAffinity (i j : Nat) : Fld := ⟨0x1500008 + i * 0x1000000 + j * 0x2000, 6, 1, 0⟩
def R.engGrpStatBusy (i j : Nat) : Fld := ⟨0x1500008 + i * 0x1000000 + j * 0x2000, 8, 7, 0⟩
def R.engGrpStatStatus (i j : Nat) : Fld := ⟨0x1500008 + i * 0x1000000 + j * 0x2000, 16, 16, 0⟩
def R.engGrpCtlDrain (i j : Nat) : Fld := ⟨0x1500010 + i * 0x1000000 + j * 0x2000, 0, 1, 0⟩
def R.engGrpCtlReturn (i j : Nat) : Fld := ⟨0x1500010 + i * 0x1000000 + j * 0x2000, 1, 1, 0⟩
def R.engGrpCtlAdopt (i j : Nat) : Fld := ⟨0x1500010 + i * 0x1000000 + j * 0x2000, 2, 1, 0⟩
def R.engGrpCtlRelease (i j : Nat) : Fld := ⟨0x1500010 + i * 0x1000000 + j * 0x2000, 3, 1, 0⟩
def R.engGrpCtlAdoptClass (i j : Nat) : Fld := ⟨0x1500010 + i * 0x1000000 + j * 0x2000, 8, 3, 0⟩
def R.engIntCtx (i j : Nat) : Fld := ⟨0x1500018 + i * 0x1000000 + j * 0x2000, 0, 6, 0⟩
def R.engIntCode (i j : Nat) : Fld := ⟨0x1500018 + i * 0x1000000 + j * 0x2000, 8, 8, 0⟩
def R.engIntGo (i j : Nat) : Fld := ⟨0x1500018 + i * 0x1000000 + j * 0x2000, 16, 1, 0⟩
def R.tskDispStatQueued (i j : Nat) : Fld := ⟨0x1500020 + i * 0x1000000 + j * 0x2000, 0, 11, 0⟩
def R.tskDispStatSetups (i j : Nat) : Fld := ⟨0x1500020 + i * 0x1000000 + j * 0x2000, 16, 17, 0⟩
def R.tskFlagCfgTickUs (i j : Nat) : Fld := ⟨0x1500028 + i * 0x1000000 + j * 0x2000, 0, 16, 0⟩
def R.engCntCount (i j k : Nat) : Fld := ⟨0x1500100 + i * 0x1000000 + j * 0x2000 + k * 0x8, 0, 48, 0⟩
def R.tskFlagFlags (i j k : Nat) : Fld := ⟨0x1500200 + i * 0x1000000 + j * 0x2000 + k * 0x8, 0, 32, 0⟩
def R.tskFlagMask (i j k : Nat) : Fld := ⟨0x1500200 + i * 0x1000000 + j * 0x2000 + k * 0x8, 32, 32, 0⟩
def R.tskPostBytes (i j k : Nat) : Fld := ⟨0x1500400 + i * 0x1000000 + j * 0x2000 + k * 0x8, 0, 64, 0⟩
def R.tskPostCtlGo (i j : Nat) : Fld := ⟨0x1500420 + i * 0x1000000 + j * 0x2000, 0, 1, 0⟩
def R.tskPostCtlStatus (i j : Nat) : Fld := ⟨0x1500420 + i * 0x1000000 + j * 0x2000, 16, 16, 0⟩
def R.tskRelStatOutstanding (i : Nat) : Fld := ⟨0x15f0000 + i * 0x1000000, 0, 17, 0⟩
def R.tskRelStatWaiting (i : Nat) : Fld := ⟨0x15f0000 + i * 0x1000000, 32, 9, 0⟩
def R.tskDomSelDomain (i : Nat) : Fld := ⟨0x15f0008 + i * 0x1000000, 0, 16, 0⟩
def R.tskDomStatNext (i : Nat) : Fld := ⟨0x15f0010 + i * 0x1000000, 0, 16, 0⟩
def R.tskDomStatHead (i : Nat) : Fld := ⟨0x15f0010 + i * 0x1000000, 16, 16, 0⟩
def R.tskDomStatOut (i : Nat) : Fld := ⟨0x15f0010 + i * 0x1000000, 32, 11, 0⟩
def R.tskCancelDomain (i : Nat) : Fld := ⟨0x15f0018 + i * 0x1000000, 0, 16, 0⟩
def R.tskCancelSeq (i : Nat) : Fld := ⟨0x15f0018 + i * 0x1000000, 16, 16, 0⟩
def R.tskCancelGo (i : Nat) : Fld := ⟨0x15f0018 + i * 0x1000000, 32, 1, 0⟩
def R.tskCancelStatus (i : Nat) : Fld := ⟨0x15f0018 + i * 0x1000000, 48, 16, 0⟩
def R.tskCntCount (i j : Nat) : Fld := ⟨0x15f0100 + i * 0x1000000 + j * 0x8, 0, 48, 0⟩
def R.celCfgTailRsv (i : Nat) : Fld := ⟨0x1600000 + i * 0x1000000, 0, 20, 5120⟩
def R.celStatP0Free (i : Nat) : Fld := ⟨0x1600008 + i * 0x1000000, 0, 19, 0⟩
def R.celStatP1Free (i : Nat) : Fld := ⟨0x1600008 + i * 0x1000000, 32, 26, 0⟩
def R.celClassLimit (i j : Nat) : Fld := ⟨0x1600020 + i * 0x1000000 + j * 0x8, 0, 19, 262144⟩
def R.celClassNoSpill (i j : Nat) : Fld := ⟨0x1600020 + i * 0x1000000 + j * 0x8, 19, 1, 0⟩
def R.celClassUsed (i j : Nat) : Fld := ⟨0x1600020 + i * 0x1000000 + j * 0x8, 32, 19, 0⟩
def R.celPcpMapClass (i j : Nat) : Fld := ⟨0x1600100 + i * 0x1000000 + j * 0x8, 0, 16, 0⟩
def R.celPcpMapUntagged (i j : Nat) : Fld := ⟨0x1600100 + i * 0x1000000 + j * 0x8, 16, 2, 0⟩
def R.celFreePtr (i : Nat) : Fld := ⟨0x1600500 + i * 0x1000000, 0, 28, 0⟩
def R.celFreeGo (i : Nat) : Fld := ⟨0x1600500 + i * 0x1000000, 32, 1, 0⟩
def R.celFreeStatus (i : Nat) : Fld := ⟨0x1600500 + i * 0x1000000, 48, 16, 0⟩
def R.celCntCount (i j : Nat) : Fld := ⟨0x1600580 + i * 0x1000000 + j * 0x8, 0, 48, 0⟩
def R.celOwnerRsv (i j : Nat) : Fld := ⟨0x1601000 + i * 0x1000000 + j * 0x8, 0, 27, 0⟩
def R.celOwnerMax (i j : Nat) : Fld := ⟨0x1601000 + i * 0x1000000 + j * 0x8, 32, 27, 0⟩
def R.celOwnerCntCount (i j : Nat) : Fld := ⟨0x1606000 + i * 0x1000000 + j * 0x8, 0, 27, 0⟩
def R.quePgQbase (i j : Nat) : Fld := ⟨0x1700000 + i * 0x1000000 + j * 0x8, 0, 21, 0⟩
def R.quePgQcount (i j : Nat) : Fld := ⟨0x1700000 + i * 0x1000000 + j * 0x8, 32, 22, 0⟩
def R.quePgStatPending (i j : Nat) : Fld := ⟨0x1700080 + i * 0x1000000 + j * 0x8, 0, 1, 0⟩
def R.queMirrorPort (i : Nat) : Fld := ⟨0x1700108 + (i - 1) * 0x8, 0, 10, 0⟩
def R.queMirrorQueue (i : Nat) : Fld := ⟨0x1700108 + (i - 1) * 0x8, 10, 21, 0⟩
def R.queMirrorTrunc (i : Nat) : Fld := ⟨0x1700108 + (i - 1) * 0x8, 32, 14, 0⟩
def R.queCntCount (i j : Nat) : Fld := ⟨0x1700200 + i * 0x1000000 + j * 0x8, 0, 48, 0⟩
def R.shtPortCfgCycleNs (i j : Nat) : Fld := ⟨0x1800000 + i * 0x1000000 + j * 0x40, 0, 32, 0⟩
def R.shtPortCfgSchedTcs (i j : Nat) : Fld := ⟨0x1800000 + i * 0x1000000 + j * 0x40, 32, 16, 0⟩
def R.shtPortCfgEntries (i j : Nat) : Fld := ⟨0x1800000 + i * 0x1000000 + j * 0x40, 48, 11, 0⟩
def R.shtPortBaseBase (i j : Nat) : Fld := ⟨0x1800008 + i * 0x1000000 + j * 0x40, 0, 32, 0⟩
def R.shtPortBaseRun (i j : Nat) : Fld := ⟨0x1800008 + i * 0x1000000 + j * 0x40, 32, 1, 0⟩
def R.shtPortStatEntry (i j : Nat) : Fld := ⟨0x1800010 + i * 0x1000000 + j * 0x40, 0, 10, 0⟩
def R.shtPortStatBaseErr (i j : Nat) : Fld := ⟨0x1800010 + i * 0x1000000 + j * 0x40, 10, 1, 0⟩
def R.shtPortStatGates (i j : Nat) : Fld := ⟨0x1800010 + i * 0x1000000 + j * 0x40, 16, 16, 0⟩
def R.shtPortStatCycleStart (i j : Nat) : Fld := ⟨0x1800010 + i * 0x1000000 + j * 0x40, 32, 32, 0⟩
def R.shtPortPendPending (i j : Nat) : Fld := ⟨0x1800018 + i * 0x1000000 + j * 0x40, 0, 1, 0⟩
def R.shtPortPendChangeAt (i j : Nat) : Fld := ⟨0x1800018 + i * 0x1000000 + j * 0x40, 32, 32, 0⟩
def R.shtRsvStatUsed (i : Nat) : Fld := ⟨0x1802000 + i * 0x1000000, 0, 15, 0⟩
def R.shtCntCount (i j : Nat) : Fld := ⟨0x1802100 + i * 0x1000000 + j * 0x8, 0, 48, 0⟩
def R.macTsCorrRxPs (i j k : Nat) : Fld := ⟨0x1900800 + i * 0x1000000 + j * 0x1000 + (k - 1) * 0x8, 0, 20, 0⟩
def R.macTsCorrTxPs (i j k : Nat) : Fld := ⟨0x1900800 + i * 0x1000000 + j * 0x1000 + (k - 1) * 0x8, 32, 20, 0⟩
def R.macTsAsymAsymPs (i j : Nat) : Fld := ⟨0x1900830 + i * 0x1000000 + j * 0x1000, 0, 24, 0⟩
def R.macTxtsLoRecLo (i j : Nat) : Fld := ⟨0x1900838 + i * 0x1000000 + j * 0x1000, 0, 64, 0⟩
def R.macTxtsHiRecHi (i j : Nat) : Fld := ⟨0x1900840 + i * 0x1000000 + j * 0x1000, 0, 64, 0⟩
def R.macTsCntCount (i j k : Nat) : Fld := ⟨0x1900848 + i * 0x1000000 + j * 0x1000 + k * 0x8, 0, 48, 0⟩

end Sys2Proof.Machine
end

