-- ==== Sys2Proof/Machine/RegMap.lean ====
section
/-!
DEFINITION. The register index (R462, R463) as data: one row per register of the spec, with the field
map its chapter gives. The rows serve the generic register access (R13–R17, R322, R342) and the resets.
-/

namespace Sys2Proof.Machine

def pc : List RClass := [.P, .C]
def pcw : List RClass := [.P, .C, .W]
def pcwd : List RClass := [.P, .C, .W, .D]
def pcwe : List RClass := [.P, .C, .W, .E]

/-- Block ID. -/
def regsId : List RegDesc := [
  ⟨"ID_PART", 0x0, [], false, false, false, 99, [
    ⟨0, 16, .ro, 0x2800, .fuse, [], .any, false, false⟩,
    ⟨16, 8, .ro, 0, .fuse, [], .any, false, false⟩,
    ⟨24, 1, .ro, 0, .fuse, [], .any, false, false⟩]⟩,
  ⟨"ID_LOT", 0x8, [], false, false, false, 99, [
    ⟨0, 32, .ro, 0, .fuse, [], .any, false, false⟩,
    ⟨32, 5, .ro, 0, .fuse, [], .any, false, false⟩,
    ⟨40, 8, .ro, 0, .fuse, [], .any, false, false⟩,
    ⟨48, 8, .ro, 0, .fuse, [], .any, false, false⟩]⟩,
  ⟨"ID_FW_VER", 0x10, [], false, false, false, 99, [
    ⟨0, 32, .ro, 0, .flash, pcw, .any, false, false⟩]⟩]

/-- Block FAB. -/
def regsFab : List RegDesc := [
  ⟨"FAB_LINK", 0x200000, [(10, 0x8)], false, false, false, 3, [
    ⟨0, 2, .ro, 0, .live, pc, .any, false, false⟩]⟩,
  ⟨"FAB_CNT", 0x200100, [(10, 0x20), (3, 0x8)], true, false, false, 3, [
    ⟨0, 48, .ro, 0, .val, pcw, .any, false, false⟩]⟩]

/-- Block MAC. -/
def regsMac : List RegDesc := [
  ⟨"MAC_FRAME_MAX", 0x1900000, [(4, 0x1000000), (128, 0x1000)], false, true, false, 0, [
    ⟨0, 14, .rw, 0, .image, pcw, .le 9216, false, false⟩]⟩,
  ⟨"MAC_TS_CORR", 0x1900800, [(4, 0x1000000), (128, 0x1000), (6, 0x8)], false, true, false, 0, [
    ⟨0, 20, .rw, 0, .val, pcw, .any, false, false⟩,
    ⟨32, 20, .rw, 0, .val, pcw, .any, false, false⟩]⟩,
  ⟨"MAC_TS_ASYM", 0x1900830, [(4, 0x1000000), (128, 0x1000)], false, true, false, 0, [
    ⟨0, 24, .rw, 0, .val, pcw, .any, false, false⟩]⟩,
  ⟨"MAC_TXTS_LO", 0x1900838, [(4, 0x1000000), (128, 0x1000)], true, true, false, 0, [
    ⟨0, 64, .rl, 0, .val, pcwd, .any, false, false⟩]⟩,
  ⟨"MAC_TXTS_HI", 0x1900840, [(4, 0x1000000), (128, 0x1000)], true, true, false, 0, [
    ⟨0, 64, .ro, 0, .val, pcwd, .any, false, false⟩]⟩,
  ⟨"MAC_TS_CNT", 0x1900848, [(4, 0x1000000), (128, 0x1000), (2, 0x8)], true, true, false, 0, [
    ⟨0, 48, .ro, 0, .val, pcw, .any, false, false⟩]⟩]

/-- Block HIF. -/
def regsHif : List RegDesc := [
  ⟨"HIF_WIN_SEL", 0x24000, [(8, 0x8)], false, false, false, 99, [
    ⟨0, 3, .rw, 0, .val, pcwe, .any, false, false⟩,
    ⟨4, 2, .rw, 0, .val, pcwe, .any, false, false⟩,
    ⟨8, 12, .rw, 0, .val, pcwe, .any, false, false⟩]⟩,
  ⟨"HIF_ERR_STAT", 0x20000, [], false, false, false, 99, [
    ⟨0, 1, .w1c, 0, .val, pcwe, .any, false, false⟩,
    ⟨1, 1, .w1c, 0, .val, pcwe, .any, false, false⟩,
    ⟨2, 1, .w1c, 0, .val, pcwe, .any, false, false⟩,
    ⟨3, 1, .w1c, 0, .val, pcwe, .any, false, false⟩,
    ⟨4, 1, .w1c, 0, .val, pcwe, .any, false, false⟩,
    ⟨5, 1, .w1c, 0, .val, pcwe, .any, false, false⟩,
    ⟨6, 1, .w1c, 0, .val, pcwe, .any, false, false⟩]⟩,
  ⟨"HIF_LINK", 0x20008, [], false, false, false, 99, [
    ⟨0, 3, .ro, 0, .live, [], .any, false, false⟩,
    ⟨8, 4, .ro, 0, .live, [], .any, false, false⟩,
    ⟨12, 1, .ro, 0, .live, [], .any, false, false⟩]⟩,
  ⟨"HIF_EVT_BASE", 0x20010, [], false, false, false, 99, [
    ⟨12, 52, .rw, 0, .val, pcwe, .any, false, false⟩]⟩,
  ⟨"HIF_EVT_CFG", 0x20018, [], false, false, false, 99, [
    ⟨0, 5, .rw, 0, .val, pcwe, .zeroOr 4 16, false, false⟩,
    ⟨16, 16, .rw, 0, .val, pcwe, .any, false, false⟩]⟩,
  ⟨"HIF_EVT_STAT", 0x20020, [], false, false, false, 99, [
    ⟨0, 17, .ro, 0, .live, pcwe, .any, false, false⟩,
    ⟨32, 17, .ro, 0, .live, pcwe, .any, false, false⟩]⟩,
  ⟨"HIF_RING_BASE", 0x21000, [(144, 0x10)], false, false, false, 99, [
    ⟨12, 52, .rw, 0, .val, pcwe, .any, false, false⟩]⟩,
  ⟨"HIF_RING_CFG", 0x21008, [(144, 0x10)], false, false, false, 99, [
    ⟨0, 5, .rw, 0, .val, pcwe, .zeroOr 6 16, false, false⟩,
    ⟨8, 4, .rw, 0, .val, pcwe, .any, false, false⟩,
    ⟨16, 16, .rw, 0, .val, pcwe, .any, false, false⟩,
    ⟨32, 16, .ro, 0, .live, pcwe, .any, false, false⟩]⟩,
  ⟨"HIF_SESS", 0x22010, [(16, 0x10)], false, false, false, 99, [
    ⟨0, 1, .ro, 0, .live, pcw, .any, false, false⟩,
    ⟨1, 6, .ro, 0, .val, pcw, .any, false, false⟩,
    ⟨16, 16, .ro, 0, .val, pcw, .any, false, false⟩,
    ⟨32, 16, .ro, 0, .val, pcw, .any, false, false⟩,
    ⟨48, 16, .ro, 0, .val, pcw, .any, false, true⟩]⟩,
  ⟨"HIF_SESS_SEQ", 0x22018, [(16, 0x10)], true, false, false, 99, [
    ⟨0, 64, .ro, 0, .val, pcw, .any, false, false⟩]⟩,
  ⟨"HIF_CNT", 0x23000, [(8, 0x8)], true, false, false, 99, [
    ⟨0, 48, .ro, 0, .val, pcw, .any, false, false⟩]⟩]

/-- Block MOD. -/
def regsMod : List RegDesc := [
  ⟨"MOD_STAT", 0x100, [], false, true, false, 3, [
    ⟨0, 3, .ro, 0, .live, pcw, .any, false, false⟩,
    ⟨4, 3, .ro, 0, .live, pcw, .any, false, false⟩,
    ⟨8, 1, .ro, 0, .live, pcw, .any, false, false⟩,
    ⟨9, 1, .ro, 0, .live, pcw, .any, false, false⟩,
    ⟨12, 4, .ro, 0, .val, pcw, .any, false, false⟩,
    ⟨32, 32, .ro, 0, .live, pcw, .any, false, false⟩]⟩,
  ⟨"MOD_SPLICE", 0x108, [], false, true, false, 3, [
    ⟨0, 8, .ro, 255, .live, pcw, .any, false, false⟩,
    ⟨8, 1, .w1c, 0, .val, pcw, .any, false, false⟩]⟩,
  ⟨"MOD_FW", 0x110, [], false, true, false, 3, [
    ⟨0, 1, .rw, 0, .flash, pcw, .any, false, false⟩,
    ⟨1, 1, .w1s, 0, .val, pcw, .any, true, false⟩,
    ⟨16, 16, .ro, 0, .val, pcw, .any, false, true⟩]⟩,
  ⟨"MOD_FW_STAT", 0x118, [], false, true, false, 3, [
    ⟨0, 4, .ro, 0, .flash, pcw, .any, false, false⟩,
    ⟨4, 2, .ro, 0, .live, pcw, .any, false, false⟩,
    ⟨6, 2, .ro, 0, .live, pcw, .any, false, false⟩,
    ⟨32, 32, .ro, 0, .val, pcw, .any, false, false⟩]⟩,
  ⟨"MOD_XBAR", 0x200, [(4, 0x8)], false, true, false, 3, [
    ⟨0, 4, .ro, 0, .image, pcw, .any, false, false⟩,
    ⟨4, 4, .ro, 0, .image, pcw, .any, false, false⟩,
    ⟨8, 4, .ro, 0, .image, pcw, .any, false, false⟩,
    ⟨12, 4, .ro, 0, .image, pcw, .any, false, false⟩,
    ⟨16, 4, .ro, 0, .image, pcw, .any, false, false⟩,
    ⟨20, 4, .ro, 0, .image, pcw, .any, false, false⟩,
    ⟨24, 4, .ro, 0, .image, pcw, .any, false, false⟩,
    ⟨28, 4, .ro, 0, .image, pcw, .any, false, false⟩,
    ⟨32, 4, .ro, 0, .image, pcw, .any, false, false⟩,
    ⟨36, 4, .ro, 0, .image, pcw, .any, false, false⟩,
    ⟨40, 4, .ro, 0, .image, pcw, .any, false, false⟩,
    ⟨44, 4, .ro, 0, .image, pcw, .any, false, false⟩,
    ⟨48, 4, .ro, 0, .image, pcw, .any, false, false⟩,
    ⟨52, 4, .ro, 0, .image, pcw, .any, false, false⟩,
    ⟨56, 4, .ro, 0, .image, pcw, .any, false, false⟩,
    ⟨60, 4, .ro, 0, .image, pcw, .any, false, false⟩]⟩,
  ⟨"MOD_SPARE", 0x220, [(4, 0x8)], false, true, false, 3, [
    ⟨0, 4, .ro, 8, .val, pcw, .any, false, false⟩,
    ⟨8, 9, .ro, 0, .val, pcw, .any, false, false⟩]⟩,
  ⟨"MOD_HANDOVER", 0x240, [(4, 0x8)], false, true, false, 3, [
    ⟨0, 4, .rw, 0, .val, pcw, .any, false, false⟩,
    ⟨4, 1, .w1s, 0, .val, pcw, .any, true, false⟩,
    ⟨5, 1, .ro, 0, .val, pcw, .any, false, false⟩,
    ⟨8, 2, .ro, 0, .live, pcw, .any, false, false⟩,
    ⟨16, 16, .ro, 0, .val, pcw, .any, false, true⟩,
    ⟨32, 4, .ro, 15, .val, pcw, .any, false, false⟩]⟩,
  ⟨"MOD_ROT", 0x260, [], false, true, false, 3, [
    ⟨0, 4, .rw, 0, .image, pcw, .any, false, false⟩]⟩,
  ⟨"MOD_ROT_STAT", 0x280, [(4, 0x8)], false, true, false, 3, [
    ⟨0, 4, .ro, 15, .live, pcw, .any, false, false⟩,
    ⟨16, 16, .ro, 0, .val, pcw, .any, false, false⟩,
    ⟨32, 32, .ro, 0, .live, pcw, .any, false, false⟩]⟩,
  ⟨"MOD_PIPE_VER", 0x500, [(4, 0x48), (9, 0x8)], false, true, false, 3, [
    ⟨0, 32, .ro, 0, .image, pcw, .any, false, false⟩,
    ⟨32, 32, .ro, 0, .image, pcw, .any, false, false⟩]⟩]

/-- Block STG. -/
def regsStg : List RegDesc := [
  ⟨"STG_TAKE_STAT", 0x400, [], false, false, false, 0, [
    ⟨0, 16, .ro, 0, .live, pcw, .any, false, false⟩,
    ⟨16, 16, .ro, 0, .live, pcw, .any, false, false⟩,
    ⟨32, 1, .ro, 0, .live, pcw, .any, false, false⟩,
    ⟨33, 3, .ro, 0, .live, pcw, .any, false, false⟩,
    ⟨36, 1, .w1c, 0, .val, pcw, .any, false, false⟩,
    ⟨37, 1, .w1c, 0, .val, pcw, .any, false, false⟩]⟩,
  ⟨"STG_TAKE_CFG", 0x408, [], false, true, false, 0, [
    ⟨0, 5, .rw, 12, .val, pcw, .any, false, false⟩]⟩,
  ⟨"STG_TAKE_ACT", 0x410, [], false, false, false, 0, [
    ⟨0, 32, .ro, 0, .val, pcw, .any, false, false⟩,
    ⟨32, 16, .ro, 0, .val, pcw, .any, false, false⟩,
    ⟨48, 1, .ro, 0, .val, pcw, .any, false, false⟩]⟩,
  ⟨"STG_TAKE_DONE", 0x418, [], false, false, false, 0, [
    ⟨0, 32, .ro, 0, .val, pcw, .any, false, false⟩,
    ⟨32, 16, .ro, 0, .val, pcw, .any, false, false⟩]⟩,
  ⟨"STG_TAKE_STAGED", 0x420, [], false, false, false, 0, [
    ⟨0, 17, .ro, 0, .live, pcw, .any, false, false⟩]⟩,
  ⟨"STG_TAKE_OVERRUN_CNT", 0x428, [], true, false, false, 0, [
    ⟨0, 48, .ro, 0, .val, pcw, .any, false, false⟩]⟩,
  ⟨"STG_CFG", 0x1008000, [(4, 0x1000000), (9, 0x20000)], false, false, false, 0, [
    ⟨0, 5, .ro, 0, .image, pcw, .any, false, false⟩,
    ⟨8, 5, .ro, 0, .image, pcw, .any, false, false⟩,
    ⟨16, 1, .ro, 0, .image, pcw, .any, false, false⟩,
    ⟨24, 3, .ro, 0, .image, pcw, .any, false, false⟩]⟩,
  ⟨"STG_TAKE_SEEN", 0x1008008, [(4, 0x1000000), (9, 0x20000)], false, false, false, 0, [
    ⟨0, 16, .ro, 0, .live, pcwd, .any, false, false⟩,
    ⟨16, 1, .ro, 1, .live, pcwd, .any, false, false⟩]⟩]

/-- Block PWR. -/
def regsPwr : List RegDesc := [
  ⟨"PWR_RST_CAUSE", 0x10000, [], false, true, false, 3, [
    ⟨0, 4, .ro, 0, .cause, pcw, .any, false, false⟩,
    ⟨4, 1, .ro, 0, .cause, pcw, .any, false, false⟩,
    ⟨5, 1, .ro, 0, .cause, pcw, .any, false, false⟩]⟩,
  ⟨"PWR_DOM_RST", 0x10008, [], false, true, false, 3, [
    ⟨0, 2, .rw, 0, .val, pcw, .any, false, false⟩,
    ⟨2, 2, .rw, 0, .val, pcw, .any, false, false⟩,
    ⟨4, 4, .rw, 0, .val, pcw, .any, false, false⟩,
    ⟨8, 1, .w1s, 0, .val, pcw, .any, true, false⟩,
    ⟨16, 16, .ro, 0, .val, pcw, .any, false, true⟩]⟩,
  ⟨"PWR_PARK", 0x10010, [], false, true, false, 3, [
    ⟨0, 4, .rw, 0, .val, pcw, .any, true, false⟩,
    ⟨4, 4, .ro, 0, .live, pcw, .any, false, false⟩,
    ⟨16, 16, .ro, 0, .val, pcw, .any, false, true⟩]⟩,
  ⟨"PWR_PORT", 0x11000, [(512, 0x8)], false, true, false, 3, [
    ⟨0, 1, .rw, 0, .val, pcw, .any, true, false⟩,
    ⟨1, 1, .w1s, 0, .val, pcw, .any, true, false⟩,
    ⟨2, 2, .ro, 3, .live, [], .any, false, false⟩]⟩]

/-- Block MBX. -/
def regsMbx : List RegDesc := [
  ⟨"MBX_DATA", 0x30000, [(64, 0x100), (32, 0x8)], false, false, false, 99, [
    ⟨0, 64, .rw, 0, .val, pcw, .any, true, false⟩]⟩,
  ⟨"MBX_HDR", 0x34000, [(64, 0x20)], true, false, false, 99, [
    ⟨0, 9, .rw, 0, .val, pcw, .any, true, false⟩,
    ⟨16, 6, .ro, 0, .val, pcw, .any, false, false⟩,
    ⟨22, 1, .ro, 0, .val, pcw, .any, false, false⟩,
    ⟨23, 1, .ro, 0, .live, pcw, .any, false, false⟩,
    ⟨24, 8, .ro, 0, .val, pcw, .any, false, false⟩,
    ⟨32, 32, .rw, 0, .val, pcw, .any, true, false⟩]⟩,
  ⟨"MBX_TAKE", 0x34008, [(64, 0x20)], true, false, false, 99, [
    ⟨0, 64, .rl, 0, .val, pcw, .any, false, false⟩]⟩,
  ⟨"MBX_STAT", 0x34010, [(64, 0x20)], false, false, false, 99, [
    ⟨0, 2, .ro, 0, .live, pcw, .any, false, false⟩,
    ⟨2, 1, .w1c, 0, .val, pcw, .any, false, false⟩,
    ⟨3, 1, .w1c, 0, .val, pcw, .any, false, false⟩,
    ⟨8, 6, .ro, 0, .live, pcw, .any, false, false⟩]⟩,
  ⟨"MBX_CFG", 0x34018, [(64, 0x20)], false, true, false, 99, [
    ⟨0, 6, .rw, 0, .rule, pcw, .any, false, false⟩,
    ⟨8, 6, .rw, 0, .rule, pcw, .any, false, false⟩,
    ⟨16, 1, .rw, 1, .val, pcw, .any, false, false⟩,
    ⟨17, 1, .rw, 1, .val, pcw, .any, false, false⟩]⟩]

/-- Block LCK. -/
def regsLck : List RegDesc := [
  ⟨"LCK", 0x35000, [(32, 0x8)], true, false, false, 99, [
    ⟨0, 6, .rl, 0, .val, pcw, .any, false, false⟩]⟩,
  ⟨"LCK_FORCE", 0x35100, [], false, true, false, 99, [
    ⟨0, 5, .rw, 0, .val, pcw, .any, false, false⟩,
    ⟨5, 1, .w1s, 0, .val, pcw, .any, true, false⟩]⟩]

/-- Block KEY. -/
def regsKey : List RegDesc := [
  ⟨"KEY_STAT", 0x40000, [], false, true, false, 5, [
    ⟨0, 1, .ro, 0, .val, pcw, .any, false, false⟩,
    ⟨1, 1, .ro, 0, .live, pcw, .any, false, false⟩,
    ⟨2, 7, .ro, 56, .live, pcw, .any, false, false⟩]⟩,
  ⟨"KEY_SLOT", 0x40100, [(64, 0x8)], false, true, false, 5, [
    ⟨0, 2, .ro, 0, .live, pcw, .any, false, false⟩,
    ⟨2, 4, .ro, 0, .val, pcw, .any, false, false⟩,
    ⟨6, 6, .ro, 0, .val, pcw, .any, false, false⟩,
    ⟨12, 1, .ro, 0, .val, pcw, .any, false, false⟩,
    ⟨13, 3, .ro, 0, .live, pcw, .any, false, false⟩,
    ⟨16, 8, .ro, 0, .val, pcw, .any, false, false⟩]⟩]

/-- Block CIP. -/
def regsCip : List RegDesc := [
  ⟨"CIP_RING_BASE", 0x41000, [(4, 0x20)], false, true, false, 5, [
    ⟨6, 58, .rw, 0, .val, pcw, .any, false, false⟩]⟩,
  ⟨"CIP_RING_CFG", 0x41008, [(4, 0x20)], false, true, false, 5, [
    ⟨0, 4, .rw, 0, .val, pcw, .zeroOr 4 12, false, false⟩]⟩,
  ⟨"CIP_RING_TAIL", 0x41010, [(4, 0x20)], false, true, false, 5, [
    ⟨0, 12, .wo, 0, .val, [], .any, true, false⟩]⟩,
  ⟨"CIP_RING_STAT", 0x41018, [(4, 0x20)], false, true, false, 5, [
    ⟨0, 12, .ro, 0, .live, pcw, .any, false, false⟩]⟩,
  ⟨"CIP_CNT", 0x41200, [(6, 0x8)], true, true, false, 5, [
    ⟨0, 48, .ro, 0, .val, pcw, .any, false, false⟩]⟩]

/-- Block SIG. -/
def regsSig : List RegDesc := [
  ⟨"SIG_STAT", 0x42000, [], false, true, false, 5, [
    ⟨0, 1, .ro, 0, .live, pcw, .any, false, false⟩,
    ⟨1, 3, .ro, 0, .live, pcw, .any, false, false⟩,
    ⟨4, 4, .ro, 0, .live, pcw, .any, false, false⟩]⟩,
  ⟨"SIG_CNT", 0x42100, [(4, 0x8)], true, true, false, 5, [
    ⟨0, 48, .ro, 0, .val, pcw, .any, false, false⟩]⟩]

/-- Block TIM. -/
def regsTim : List RegDesc := [
  ⟨"TIM_NOW", 0x50000, [], true, true, false, 2, [
    ⟨0, 32, .ro, 0, .live, pcw, .any, false, false⟩,
    ⟨32, 32, .ro, 0, .live, pcw, .any, false, false⟩]⟩,
  ⟨"TIM_NOWX", 0x50008, [], true, true, false, 2, [
    ⟨0, 32, .ro, 0, .live, pcw, .any, false, false⟩,
    ⟨32, 8, .ro, 0, .live, pcw, .any, false, false⟩,
    ⟨40, 1, .ro, 0, .live, pcw, .any, false, false⟩]⟩,
  ⟨"TIM_INCREMENT", 0x50010, [], false, true, false, 2, [
    ⟨0, 36, .rw, 3435973837, .val, pcw, .any, true, false⟩]⟩,
  ⟨"TIM_STAT", 0x50018, [], false, true, false, 2, [
    ⟨0, 1, .ro, 0, .live, pcw, .any, false, false⟩,
    ⟨1, 2, .ro, 0, .live, pcw, .any, false, false⟩,
    ⟨3, 2, .ro, 0, .live, pcw, .any, false, false⟩,
    ⟨5, 1, .w1c, 0, .val, pcw, .any, false, false⟩,
    ⟨6, 1, .w1c, 0, .val, pcw, .any, false, false⟩,
    ⟨16, 16, .ro, 0, .live, pcw, .any, false, false⟩]⟩,
  ⟨"TIM_JUMP_LIMIT", 0x50020, [], false, true, false, 2, [
    ⟨0, 32, .rw, 1000, .val, pcw, .any, false, false⟩]⟩,
  ⟨"TIM_CFG", 0x50028, [], false, true, false, 2, [
    ⟨0, 16, .rw, 60, .val, pcw, .any, false, false⟩]⟩,
  ⟨"TIM_ADJ", 0x50030, [], false, true, false, 2, [
    ⟨0, 32, .rw, 0, .val, pcw, .any, false, false⟩,
    ⟨32, 1, .rw, 0, .val, pcw, .any, false, false⟩,
    ⟨33, 1, .w1s, 0, .val, pcw, .any, true, false⟩,
    ⟨48, 16, .ro, 0, .val, pcw, .any, false, true⟩]⟩,
  ⟨"TIM_CTL", 0x50038, [], false, true, false, 2, [
    ⟨0, 1, .w1s, 0, .val, pcw, .any, true, false⟩,
    ⟨1, 1, .w1s, 0, .val, pcw, .any, true, false⟩,
    ⟨2, 1, .rw, 0, .val, pcw, .any, false, false⟩]⟩,
  ⟨"TIM_EPOCH_ACK", 0x50040, [], false, false, false, 2, [
    ⟨0, 8, .wo, 0, .val, [], .any, true, false⟩,
    ⟨8, 1, .wo, 0, .val, [], .any, true, false⟩]⟩,
  ⟨"TIM_INT", 0x50048, [], false, true, false, 2, [
    ⟨0, 1, .w1c, 0, .val, pcw, .any, false, false⟩,
    ⟨1, 1, .w1c, 0, .val, pcw, .any, false, false⟩,
    ⟨2, 1, .w1c, 0, .val, pcw, .any, false, false⟩,
    ⟨3, 1, .w1c, 0, .val, pcw, .any, false, false⟩,
    ⟨16, 4, .rw, 0, .val, pcw, .any, false, false⟩]⟩,
  ⟨"TIM_UPTIME", 0x50050, [], true, true, false, 2, [
    ⟨0, 64, .ro, 0, .live, pcw, .any, false, false⟩]⟩,
  ⟨"TIM_BOOT", 0x50058, [], false, true, false, 2, [
    ⟨0, 32, .ro, 0, .flash, pcw, .any, false, false⟩]⟩,
  ⟨"TIM_PPS_OUT_NEXT", 0x50060, [], false, true, false, 2, [
    ⟨0, 32, .rw, 0, .val, pcw, .any, false, false⟩]⟩,
  ⟨"TIM_PPS_OUT_CFG", 0x50068, [], false, true, false, 2, [
    ⟨0, 32, .rw, 0, .val, pcw, .any, false, false⟩,
    ⟨32, 16, .rw, 100, .val, pcw, .any, false, false⟩]⟩,
  ⟨"TIM_PPS_IN", 0x50070, [], false, true, false, 2, [
    ⟨0, 32, .rl, 0, .val, pcw, .any, false, false⟩,
    ⟨32, 16, .rl, 0, .val, pcw, .any, false, false⟩,
    ⟨48, 1, .rl, 0, .val, pcw, .any, false, false⟩]⟩,
  ⟨"TIM_SYNCE", 0x50078, [(2, 0x8)], false, true, false, 2, [
    ⟨0, 10, .rw, 0, .val, pcw, .any, false, false⟩,
    ⟨16, 2, .rw, 0, .val, pcw, .neq 3, false, false⟩,
    ⟨18, 1, .ro, 1, .live, pcw, .any, false, false⟩]⟩]

/-- Block SAF. -/
def regsSaf : List RegDesc := [
  ⟨"SAF_STAT", 0x60000, [], false, true, false, 3, [
    ⟨0, 1, .ro, 1, .live, pcw, .any, false, false⟩,
    ⟨1, 1, .ro, 1, .live, pcw, .any, false, false⟩,
    ⟨2, 1, .ro, 0, .live, pc, .any, false, false⟩,
    ⟨3, 1, .ro, 0, .live, pcw, .any, false, false⟩,
    ⟨4, 1, .ro, 0, .val, pcw, .any, false, false⟩,
    ⟨8, 4, .ro, 0, .live, pcw, .any, false, false⟩]⟩,
  ⟨"SAF_FAULT", 0x60008, [], false, true, false, 3, [
    ⟨0, 23, .w1c, 0, .live, pcw, .any, true, false⟩]⟩,
  ⟨"SAF_FIRST", 0x60010, [], false, true, false, 3, [
    ⟨0, 8, .ro, 255, .val, pcw, .any, false, false⟩,
    ⟨16, 16, .ro, 0, .val, pcw, .any, false, false⟩,
    ⟨32, 32, .ro, 0, .val, pcw, .any, false, false⟩]⟩,
  ⟨"SAF_CFG", 0x60018, [], false, true, false, 3, [
    ⟨0, 1, .rw, 0, .image, pcw, .any, false, false⟩]⟩,
  ⟨"SAF_HOLDUP_CFG", 0x60020, [], false, true, false, 3, [
    ⟨0, 16, .rw, 0, .val, pcw, .any, false, false⟩,
    ⟨16, 16, .rw, 0, .val, pcw, .any, false, false⟩]⟩,
  ⟨"SAF_HOLDUP", 0x60028, [], false, true, false, 3, [
    ⟨0, 16, .ro, 0, .val, pcw, .any, false, false⟩,
    ⟨16, 16, .ro, 0, .val, pcw, .any, false, false⟩,
    ⟨32, 24, .ro, 0, .val, pcw, .any, false, false⟩,
    ⟨56, 3, .ro, 0, .val, pcw, .any, false, false⟩]⟩,
  ⟨"SAF_WDT", 0x60040, [(4, 0x8)], false, true, false, 3, [
    ⟨0, 16, .rw, 1000, .val, pcw, .range 100 1000 1, false, false⟩,
    ⟨16, 1, .wo, 0, .val, [], .any, false, false⟩,
    ⟨17, 1, .ro, 0, .live, pcw, .any, false, false⟩]⟩,
  ⟨"SAF_CNT", 0x60100, [(8, 0x8)], true, true, false, 3, [
    ⟨0, 48, .ro, 0, .val, pcw, .any, false, false⟩]⟩]

/-- Block JNL. -/
def regsJnl : List RegDesc := [
  ⟨"JNL_STAT", 0x64000, [], false, true, false, 3, [
    ⟨0, 32, .ro, 0, .flash, pcw, .any, false, false⟩,
    ⟨32, 17, .ro, 0, .live, pcw, .any, false, false⟩,
    ⟨49, 1, .ro, 0, .live, pcw, .any, false, false⟩,
    ⟨50, 1, .ro, 0, .val, pcw, .any, false, false⟩,
    ⟨51, 1, .w1c, 0, .val, pcw, .any, false, false⟩]⟩,
  ⟨"JNL_CFG", 0x64008, [], false, true, false, 3, [
    ⟨0, 17, .rw, 4096, .val, pcw, .range 4096 65536 64, false, false⟩]⟩,
  ⟨"JNL_CNT", 0x64100, [(4, 0x8)], true, true, false, 3, [
    ⟨0, 48, .ro, 0, .val, pcw, .any, false, false⟩]⟩]

/-- Block CON. -/
def regsCon : List RegDesc := [
  ⟨"CON_CFG", 0x6c000, [], false, true, false, 0, [
    ⟨0, 20, .rw, 1000, .val, pcw, .le 1000000, false, false⟩]⟩,
  ⟨"CON_STAT", 0x6c008, [], false, true, false, 0, [
    ⟨0, 1, .w1c, 0, .val, pcw, .any, false, false⟩,
    ⟨1, 1, .w1c, 0, .val, pcw, .any, false, false⟩,
    ⟨2, 1, .w1c, 0, .val, pcw, .any, false, false⟩]⟩,
  ⟨"CON_ERR_ADDR", 0x6c010, [], false, true, false, 0, [
    ⟨0, 9, .ro, 0, .val, pcw, .any, false, false⟩,
    ⟨9, 2, .ro, 0, .val, pcw, .any, false, false⟩,
    ⟨16, 32, .ro, 0, .val, pcw, .any, false, false⟩]⟩,
  ⟨"CON_ERR_CNT", 0x6c018, [], true, true, false, 0, [
    ⟨0, 48, .ro, 0, .val, pcw, .any, false, false⟩]⟩,
  ⟨"CON_REPAIR_CNT", 0x6c020, [], true, true, false, 0, [
    ⟨0, 48, .ro, 0, .val, pcw, .any, false, false⟩]⟩,
  ⟨"CON_UNVER_CNT", 0x6c028, [], true, true, false, 0, [
    ⟨0, 48, .ro, 0, .val, pcw, .any, false, false⟩]⟩,
  ⟨"CON_TBL", 0x6c100, [(257, 0x10)], false, true, false, 0, [
    ⟨0, 32, .rw, 0, .image, pcw, .any, false, false⟩,
    ⟨32, 1, .rw, 0, .val, pcw, .any, false, false⟩,
    ⟨40, 24, .ro, 0, .val, pcw, .any, false, false⟩]⟩,
  ⟨"CON_SHADOW", 0x6c108, [(257, 0x10)], false, true, false, 0, [
    ⟨12, 52, .rw, 0, .val, pcw, .any, false, false⟩]⟩]

/-- Block FRZ. -/
def regsFrz : List RegDesc := [
  ⟨"FRZ_CFG", 0x70000, [], false, true, false, 3, [
    ⟨0, 1, .rw, 0, .val, pcw, .any, false, false⟩,
    ⟨1, 1, .rw, 0, .val, pcw, .any, false, false⟩,
    ⟨2, 1, .rw, 0, .val, pcw, .any, false, false⟩,
    ⟨3, 1, .rw, 0, .val, pcw, .any, false, false⟩,
    ⟨32, 23, .rw, 0, .val, pcw, .any, false, false⟩]⟩,
  ⟨"FRZ_LAST", 0x70010, [], false, true, false, 3, [
    ⟨0, 4, .ro, 0, .val, pc, .any, false, false⟩,
    ⟨4, 9, .ro, 0, .val, pc, .any, false, false⟩,
    ⟨16, 16, .ro, 0, .val, pc, .any, false, false⟩,
    ⟨32, 32, .ro, 0, .val, pc, .any, false, false⟩]⟩]

/-- Block BST. -/
def regsBst : List RegDesc := [
  ⟨"BST_PIPE", 0x78000, [(4, 0x8)], false, true, false, 3, [
    ⟨0, 4, .ro, 15, .live, pcw, .any, false, false⟩,
    ⟨4, 1, .ro, 0, .live, pcw, .any, false, false⟩,
    ⟨16, 16, .ro, 0, .live, pcw, .any, false, false⟩,
    ⟨32, 32, .ro, 0, .live, pcw, .any, false, false⟩]⟩,
  ⟨"BST_ENG", 0x78020, [(4, 0x8)], false, true, false, 3, [
    ⟨0, 4, .ro, 15, .live, pcw, .any, false, false⟩,
    ⟨4, 1, .ro, 0, .live, pcw, .any, false, false⟩,
    ⟨8, 8, .ro, 0, .live, pcw, .any, false, false⟩,
    ⟨16, 16, .ro, 0, .live, pcw, .any, false, false⟩,
    ⟨32, 32, .ro, 0, .live, pcw, .any, false, false⟩]⟩,
  ⟨"BST_ANA", 0x78040, [], false, true, false, 3, [
    ⟨0, 4, .ro, 0, .live, pcw, .any, false, false⟩,
    ⟨4, 4, .ro, 0, .live, pcw, .any, false, false⟩,
    ⟨8, 4, .ro, 0, .live, pcw, .any, false, false⟩,
    ⟨12, 4, .ro, 0, .live, pcw, .any, false, false⟩]⟩,
  ⟨"BST_SCAN", 0x78048, [], false, true, false, 3, [
    ⟨0, 1, .w1s, 0, .val, pcw, .any, true, false⟩,
    ⟨16, 16, .ro, 0, .val, pcw, .any, false, true⟩]⟩]

/-- Block CTR. -/
def regsCtr : List RegDesc := [
  ⟨"CTR_SEL", 0x80000, [(512, 0x8)], false, false, false, 99, [
    ⟨0, 2, .rw, 0, .val, pcw, .any, true, false⟩,
    ⟨8, 25, .rw, 0, .val, pcw, .any, true, false⟩,
    ⟨33, 1, .rw, 0, .val, pcw, .any, true, false⟩,
    ⟨34, 1, .rw, 0, .val, pcw, .any, true, false⟩]⟩,
  ⟨"CTR_VAL", 0x81000, [(512, 0x8)], true, false, false, 99, [
    ⟨0, 48, .rw, 0, .live, pcw, .any, true, false⟩,
    ⟨48, 16, .ro, 0, .live, pcw, .any, false, false⟩]⟩,
  ⟨"CTR_STAT", 0x82000, [], false, false, false, 99, [
    ⟨0, 1, .w1c, 0, .val, pcw, .any, false, false⟩,
    ⟨1, 1, .w1c, 0, .val, pcw, .any, false, false⟩,
    ⟨8, 8, .ro, 0, .val, pcw, .any, false, false⟩]⟩,
  ⟨"CTR_OVF", 0x82040, [(8, 0x8)], false, false, false, 99, [
    ⟨0, 64, .w1c, 0, .val, pcw, .any, false, false⟩]⟩,
  ⟨"CTR_MATCH", 0x82100, [(4, 0x8)], false, false, false, 99, [
    ⟨0, 48, .rw, 0, .val, pcw, .any, false, false⟩,
    ⟨48, 9, .rw, 0, .val, pcw, .any, false, false⟩,
    ⟨57, 1, .rw, 0, .val, pcw, .any, false, false⟩,
    ⟨58, 1, .rw, 0, .val, pcw, .any, false, false⟩,
    ⟨59, 1, .w1c, 0, .val, pcw, .any, false, false⟩]⟩,
  ⟨"CTR_REASON", 0x83000, [(256, 0x8)], true, false, false, 99, [
    ⟨0, 48, .ro, 0, .live, pcw, .any, false, false⟩]⟩,
  ⟨"CTR_USER_EN", 0x83800, [(256, 0x8)], false, false, false, 99, [
    ⟨0, 1, .rw, 0, .val, pcw, .any, false, false⟩,
    ⟨8, 9, .rw, 0, .val, pcw, .any, false, false⟩,
    ⟨32, 9, .rw, 0, .val, pcw, .any, false, false⟩,
    ⟨48, 1, .w1c, 0, .val, pcw, .any, false, false⟩]⟩,
  ⟨"CTR_PORT", 0x84000, [(552, 0x40), (5, 0x8)], true, false, false, 99, [
    ⟨0, 48, .ro, 0, .live, pcw, .any, false, false⟩]⟩]

/-- Block SMP. -/
def regsSmp : List RegDesc := [
  ⟨"SMP_CFG", 0x8e000, [], false, false, false, 99, [
    ⟨0, 12, .rw, 0, .val, pcw, .any, false, false⟩]⟩,
  ⟨"SMP_SEL", 0x8e010, [(4, 0x8)], false, false, false, 99, [
    ⟨0, 1, .rw, 0, .val, pcw, .any, false, false⟩,
    ⟨4, 4, .rw, 0, .val, pcw, .any, false, false⟩,
    ⟨8, 4, .rw, 0, .val, pcw, .any, false, false⟩,
    ⟨16, 14, .rw, 0, .val, pcw, .any, false, false⟩,
    ⟨32, 14, .rw, 0, .val, pcw, .any, false, false⟩,
    ⟨46, 1, .rw, 0, .val, pcw, .any, false, false⟩]⟩,
  ⟨"SMP_STAT", 0x8e040, [], false, false, false, 99, [
    ⟨0, 12, .ro, 0, .live, pcw, .any, false, false⟩,
    ⟨12, 1, .ro, 0, .live, pcw, .any, false, false⟩]⟩,
  ⟨"SMP_CTL", 0x8e048, [], false, false, false, 99, [
    ⟨0, 1, .w1s, 0, .val, pcw, .any, true, false⟩,
    ⟨1, 1, .rw, 0, .val, pcw, .any, false, false⟩]⟩,
  ⟨"SMP_CNT", 0x8e100, [(3, 0x8)], true, false, false, 99, [
    ⟨0, 48, .ro, 0, .val, pcw, .any, false, false⟩]⟩]

/-- Block CLU. -/
def regsClu : List RegDesc := [
  ⟨"CLU_CFG", 0x90000, [], false, true, false, 6, [
    ⟨0, 8, .rw, 10, .val, pcw, .any, false, false⟩,
    ⟨8, 4, .rw, 3, .val, pcw, .any, false, false⟩,
    ⟨16, 16, .rw, 2000, .val, pcw, .zeroOr 1000 65535, false, false⟩,
    ⟨32, 8, .rw, 24, .val, pcw, .any, false, false⟩,
    ⟨48, 16, .rw, 600, .val, pcw, .any, false, false⟩]⟩,
  ⟨"CLU_STAT", 0x90008, [], false, true, false, 6, [
    ⟨0, 2, .ro, 0, .image, pcw, .any, false, false⟩,
    ⟨2, 2, .ro, 0, .image, pcw, .any, false, false⟩,
    ⟨4, 6, .ro, 0, .image, pcw, .any, false, false⟩,
    ⟨10, 4, .ro, 0, .image, pcw, .any, false, false⟩,
    ⟨14, 6, .ro, 0, .live, pcw, .any, false, false⟩,
    ⟨20, 6, .ro, 0, .image, pcw, .any, false, false⟩,
    ⟨26, 1, .ro, 0, .live, pcw, .any, false, false⟩,
    ⟨27, 1, .ro, 0, .live, pcw, .any, false, false⟩,
    ⟨28, 1, .ro, 0, .live, pcw, .any, false, false⟩,
    ⟨29, 1, .w1c, 0, .val, pcw, .any, false, false⟩,
    ⟨32, 32, .ro, 0, .live, pcw, .any, false, false⟩]⟩,
  ⟨"CLU_COMMIT_STAT", 0x90010, [], false, true, false, 6, [
    ⟨0, 3, .ro, 0, .live, pcw, .any, false, false⟩,
    ⟨16, 16, .ro, 0, .val, pcw, .any, false, true⟩,
    ⟨32, 32, .ro, 0, .val, pcw, .any, false, false⟩]⟩,
  ⟨"CLU_COMMIT_ACT", 0x90018, [], false, true, false, 6, [
    ⟨0, 32, .ro, 0, .val, pcw, .any, false, false⟩,
    ⟨32, 32, .ro, 0, .val, pcw, .any, false, false⟩]⟩,
  ⟨"CLU_KEY", 0x90020, [], false, true, false, 6, [
    ⟨0, 8, .ro, 0, .val, pcw, .any, false, false⟩,
    ⟨8, 1, .ro, 0, .live, pcw, .any, false, false⟩,
    ⟨32, 32, .ro, 0, .val, pcw, .any, false, false⟩]⟩,
  ⟨"CLU_CNT", 0x90100, [(11, 0x8)], true, true, false, 6, [
    ⟨0, 48, .ro, 0, .val, pcw, .any, false, false⟩]⟩,
  ⟨"CLU_PEER_ADDR", 0x91000, [(64, 0x40), (2, 0x8)], false, true, false, 6, [
    ⟨0, 64, .rw, 0, .flash, pcw, .any, false, false⟩]⟩,
  ⟨"CLU_PEER", 0x91010, [(64, 0x40)], false, true, false, 6, [
    ⟨0, 48, .rw, 0, .flash, pcw, .any, false, false⟩,
    ⟨48, 10, .rw, 0, .flash, pcw, .any, false, false⟩,
    ⟨58, 1, .rw, 0, .flash, pcw, .any, false, false⟩,
    ⟨59, 2, .ro, 0, .live, pcw, .any, false, false⟩]⟩,
  ⟨"CLU_PEER_BOOT", 0x91018, [(64, 0x40)], false, true, false, 6, [
    ⟨0, 32, .ro, 0, .live, pcw, .any, false, false⟩,
    ⟨32, 32, .ro, 0, .live, pcw, .any, false, false⟩]⟩]

/-- Block IMG. -/
def regsImg : List RegDesc := [
  ⟨"IMG_STAT", 0xa0000, [], false, false, false, 4, [
    ⟨0, 8, .ro, 0, .live, pcw, .any, false, false⟩,
    ⟨8, 8, .ro, 0, .val, pcw, .any, false, false⟩,
    ⟨16, 16, .ro, 0, .val, pcw, .any, false, true⟩,
    ⟨32, 16, .ro, 65535, .val, pcw, .any, false, false⟩,
    ⟨48, 1, .ro, 0, .val, pcw, .any, false, false⟩,
    ⟨49, 1, .ro, 0, .val, pcw, .any, false, false⟩]⟩,
  ⟨"IMG_IMAGE_VER", 0xa0008, [], false, false, false, 4, [
    ⟨0, 32, .ro, 0, .image, pcw, .any, false, false⟩,
    ⟨32, 16, .ro, 0, .image, pcw, .any, false, false⟩,
    ⟨48, 16, .ro, 0, .image, pcw, .any, false, false⟩]⟩,
  ⟨"IMG_LINEAGE", 0xa0010, [], false, false, false, 4, [
    ⟨0, 64, .ro, 0, .image, pcw, .any, false, false⟩]⟩,
  ⟨"IMG_FUSE", 0xa0018, [], false, false, false, 4, [
    ⟨0, 7, .ro, 0, .fuse, [], .any, false, false⟩,
    ⟨8, 1, .ro, 0, .fuse, [], .any, false, false⟩,
    ⟨9, 1, .ro, 0, .fuse, [], .any, false, false⟩]⟩,
  ⟨"IMG_BOOT", 0xa0020, [], false, true, false, 4, [
    ⟨0, 1, .rw, 0, .flash, pc, .any, false, false⟩,
    ⟨1, 1, .rw, 0, .flash, pc, .any, false, false⟩]⟩,
  ⟨"IMG_REGION_VER", 0xa0100, [(256, 0x8)], false, false, false, 4, [
    ⟨0, 32, .ro, 0, .image, pcw, .any, false, false⟩,
    ⟨32, 1, .ro, 0, .image, pcw, .any, false, false⟩,
    ⟨33, 1, .ro, 0, .live, pcw, .any, false, false⟩]⟩]

/-- Block HBM. -/
def regsHbm : List RegDesc := [
  ⟨"HBM_ID", 0x100000, [(4, 0x40000)], false, true, false, 3, [
    ⟨0, 1, .ro, 0, .live, pc, .any, false, false⟩,
    ⟨1, 1, .ro, 0, .live, pc, .any, false, false⟩,
    ⟨2, 1, .ro, 0, .live, pc, .any, false, false⟩,
    ⟨8, 2, .ro, 0, .live, pc, .any, false, false⟩,
    ⟨16, 16, .ro, 0, .live, pc, .any, false, false⟩]⟩,
  ⟨"HBM_STAT", 0x100008, [(4, 0x40000)], false, true, false, 3, [
    ⟨0, 3, .ro, 0, .live, pcwd, .any, false, false⟩,
    ⟨3, 5, .ro, 0, .val, pcwd, .any, false, false⟩,
    ⟨8, 2, .ro, 0, .live, pcwd, .any, false, false⟩,
    ⟨10, 1, .ro, 0, .live, pcwd, .any, false, false⟩,
    ⟨11, 2, .ro, 0, .live, [], .any, false, false⟩,
    ⟨13, 1, .ro, 0, .live, [], .any, false, false⟩]⟩,
  ⟨"HBM_THERM", 0x100010, [(4, 0x40000)], false, true, false, 3, [
    ⟨0, 8, .ro, 0, .live, [], .any, false, false⟩,
    ⟨8, 1, .ro, 0, .live, pcwd, .any, false, false⟩,
    ⟨16, 8, .rw, 95, .val, pcw, .any, false, false⟩]⟩,
  ⟨"HBM_HINT_CFG", 0x100018, [(4, 0x40000)], false, true, false, 3, [
    ⟨0, 2, .rw, 1, .val, pcw, .any, false, false⟩,
    ⟨2, 2, .rw, 3, .val, pcw, .any, false, false⟩,
    ⟨4, 2, .rw, 2, .val, pcw, .any, false, false⟩,
    ⟨16, 16, .rw, 200, .val, pcw, .any, false, false⟩]⟩,
  ⟨"HBM_TRAIN_CFG", 0x100020, [(4, 0x40000)], false, true, false, 3, [
    ⟨0, 16, .rw, 100, .val, pcw, .any, false, false⟩,
    ⟨16, 8, .rw, 10, .val, pcw, .any, false, false⟩]⟩,
  ⟨"HBM_RATE", 0x100028, [(4, 0x40000)], false, true, false, 3, [
    ⟨0, 2, .rw, 2, .val, pcw, .any, false, false⟩,
    ⟨2, 1, .w1s, 0, .val, pcwd, .any, true, false⟩,
    ⟨3, 1, .ro, 0, .live, pcwd, .any, false, false⟩,
    ⟨16, 16, .ro, 0, .val, pcwd, .any, false, true⟩]⟩,
  ⟨"HBM_SPARE_CFG", 0x100030, [(4, 0x40000)], false, true, false, 3, [
    ⟨0, 16, .rw, 16, .val, pcw, .any, false, false⟩,
    ⟨16, 16, .rw, 1000, .val, pcw, .any, false, false⟩,
    ⟨32, 1, .rw, 1, .val, pcw, .any, false, false⟩]⟩,
  ⟨"HBM_MIG_STAT", 0x100038, [(4, 0x40000)], false, true, false, 3, [
    ⟨0, 6, .ro, 0, .live, pcwd, .any, false, false⟩,
    ⟨6, 6, .ro, 0, .live, pcwd, .any, false, false⟩,
    ⟨16, 21, .ro, 0, .live, pcwd, .any, false, false⟩]⟩,
  ⟨"HBM_ERR_STAT", 0x100040, [(4, 0x40000)], false, true, false, 3, [
    ⟨0, 6, .ro, 0, .val, pc, .any, false, false⟩,
    ⟨6, 1, .w1c, 0, .val, pc, .any, false, false⟩]⟩,
  ⟨"HBM_MAP", 0x100100, [(4, 0x40000), (8, 0x8)], false, true, false, 3, [
    ⟨0, 16, .ro, 0, .image, pcw, .any, false, false⟩,
    ⟨32, 16, .ro, 0, .image, pcw, .any, false, false⟩]⟩,
  ⟨"HBM_PC", 0x100200, [(4, 0x40000), (64, 0x8)], false, true, false, 3, [
    ⟨0, 3, .ro, 0, .flash, pc, .any, false, false⟩,
    ⟨8, 6, .ro, 0, .flash, pc, .any, false, false⟩]⟩,
  ⟨"HBM_CNT", 0x100400, [(4, 0x40000), (12, 0x8)], true, true, false, 3, [
    ⟨0, 48, .ro, 0, .val, pcw, .any, false, false⟩]⟩,
  ⟨"HBM_ERR", 0x101000, [(4, 0x40000), (64, 0x20), (4, 0x8)], true, true, false, 3, [
    ⟨0, 64, .ro, 0, .val, pc, .any, false, false⟩]⟩]

/-- Block PRS. -/
def regsPrs : List RegDesc := [
  ⟨"PRS_CFG", 0x1000000, [(4, 0x1000000), (9, 0x20000)], false, false, false, 0, [
    ⟨0, 8, .ro, 0, .image, pcw, .any, false, false⟩,
    ⟨8, 8, .ro, 0, .image, pcw, .any, false, false⟩,
    ⟨16, 8, .ro, 0, .image, pcw, .any, false, false⟩,
    ⟨24, 9, .ro, 0, .image, pcw, .any, false, false⟩]⟩,
  ⟨"PRS_TRUNC_CNT", 0x1000008, [(4, 0x1000000), (9, 0x20000)], true, false, false, 0, [
    ⟨0, 48, .ro, 0, .val, pcwd, .any, false, false⟩]⟩,
  ⟨"PRS_LENERR_CNT", 0x1000010, [(4, 0x1000000), (9, 0x20000)], true, false, false, 0, [
    ⟨0, 48, .ro, 0, .val, pcwd, .any, false, false⟩]⟩]

/-- Block CMS. -/
def regsCms : List RegDesc := [
  ⟨"CMS_CFG", 0x1200000, [(4, 0x1000000)], false, true, false, 0, [
    ⟨0, 8, .rw, 0, .image, pcw, .neq 1, false, false⟩]⟩,
  ⟨"CMS_STAT", 0x1200008, [(4, 0x1000000)], false, false, false, 0, [
    ⟨0, 1, .ro, 0, .live, pcw, .any, false, false⟩,
    ⟨1, 1, .ro, 0, .live, pcw, .any, false, false⟩,
    ⟨2, 1, .w1c, 0, .val, pcw, .any, false, false⟩]⟩,
  ⟨"CMS_ERR_ADDR", 0x1200010, [(4, 0x1000000)], false, false, false, 0, [
    ⟨0, 5, .ro, 0, .val, pcw, .any, false, false⟩,
    ⟨8, 12, .ro, 0, .val, pcw, .any, false, false⟩]⟩,
  ⟨"CMS_MOVE_CNT", 0x1200018, [(4, 0x1000000)], true, false, false, 0, [
    ⟨0, 48, .ro, 0, .val, pcw, .any, false, false⟩]⟩,
  ⟨"CMS_NOROOM_CNT", 0x1200020, [(4, 0x1000000)], true, false, false, 0, [
    ⟨0, 48, .ro, 0, .val, pcw, .any, false, false⟩]⟩,
  ⟨"CMS_BANK", 0x1200100, [(4, 0x1000000), (32, 0x8)], false, false, false, 0, [
    ⟨0, 16, .ro, 0, .image, pcw, .any, false, false⟩,
    ⟨16, 2, .ro, 0, .image, pcw, .any, false, false⟩,
    ⟨18, 2, .ro, 0, .image, pcw, .any, false, false⟩,
    ⟨32, 13, .ro, 0, .live, pcw, .any, false, false⟩]⟩,
  ⟨"CMS_SEARCH_CNT", 0x1200200, [(4, 0x1000000), (32, 0x8)], true, false, false, 0, [
    ⟨0, 48, .ro, 0, .val, pcw, .any, false, false⟩]⟩]

/-- Block FWD. -/
def regsFwd : List RegDesc := [
  ⟨"FWD_CFG", 0x1300000, [(4, 0x1000000)], false, true, true, 0, [
    ⟨0, 3, .rw, 3, .val, pcw, .le 4, false, false⟩,
    ⟨8, 16, .rw, 64, .val, pcw, .any, false, false⟩]⟩,
  ⟨"FWD_MOVE_CFG", 0x1300008, [(4, 0x1000000)], false, true, true, 0, [
    ⟨0, 24, .rw, 1000, .val, pcw, .any, false, false⟩,
    ⟨32, 16, .rw, 10, .val, pcw, .any, false, false⟩,
    ⟨48, 4, .rw, 3, .val, pcw, .any, false, false⟩]⟩,
  ⟨"FWD_STAT", 0x1300010, [(4, 0x1000000)], false, true, true, 0, [
    ⟨0, 1, .w1c, 0, .val, pcw, .any, false, false⟩]⟩,
  ⟨"FWD_SEC", 0x1300018, [(4, 0x1000000)], false, true, true, 0, [
    ⟨0, 16, .ro, 0, .live, pcw, .any, false, false⟩]⟩,
  ⟨"FWD_WIT_SEQ", 0x1300020, [(4, 0x1000000)], false, true, true, 0, [
    ⟨0, 64, .ro, 0, .live, pcw, .any, false, false⟩]⟩,
  ⟨"FWD_PORT", 0x1301000, [(4, 0x1000000), (128, 0x8)], false, true, false, 0, [
    ⟨0, 16, .rw, 0, .val, pcw, .any, false, false⟩,
    ⟨16, 1, .rw, 0, .val, pcw, .any, false, false⟩,
    ⟨32, 16, .ro, 0, .live, pcw, .any, false, false⟩]⟩,
  ⟨"FWD_TBL_STAT", 0x1302000, [(4, 0x1000000), (256, 0x20)], false, true, true, 0, [
    ⟨0, 24, .ro, 0, .live, pcw, .any, false, false⟩,
    ⟨32, 1, .ro, 0, .live, pcw, .any, false, false⟩,
    ⟨33, 1, .w1c, 0, .val, pcw, .any, false, false⟩]⟩,
  ⟨"FWD_TBL_SEQ", 0x1302008, [(4, 0x1000000), (256, 0x20)], false, true, true, 0, [
    ⟨0, 64, .ro, 0, .live, pcw, .any, false, false⟩]⟩,
  ⟨"FWD_TBL_AGE", 0x1302010, [(4, 0x1000000), (256, 0x20)], false, true, true, 0, [
    ⟨0, 32, .rw, 0, .image, pcw, .le 16383000, false, false⟩]⟩,
  ⟨"FWD_TBL_OVF", 0x1302018, [(4, 0x1000000), (256, 0x20)], false, true, false, 0, [
    ⟨0, 13, .ro, 0, .live, pcw, .any, false, false⟩]⟩,
  ⟨"FWD_TBL_CNT", 0x1304000, [(4, 0x1000000), (256, 0x80), (10, 0x8)], true, true, true, 0, [
    ⟨0, 48, .ro, 0, .val, pcw, .any, false, false⟩]⟩]

/-- Block FLT. -/
def regsFlt : List RegDesc := [
  ⟨"FLT_CFG", 0x1400000, [(4, 0x1000000)], false, true, false, 1, [
    ⟨0, 5, .ro, 0, .image, pcw, .any, false, false⟩,
    ⟨8, 2, .rw, 0, .image, pcw, .le 2, false, false⟩,
    ⟨16, 2, .ro, 0, .image, pcw, .any, false, false⟩,
    ⟨18, 1, .ro, 0, .image, pcw, .any, false, false⟩]⟩,
  ⟨"FLT_SEED_A", 0x1400008, [(4, 0x1000000)], false, true, false, 1, [
    ⟨0, 32, .ro, 0, .image, pcw, .any, false, false⟩,
    ⟨32, 32, .ro, 0, .image, pcw, .any, false, false⟩]⟩,
  ⟨"FLT_SEED_B", 0x1400010, [(4, 0x1000000)], false, true, false, 1, [
    ⟨0, 32, .ro, 0, .image, pcw, .any, false, false⟩,
    ⟨32, 32, .ro, 0, .image, pcw, .any, false, false⟩]⟩,
  ⟨"FLT_BUDGET", 0x1400018, [(4, 0x1000000)], false, true, false, 1, [
    ⟨0, 10, .rw, 0, .image, pcw, .le 600, false, false⟩,
    ⟨16, 8, .rw, 0, .image, pcw, .le 250, false, false⟩]⟩,
  ⟨"FLT_SETUP_CFG", 0x1400020, [(4, 0x1000000)], false, true, false, 1, [
    ⟨0, 4, .rw, 0, .image, pcw, .le 10, false, false⟩]⟩,
  ⟨"FLT_STAT", 0x1400028, [(4, 0x1000000)], false, true, false, 1, [
    ⟨0, 17, .ro, 0, .live, pcw, .any, false, false⟩,
    ⟨32, 18, .ro, 0, .live, pcw, .any, false, false⟩]⟩,
  ⟨"FLT_PIN_STAT", 0x1400030, [(4, 0x1000000)], false, true, false, 1, [
    ⟨0, 19, .ro, 0, .live, pcw, .any, false, false⟩,
    ⟨32, 19, .ro, 0, .image, pcw, .any, false, false⟩]⟩,
  ⟨"FLT_AGE_CFG", 0x1400038, [(4, 0x1000000)], false, true, false, 1, [
    ⟨0, 13, .rw, 0, .image, pcw, .le 4096, false, false⟩]⟩,
  ⟨"FLT_AGE_STAT", 0x1400040, [(4, 0x1000000)], false, true, false, 1, [
    ⟨0, 1, .w1c, 0, .val, pcw, .any, false, false⟩,
    ⟨32, 32, .ro, 0, .val, pcw, .any, false, false⟩]⟩,
  ⟨"FLT_TICK", 0x1400048, [(4, 0x1000000)], false, true, false, 1, [
    ⟨0, 24, .ro, 0, .live, pcw, .any, false, false⟩]⟩,
  ⟨"FLT_QUAR_STAT", 0x1400050, [(4, 0x1000000)], false, true, false, 1, [
    ⟨0, 7, .ro, 0, .live, pcw, .any, false, false⟩,
    ⟨7, 1, .w1c, 0, .val, pcw, .any, false, false⟩]⟩,
  ⟨"FLT_QUAR", 0x1400100, [(4, 0x1000000), (64, 0x8)], false, true, false, 1, [
    ⟨0, 25, .ro, 0, .val, pcw, .any, false, false⟩,
    ⟨63, 1, .ro, 0, .live, pcw, .any, false, false⟩]⟩,
  ⟨"FLT_TIMEOUT", 0x1400300, [(4, 0x1000000), (16, 0x8)], false, true, false, 1, [
    ⟨0, 23, .rw, 0, .image, pcw, .any, false, false⟩]⟩,
  ⟨"FLT_CNT", 0x1400400, [(4, 0x1000000), (16, 0x8)], true, true, false, 1, [
    ⟨0, 48, .ro, 0, .val, pcw, .any, false, false⟩]⟩,
  ⟨"FLT_CT_CFG", 0x1401000, [(4, 0x1000000)], false, true, true, 1, [
    ⟨0, 1, .rw, 0, .val, pcw, .any, false, false⟩,
    ⟨1, 1, .rw, 1, .val, pcw, .any, false, false⟩]⟩,
  ⟨"FLT_TEL_CFG", 0x1401008, [(4, 0x1000000)], false, true, true, 1, [
    ⟨0, 4, .rw, 7, .val, pcw, .any, false, false⟩,
    ⟨8, 20, .rw, 1000, .val, pcw, .any, false, false⟩,
    ⟨32, 1, .rw, 0, .val, pcw, .any, false, false⟩,
    ⟨33, 1, .rw, 0, .val, pcw, .any, false, false⟩,
    ⟨40, 16, .rw, 0, .val, pcw, .any, false, false⟩,
    ⟨56, 8, .rw, 60, .val, pcw, .any, false, false⟩]⟩,
  ⟨"FLT_TEL_PORT", 0x1401010, [(4, 0x1000000)], false, true, true, 1, [
    ⟨0, 10, .rw, 0, .val, pcw, .any, false, false⟩,
    ⟨16, 21, .rw, 0, .val, pcw, .any, false, false⟩,
    ⟨40, 14, .rw, 1500, .val, pcw, .any, false, false⟩]⟩,
  ⟨"FLT_TEL_HDR_CFG", 0x1401018, [(4, 0x1000000)], false, true, true, 1, [
    ⟨0, 7, .rw, 0, .val, pcw, .any, false, false⟩,
    ⟨7, 1, .rw, 0, .val, pcw, .any, false, false⟩,
    ⟨8, 8, .rw, 14, .val, pcw, .any, false, false⟩,
    ⟨16, 32, .rw, 0, .val, pcw, .any, false, false⟩]⟩,
  ⟨"FLT_TEL_HDR", 0x1401040, [(4, 0x1000000), (8, 0x8)], false, true, true, 1, [
    ⟨0, 64, .rw, 0, .val, pcw, .any, false, false⟩]⟩,
  ⟨"FLT_TEL_SEQ", 0x1401080, [(4, 0x1000000)], false, true, false, 1, [
    ⟨0, 32, .ro, 0, .live, pcw, .any, false, false⟩]⟩,
  ⟨"FLT_SVC_CNT", 0x1401100, [(4, 0x1000000), (16, 0x8)], true, true, false, 1, [
    ⟨0, 48, .ro, 0, .val, pcw, .any, false, false⟩]⟩,
  ⟨"FLT_FRAG_STAT", 0x1408000, [(4, 0x1000000)], false, false, false, 1, [
    ⟨0, 15, .ro, 0, .live, pcw, .any, false, false⟩]⟩,
  ⟨"FLT_FRAG_FAIL_CNT", 0x1408008, [(4, 0x1000000)], true, false, false, 1, [
    ⟨0, 48, .ro, 0, .val, pcw, .any, false, false⟩]⟩,
  ⟨"FLT_FRAG_DEFAULT_CNT", 0x1408010, [(4, 0x1000000)], true, false, false, 1, [
    ⟨0, 48, .ro, 0, .val, pcw, .any, false, false⟩]⟩]

/-- Block ENG. -/
def regsEng : List RegDesc := [
  ⟨"ENG_UCODE_VER", 0x1500000, [(4, 0x1000000), (8, 0x2000)], false, true, false, 1, [
    ⟨0, 32, .ro, 0, .image, pcw, .any, false, false⟩,
    ⟨32, 3, .ro, 0, .image, pcw, .any, false, false⟩,
    ⟨35, 1, .ro, 0, .image, pcw, .any, false, false⟩]⟩,
  ⟨"ENG_GRP_STAT", 0x1500008, [(4, 0x1000000), (8, 0x2000)], false, true, false, 1, [
    ⟨0, 3, .ro, 0, .image, pcwd, .any, false, false⟩,
    ⟨4, 2, .ro, 0, .live, pcw, .any, false, false⟩,
    ⟨6, 1, .ro, 0, .image, pcw, .any, false, false⟩,
    ⟨8, 7, .ro, 0, .live, pcwd, .any, false, false⟩,
    ⟨16, 16, .ro, 0, .val, pcwd, .any, false, true⟩]⟩,
  ⟨"ENG_GRP_CTL", 0x1500010, [(4, 0x1000000), (8, 0x2000)], false, true, false, 1, [
    ⟨0, 1, .w1s, 0, .val, pcwd, .any, true, false⟩,
    ⟨1, 1, .w1s, 0, .val, pcwd, .any, true, false⟩,
    ⟨2, 1, .w1s, 0, .val, pcwd, .any, true, false⟩,
    ⟨3, 1, .w1s, 0, .val, pcwd, .any, true, false⟩,
    ⟨8, 3, .rw, 0, .val, pcwd, .any, false, false⟩]⟩,
  ⟨"ENG_INT", 0x1500018, [(4, 0x1000000), (8, 0x2000)], false, true, false, 1, [
    ⟨0, 6, .rw, 0, .val, pcwd, .any, false, false⟩,
    ⟨8, 8, .rw, 0, .val, pcwd, .any, false, false⟩,
    ⟨16, 1, .w1s, 0, .val, pcwd, .any, true, false⟩]⟩,
  ⟨"ENG_CNT", 0x1500100, [(4, 0x1000000), (8, 0x2000), (8, 0x8)], true, true, false, 1, [
    ⟨0, 48, .ro, 0, .val, pcwd, .any, false, false⟩]⟩]

/-- Block TSK. -/
def regsTsk : List RegDesc := [
  ⟨"TSK_DISP_STAT", 0x1500020, [(4, 0x1000000), (8, 0x2000)], false, true, false, 1, [
    ⟨0, 11, .ro, 0, .live, pcwd, .any, false, false⟩,
    ⟨16, 17, .ro, 0, .live, pcwd, .any, false, false⟩]⟩,
  ⟨"TSK_FLAG_CFG", 0x1500028, [(4, 0x1000000), (8, 0x2000)], false, true, false, 1, [
    ⟨0, 16, .rw, 0, .val, pcwd, .any, false, false⟩]⟩,
  ⟨"TSK_FLAG", 0x1500200, [(4, 0x1000000), (8, 0x2000), (64, 0x8)], false, true, false, 1, [
    ⟨0, 32, .w1s, 0, .live, pcwd, .any, true, false⟩,
    ⟨32, 32, .rw, 0, .image, pcwd, .any, false, false⟩]⟩,
  ⟨"TSK_POST", 0x1500400, [(4, 0x1000000), (8, 0x2000), (4, 0x8)], false, true, false, 1, [
    ⟨0, 64, .rw, 0, .val, pcwd, .any, false, false⟩]⟩,
  ⟨"TSK_POST_CTL", 0x1500420, [(4, 0x1000000), (8, 0x2000)], false, true, false, 1, [
    ⟨0, 1, .w1s, 0, .val, pcwd, .any, true, false⟩,
    ⟨16, 16, .ro, 0, .val, pcwd, .any, false, true⟩]⟩,
  ⟨"TSK_REL_STAT", 0x15f0000, [(4, 0x1000000)], false, true, false, 1, [
    ⟨0, 17, .ro, 0, .live, pcw, .any, false, false⟩,
    ⟨32, 9, .ro, 0, .live, pcw, .any, false, false⟩]⟩,
  ⟨"TSK_DOM_SEL", 0x15f0008, [(4, 0x1000000)], false, true, false, 1, [
    ⟨0, 16, .rw, 0, .val, pcw, .any, false, false⟩]⟩,
  ⟨"TSK_DOM_STAT", 0x15f0010, [(4, 0x1000000)], false, true, false, 1, [
    ⟨0, 16, .ro, 0, .live, pcw, .any, false, false⟩,
    ⟨16, 16, .ro, 0, .live, pcw, .any, false, false⟩,
    ⟨32, 11, .ro, 0, .live, pcw, .any, false, false⟩]⟩,
  ⟨"TSK_CANCEL", 0x15f0018, [(4, 0x1000000)], false, true, false, 1, [
    ⟨0, 16, .rw, 0, .val, pcw, .any, false, false⟩,
    ⟨16, 16, .rw, 0, .val, pcw, .any, false, false⟩,
    ⟨32, 1, .w1s, 0, .val, pcw, .any, true, false⟩,
    ⟨48, 16, .ro, 0, .val, pcw, .any, false, true⟩]⟩,
  ⟨"TSK_CNT", 0x15f0100, [(4, 0x1000000), (4, 0x8)], true, true, false, 1, [
    ⟨0, 48, .ro, 0, .val, pcw, .any, false, false⟩]⟩]

/-- Block CEL. -/
def regsCel : List RegDesc := [
  ⟨"CEL_CFG", 0x1600000, [(4, 0x1000000)], false, true, false, 0, [
    ⟨0, 20, .rw, 5120, .val, pcw, .any, false, false⟩]⟩,
  ⟨"CEL_STAT", 0x1600008, [(4, 0x1000000)], false, true, false, 0, [
    ⟨0, 19, .ro, 0, .live, [], .any, false, false⟩,
    ⟨32, 26, .ro, 0, .live, [], .any, false, false⟩]⟩,
  ⟨"CEL_CLASS", 0x1600020, [(4, 0x1000000), (4, 0x8)], false, true, false, 0, [
    ⟨0, 19, .rw, 262144, .val, pcw, .any, false, false⟩,
    ⟨19, 1, .rw, 0, .val, pcw, .any, false, false⟩,
    ⟨32, 19, .ro, 0, .live, pcw, .any, false, false⟩]⟩,
  ⟨"CEL_PCP_MAP", 0x1600100, [(4, 0x1000000), (128, 0x8)], false, true, false, 0, [
    ⟨0, 16, .rw, 0, .val, pcw, .any, false, false⟩,
    ⟨16, 2, .rw, 0, .val, pcw, .any, false, false⟩]⟩,
  ⟨"CEL_FREE", 0x1600500, [(4, 0x1000000)], false, true, false, 0, [
    ⟨0, 28, .rw, 0, .val, pcw, .any, false, false⟩,
    ⟨32, 1, .w1s, 0, .val, pcw, .any, true, false⟩,
    ⟨48, 16, .ro, 0, .val, pcw, .any, false, true⟩]⟩,
  ⟨"CEL_CNT", 0x1600580, [(4, 0x1000000), (12, 0x8)], true, true, false, 0, [
    ⟨0, 48, .ro, 0, .val, pcw, .any, false, false⟩]⟩,
  ⟨"CEL_OWNER", 0x1601000, [(4, 0x1000000), (2212, 0x8)], false, true, false, 0, [
    ⟨0, 27, .rw, 0, .image, pcw, .any, false, false⟩,
    ⟨32, 27, .rw, 0, .image, pcw, .any, false, false⟩]⟩,
  ⟨"CEL_OWNER_CNT", 0x1606000, [(4, 0x1000000), (2212, 0x8)], false, true, false, 0, [
    ⟨0, 27, .ro, 0, .live, pcw, .any, false, false⟩]⟩]

/-- Block QUE. -/
def regsQue : List RegDesc := [
  ⟨"QUE_PG", 0x1700000, [(4, 0x1000000), (16, 0x8)], false, true, false, 0, [
    ⟨0, 21, .ro, 0, .image, pcw, .any, false, false⟩,
    ⟨32, 22, .ro, 0, .image, pcw, .any, false, false⟩]⟩,
  ⟨"QUE_PG_STAT", 0x1700080, [(4, 0x1000000), (16, 0x8)], false, true, false, 0, [
    ⟨0, 1, .ro, 0, .live, pcw, .any, false, false⟩]⟩,
  ⟨"QUE_MIRROR", 0x1700108, [(4, 0x1000000), (7, 0x8)], false, true, true, 0, [
    ⟨0, 10, .rw, 0, .val, pcw, .any, false, false⟩,
    ⟨10, 21, .rw, 0, .val, pcw, .any, false, false⟩,
    ⟨32, 14, .rw, 0, .val, pcw, .any, false, false⟩]⟩,
  ⟨"QUE_CNT", 0x1700200, [(4, 0x1000000), (8, 0x8)], true, true, false, 0, [
    ⟨0, 48, .ro, 0, .val, pcw, .any, false, false⟩]⟩]

/-- Block SHT. -/
def regsSht : List RegDesc := [
  ⟨"SHT_PORT_CFG", 0x1800000, [(4, 0x1000000), (128, 0x40)], false, true, false, 2, [
    ⟨0, 32, .ro, 0, .image, pcw, .any, false, false⟩,
    ⟨32, 16, .ro, 0, .image, pcw, .any, false, false⟩,
    ⟨48, 11, .ro, 0, .image, pcw, .any, false, false⟩]⟩,
  ⟨"SHT_PORT_BASE", 0x1800008, [(4, 0x1000000), (128, 0x40)], false, true, false, 2, [
    ⟨0, 32, .rw, 0, .val, pcw, .any, true, false⟩,
    ⟨32, 1, .rw, 0, .val, pcw, .any, true, false⟩]⟩,
  ⟨"SHT_PORT_STAT", 0x1800010, [(4, 0x1000000), (128, 0x40)], false, true, false, 2, [
    ⟨0, 10, .ro, 0, .live, pcw, .any, false, false⟩,
    ⟨10, 1, .w1c, 0, .val, pcw, .any, false, false⟩,
    ⟨16, 16, .ro, 0, .live, [], .any, false, false⟩,
    ⟨32, 32, .ro, 0, .live, pcw, .any, false, false⟩]⟩,
  ⟨"SHT_PORT_PEND", 0x1800018, [(4, 0x1000000), (128, 0x40)], false, true, false, 2, [
    ⟨0, 1, .ro, 0, .live, pcw, .any, false, false⟩,
    ⟨32, 32, .ro, 0, .live, pcw, .any, false, false⟩]⟩,
  ⟨"SHT_RSV_STAT", 0x1802000, [(4, 0x1000000)], false, true, false, 2, [
    ⟨0, 15, .ro, 0, .live, pcw, .any, false, false⟩]⟩,
  ⟨"SHT_CNT", 0x1802100, [(4, 0x1000000), (8, 0x8)], true, true, false, 2, [
    ⟨0, 48, .ro, 0, .val, pcw, .any, false, false⟩]⟩]

/-- Every register of the device. -/
def regTable : List RegDesc :=
  regsId ++
  regsFab ++
  regsMac ++
  regsHif ++
  regsMod ++
  regsStg ++
  regsPwr ++
  regsMbx ++
  regsLck ++
  regsKey ++
  regsCip ++
  regsSig ++
  regsTim ++
  regsSaf ++
  regsJnl ++
  regsCon ++
  regsFrz ++
  regsBst ++
  regsCtr ++
  regsSmp ++
  regsClu ++
  regsImg ++
  regsHbm ++
  regsPrs ++
  regsCms ++
  regsFwd ++
  regsFlt ++
  regsEng ++
  regsTsk ++
  regsCel ++
  regsQue ++
  regsSht

end Sys2Proof.Machine
end

