-- ==== Sys2Proof/Machine/State.lean ====
section
/-!
DEFINITION. The state of the block, its faults and refusals, and the state after reset.
-/

namespace Sys2Proof.Machine

open Sys2Proof

/-- The block. Register fields live in `regs`, keyed by 64 × address + low bit; a field that is not
listed holds its reset value. Fields that show a status code live in `stats` under the same key. -/
structure State where
  regs : NMap Nat
  stats : NMap Status
  /-- Values of the fields that the boot flash restores (R17, R431). -/
  flashRegs : NMap Nat
  host : HostS
  saf : SafeS
  ctr : CtrS
  cel : CelS
  tim : TimS
  fuse : FuseS
  img : ImgS
  mod : ModS
  pipe : PipeS
  keys : KeyS
  take : TakeS
  tab : TabS
  hbm : HbmS
  flo : FloS
  eng : EngS
  clu : ClusterS
  /-- What has left the device, oldest first (the model's own record, log 6). -/
  sent : List Sent
  /-- Free values consumed so far (the model's own counter, log 2). -/
  fresh : Nat
  /-- Commands waiting, first in, first out. -/
  pending : List Instr
  deriving DecidableEq, Repr

/-- No fault of the block: every command and event has an effect or none (log 1). -/
inductive Fault where
  /-- Raised by no meaning; a closed reason type needs one constructor. Safe. -/
  | none
  deriving DecidableEq, Repr

/-- Why a command has no meaning. -/
inductive Refusal where
  /-- Raised by exec's arm of a row whose meaning is not written. Safe. -/
  | notModelled (mnemonic : String)
  deriving DecidableEq, Repr

/-! ### The machine right after reset (R17, R395, R402): one piece per chapter -/

/-- Chapter 12: no latch, session, nonce, mailbox or ring; the PCIe link is down. -/
def HostS.reset : HostS :=
  ⟨[], [], [], [], [], [], 0, [], [], .down, false, false, [], [], [], false, [], [], []⟩

/-- Chapter 16: no standing condition; FAULT_N asserted by the AON driver (R421); an empty journal. -/
def SafeS.reset : SafeS :=
  ⟨[], false, [], [], [], false, 0, true, false, 0, none, false, [], [], [], [], 0, false, [], []⟩

/-- Chapter 17. -/
def CtrS.reset : CtrS := ⟨[], [], [], [], 0, none, none, 0, false, 0, false, false, .idcode, [], none⟩

/-- Chapter 9: no cell is in use. -/
def CelS.reset : CelS := ⟨[], [], [], [], [], [], [], [], [], [], [], [], [], []⟩

/-- Chapter 10: no list, no reservation, no record; TIM_UPTIME 0. -/
def TimS.reset : TimS := ⟨0, none, 0, [], [], [], [], [], [], [], false⟩

/-- Chapter 2: blank flash and nothing running. -/
def ImgS.reset : ImgS := ⟨[], [], none, none, [], none, 0, false, none, false, none, []⟩

/-- Chapter 15: a reset sequence waits for the fuses (R395 step 1). -/
def ModS.reset : ModS :=
  ⟨.fuses, 1, false, false, 0, false, [], [], false, none, none, [], [], none, [], false, [], [], none, 0, 0⟩

/-- Chapter 1. -/
def PipeS.reset : PipeS := ⟨[], [], [], [], [], [], []⟩

/-- Chapter 13: every slot empty. -/
def KeyS.reset : KeyS := ⟨[], [], [], [], [], [], 0, none, none⟩

/-- Chapter 3. -/
def TakeS.reset : TakeS := ⟨none, none, none, false, false⟩

/-- Chapters 4 and 5. -/
def TabS.reset : TabS := ⟨[], [], [], [], [], [], [], [], [], [], [], [], [], [], [], [], [], [], [], []⟩

/-- Chapter 11: no byte of HBM differs from 0 (log 8). -/
def HbmS.reset : HbmS := ⟨[], [], [], [], [], [], [], [], [], [], [], [], [], [], [], []⟩

/-- Chapters 6 and 7. -/
def FloS.reset : FloS :=
  ⟨[], [], 0, [], [], [], [], [], [], [], [], [], [], [], [], [], [], [], [], [], [], []⟩

/-- Chapter 8. -/
def EngS.reset : EngS := ⟨[], [], [], [], [], [], 0, [], [], [], [], [], [], [], [], [], []⟩

/-- Chapter 14. -/
def ClusterS.reset : ClusterS := ⟨[], 0, 0, none, [], [], [], [], [], 0, [], []⟩

/-- One-time programmed contents of a part as it is made: blank, SK10240-C (log 7). -/
def FuseS.blank : FuseS := ⟨false, [], [], none, none⟩

/-- The block right after a power-on reset (R17, R395 step 1, R402): MODE is RESET, SAFE_N is asserted, no
register differs from its reset value, and the cause is power-on. -/
def State.reset : State :=
  { regs := [(64 * 0x10000, 1)], stats := [], flashRegs := [], host := .reset, saf := .reset, ctr := .reset,
    cel := .reset, tim := .reset, fuse := .blank, img := .reset, mod := .reset, pipe := .reset, keys := .reset,
    take := .reset, tab := .reset, hbm := .reset, flo := .reset, eng := .reset, clu := .reset, sent := [],
    fresh := 0, pending := [] }

/-- The outcome of a meaning. -/
abbrev Res := Host.Outcome State Fault Refusal

end Sys2Proof.Machine
end

