-- ==== Sys2Proof/Machine/Ops.lean ====
section
/-!
DEFINITION. The shared operations: register fields, counters, the mode, notifications, the event
ring, and the journal.
-/

namespace Sys2Proof.Machine

open Sys2Proof

/-! ### Register fields -/

/-- The key of a field in `regs` and `stats`. -/
def fkey (f : Fld) : Nat := 64 * f.addr + f.lo

/-- The value of a field. -/
def rd (s : State) (f : Fld) : Nat := mgetD s.regs (fkey f) f.rst

/-- The register map with field `f` holding `v`; a field at its reset value is not listed. -/
def putField (m : NMap Nat) (f : Fld) (v : Nat) : NMap Nat :=
  if v % 2 ^ f.wid = f.rst then mdel m (fkey f) else mset m (fkey f) (v % 2 ^ f.wid)

/-- Write a field; excess bits are cut. -/
def wr (s : State) (f : Fld) (v : Nat) : State := { s with regs := putField s.regs f v }

/-- Write a field and its copy in the boot flash (R17, R431). -/
def wrFlash (s : State) (f : Fld) (v : Nat) : State :=
  let s := wr s f v
  { s with flashRegs := mset s.flashRegs (fkey f) (v % 2 ^ f.wid) }

/-- A one-bit field as a Bool. -/
def rdB (s : State) (f : Fld) : Bool := rd s f != 0

/-- Write a one-bit field. -/
def wrB (s : State) (f : Fld) (b : Bool) : State := wr s f (b2n b)

/-- Write several fields in order. -/
def wrs (s : State) (l : List (Fld × Nat)) : State := l.foldl (fun s p => wr s p.1 p.2) s

/-- The status last written to a STATUS field; OK where none is listed. -/
def rdStat (s : State) (f : Fld) : Status := mgetD s.stats (fkey f) .ok

/-- Write a STATUS field. -/
def wrStat (s : State) (f : Fld) (c : Status) : State := { s with stats := mset s.stats (fkey f) c }

/-- The number a STATUS field reads as: its reset value 0x0000 until a status is written, then that status's code. -/
def statNum (s : State) (f : Fld) : Nat :=
  match mget s.stats (fkey f) with
  | some c => (Config.statusCode c).toNat
  | none => 0

/-- An access of requester `r` to any register discards its staging latch (R13). -/
def dropLatch (s : State) (r : Nat) : State :=
  { s with host := { s.host with latches := mdel s.host.latches r } }

/-- The next free value, below `2 ^ w` (w ≤ 64), and the state that has consumed it. -/
def freeVal (s : State) (w : Nat) : Nat × State :=
  ((Config.freeValue s.fresh).toNat % 2 ^ w, { s with fresh := s.fresh + 1 })

/-- `n` free bytes. -/
def freeBytes (s : State) (n : Nat) : List Byte × State :=
  ((List.range n).map (fun i => (Config.freeValue (s.fresh + i)).truncate 8),
   { s with fresh := s.fresh + n })

/-- Record something that leaves the device. -/
def emit (s : State) (o : Sent) : State := { s with sent := s.sent ++ [o] }

/-- Hold MSI-X vector `vec` of PF `fn` until the link is in L0 (R332). -/
def holdVec (s : State) (fn vec : Nat) : State :=
  { s with host := { s.host with vecHeld := s.host.vecHeld ++ [(fn, vec)] } }

/-- Set the pending bit of MSI-X vector `vec` of PF `fn` (R321). -/
def pendVec (s : State) (fn vec : Nat) : State :=
  let l := s.host.msixPend
  { s with host := { s.host with msixPend := if l.contains (fn, vec) then l else l ++ [(fn, vec)] } }

/-- Assert or release WAKE_N (R332). -/
def setWake (s : State) (b : Bool) : State := { s with host := { s.host with wakeN := b } }

/-- SEQ of the next event entry. -/
def setEvSeq (s : State) (n : Nat) : State := { s with host := { s.host with evSeq := n } }

/-- A trigger waits for the freeze controller, which records the lowest code of those that wait (R454). -/
def setTrigger (s : State) (code unit : Nat) : State :=
  let r := match s.ctr.frzReq with
    | some (c, u) => if code < c then (code, unit) else (c, u)
    | none => (code, unit)
  { s with ctr := { s.ctr with frzReq := some r } }

/-- The journal's tail, its overflow buffer, and the records lost. -/
def setJTail (s : State) (l : List JRec) : State := { s with saf := { s.saf with jTail := l } }
def setJOver (s : State) (l : List JRec) : State := { s with saf := { s.saf with jOver := l } }
def setJLost (s : State) (n : Nat) : State := { s with saf := { s.saf with jLost := n } }

/-! ### Time, variant and mode -/

/-- NS of the counter (R263). -/
def nowNs (s : State) : Nat := rd s R.timNowNs

/-- TIM_UPTIME in ns (R263). -/
def uptime (s : State) : Nat := rd s R.timUptimeNs

/-- TIM_UPTIME in µs modulo 2^32. -/
def uptimeUs (s : State) : Nat := uptime s / 1000 % 2 ^ 32

/-- Network time is valid (R268). -/
def timeValid (s : State) : Bool := rdB s R.timStatValid

/-- The variant is SK10240-S (R2). -/
def isS (s : State) : Bool := rdB s R.idPartVariant

/-- A mode's number (R41). -/
def modeNum : Mode → Nat
  | .reset => 0 | .load => 1 | .test => 2 | .sync => 3
  | .serve => 4 | .splice => 5 | .safe => 6 | .freeze => 7

/-- The mode of a number (R41). -/
def modeOf : Nat → Mode
  | 0 => .reset | 1 => .load | 2 => .test | 3 => .sync
  | 4 => .serve | 5 => .splice | 6 => .safe | _ => .freeze

/-- The device's mode (MOD_STAT.MODE). -/
def mode (s : State) : Mode := modeOf (rd s R.modStatMode)

/-- The mode is one of a list. -/
def modeIn (s : State) (l : List Mode) : Bool := l.contains (mode s)

/-- A trigger acts outside FREEZE and outside steps 1–4 of a reset sequence (R454). -/
def freezable (s : State) : Bool := !modeIn s [.freeze] && decide (s.mod.seq = .running)

/-! ### SAFE_N, FAULT_N and changes of mode (R388, R420, R421) -/

/-- The class-S codes of R415 are 0–18. -/
def classS (c : Nat) : Bool := decide (c ≤ 18)

/-- The class-S bits of SAF_FAULT that are set. -/
def classSFaults (s : State) : Nat := bits (rd s R.safFaultFault) 0 19

/-- SAFE_N is asserted unless the mode is SERVE or SPLICE, no class-S bit is set and time is valid (R420). -/
def safeNAsserted (s : State) : Bool :=
  !(modeIn s [.serve, .splice] && classSFaults s == 0 && timeValid s)

/-- FAULT_N is asserted while a fault bit is set, and after a reset until firmware has started (R421). -/
def faultNAsserted (s : State) : Bool := rd s R.safFaultFault != 0 || s.saf.aonFault

/-- Drive open-drain outputs, active low, and show them. -/
def drivePin (s : State) (f : Fld) (names : List String) (on : Bool) : State :=
  if rdB s f = on then s else names.foldl (fun s n => emit s (.pin n (!on))) (wrB s f on)

/-- Drive SAFE_N and FAULT_N as R420 and R421 state; SMB_ALERT_N follows FAULT_N (R493). -/
def syncPins (s : State) : State :=
  let s := drivePin s R.safStatSafeN ["SAFE_N"] (safeNAsserted s)
  drivePin s R.safStatFaultN ["FAULT_N", "SMB_ALERT_N"] (faultNAsserted s)

/-- Change the mode (R388). -/
def setMode (s : State) (m : Mode) : State :=
  let s := wrs s [(R.modStatPrev, rd s R.modStatMode), (R.modStatMode, modeNum m)]
  syncPins { s with saf := { s.saf with modeSince := uptime s } }

/-! ### When the block acts (R389, R393, R395, R396, R456) -/

/-- Every domain runs, and firmware with it. -/
def live (s : State) : Bool := s.mod.seq == .running && !modeIn s [.freeze]

/-- The control die's clocks run: registers, mailboxes and the journal work, before firmware too. -/
def clocked (s : State) : Bool :=
  [SeqSt.commit, .verify, .failed, .running].contains s.mod.seq && !modeIn s [.freeze]

/-- AON runs, and the monitors with it. -/
def powered (s : State) : Bool := s.mod.seq != .off && s.ctr.frzStep != 7

/-- SAFE_N and FAULT_N follow at once the state they show (R420, R421); without power nothing drives them. -/
def pinsFollow (t : State) : State := if t.mod.seq = .off then t else syncPins t

/-- The end of a meaning that started in `s`: the pins follow, and the queue of waiting commands is not its
concern. -/
def finish (s t : State) : State := { pinsFollow t with pending := s.pending }

/-- A meaning acts. -/
def act (s : State) (r : Res) : Res :=
  match r with
  | .next t => .next (finish s t)
  | x => x

/-- A command or an event that acts only while every domain runs. -/
def whenLive (s : State) (r : Res) : Res := if live s then act s r else .next s

/-- One that needs the control die's clocks. -/
def whenClocked (s : State) (r : Res) : Res := if clocked s then act s r else .next s

/-- One that needs AON. -/
def whenPowered (s : State) (r : Res) : Res := if powered s then act s r else .next s

/-! ### Interrupts and notifications -/

/-- Raise MSI-X vector `vec` of PF `fn`: a masked one holds its pending bit; another is sent while the link is in
L0, and held otherwise (R321, R332). -/
def raiseVec (s : State) (fn vec : Nat) : State :=
  if s.host.msixMask.contains (fn, vec) then pendVec s fn vec
  else match s.host.link with
  | .l0 => emit s (.vector fn vec)
  | .l2 => emit (setWake (holdVec s fn vec) true) (.pin "WAKE_N" false)
  | _ => holdVec s fn vec

/-- Set a bit of HIF_ERR_STAT and signal vector 81 (R321). -/
def hifErr (s : State) (f : Fld) : State := raiseVec (wr s f 1) 0 81

/-! ### Counters (R440–R445) -/

/-- Match unit `j` fires if counter `n` passed from `old` to `new` across VALUE (R445). -/
def matchStep (n old new : Nat) (s : State) (j : Nat) : State :=
  let v := rd s (R.ctrMatchValue j)
  if rd s (R.ctrMatchCounter j) = n ∧ v ≠ 0 ∧ old < v ∧ v ≤ new then
    let s := wr s (R.ctrMatchHit j) 1
    let s := if rdB s (R.ctrMatchInt j) then raiseVec s 0 84 else s
    if rdB s (R.ctrMatchFreeze j) && rdB s R.frzCfgMatchEn && freezable s then setTrigger s 3 j
    else s
  else s

/-- Counter `n` counts `inc` at a count boundary, without its chain (R442, R445). -/
def countOne (s : State) (n inc : Nat) : State :=
  let old := rd s (R.ctrValCount n)
  let sum := old + inc
  let s := wr s (R.ctrValCount n) sum
  if sum < 2 ^ 48 then (List.range 4).foldl (matchStep n old sum) s
  else
    let s := wr s (R.ctrOvfOvf (n / 64)) (setBit (rd s (R.ctrOvfOvf (n / 64))) (n % 64))
    if rdB s (R.ctrSelIntOvf n) then raiseVec s 0 84 else s

/-- Counter `n` counts `inc`; an overflow of an even counter counts one in its chained neighbour (R442). -/
def countProg (s : State) (n inc : Nat) : State :=
  let ovf := 2 ^ 48 ≤ rd s (R.ctrValCount n) + inc
  let s := countOne s n inc
  if ovf ∧ n % 2 = 0 ∧ rdB s (R.ctrSelChain (n + 1)) then countOne s (n + 1) 1 else s

/-- Add `inc` to a fixed 48-bit counter, and to every of the 512 programmable counters that watches it (R440, R442,
R448). -/
def bumpBy (s : State) (f : Fld) (inc : Nat) : State :=
  let s := wr s f (rd s f + inc)
  s.ctr.watch.foldl (fun s p => if p.2 = f.addr then countProg s (p.1 % 512) inc else s) s

/-- A fixed counter advances by one. -/
def bump (s : State) (f : Fld) : State := bumpBy s f 1

/-! ### The event ring (R326) -/

/-- Entries the ring holds; 0 while it is disabled. -/
def evSize (s : State) : Nat :=
  let k := rd s R.hifEvtCfgSizeLog2
  if k = 0 then 0 else 2 ^ k

/-- The 128-byte entry of R326. -/
def evEntry (s : State) (typ quad : Nat) (ctl : Bool) (payload : List Byte) : List Byte :=
  let tail := rd s R.hifEvtStatTail
  let phase := if tail / evSize s % 2 = 0 then 1 else 0
  toLe 1 typ ++ toLe 1 (quad % 4 + 128 * b2n ctl) ++ toLe 1 (payload.length % 128 + 128 * phase) ++ [0] ++
  toLe 4 s.host.evSeq ++ toLe 8 (uptime s) ++ slice payload 0 64 ++ List.replicate 48 0

/-- Post an event: written to the ring and signalled by vector 64, or discarded and counted by its
source's counter and HIF_CNT[7]; the header word is written last (R326). -/
def postEvent (s : State) (typ quad : Nat) (ctl : Bool) (payload : List Byte) (lost : Option Fld) : State :=
  let tail := rd s R.hifEvtStatTail
  let used := (tail + 2 ^ 17 - rd s R.hifEvtStatHead) % 2 ^ 17
  if evSize s = 0 ∨ evSize s ≤ used then
    let s := bump s (R.hifCntCount 7)
    match lost with
    | some f => bump s f
    | none => s
  else
    let addr := rd s R.hifEvtBaseAddr * 4096 + tail % evSize s * 128
    let e := evEntry s typ quad ctl payload
    let s := emit (emit s (.dma (addr + 8) (e.drop 8))) (.dma addr (e.take 8))
    let s := wr s R.hifEvtStatTail (tail + 1)
    raiseVec (setEvSeq s ((s.host.evSeq + 1) % 2 ^ 32)) 0 64

/-! ### The journal (R432–R435) -/

/-- Bytes a list of records takes. -/
def jBytes (l : List JRec) : Nat := 64 * l.length

/-- Keep JNL_STAT.TAIL equal to the tail's bytes. -/
def jSync (s : State) : State := wr s R.jnlStatTail (jBytes s.saf.jTail)

/-- The last SEV 0 record of a tail moved out, if any (R435). -/
def jDisplace (l : List JRec) : Option (List JRec × JRec) :=
  match l.reverse.findIdx? (fun r => r.sev == 0) with
  | some i => match l.reverse[i]? with
    | some r => some ((l.reverse.eraseIdx i).reverse, r)
    | none => none
  | none => none

/-- A record is discarded for want of room (R435): counted, remembered for a JOURNAL_LOSS record, and code 21
fires; a record of that fault would find no room either (log 20). -/
def jDiscard (s : State) : State :=
  let s := bump (setJLost s (s.saf.jLost + 1)) (R.jnlCntCount 2)
  let s := if rd s R.safFaultFault = 0 then
      wrs s [(R.safFirstCode, 21), (R.safFirstUnit, 0), (R.safFirstUptimeUs, uptimeUs s)] else s
  syncPins (bump (wr s R.safFaultFault (setBit (rd s R.safFaultFault) 21)) (R.safCntCount 3))

/-- A record takes its place: the tail, the overflow buffer of 16 KiB, or it is discarded (R435). -/
def jPlace (s : State) (r : JRec) : State :=
  let tail := s.saf.jTail
  let ovf := s.saf.jOver
  let max := rd s R.jnlCfgTailMax
  if jBytes tail + 64 ≤ max then setJTail s (tail ++ [r])
  else if r.sev = 3 then
    match jDisplace tail with
    | some (l, d) =>
      if jBytes ovf + 64 ≤ 16384 then setJOver (setJTail s (l ++ [r])) (ovf ++ [d])
      else jDiscard (setJTail s (l ++ [r]))
    | none => setJTail s (tail ++ [r])
  else if jBytes ovf + 64 ≤ 16384 then setJOver s (ovf ++ [r])
  else jDiscard s

/-- A journal record of the given type, filled as R432 states. -/
def jRec (s : State) (typ sev req unit : Nat) (st : JStatus) (a0 a1 a2 : Nat) : JRec :=
  { typ := typ, sev := sev, tvalid := rd s R.timStatValid, source := rd s R.timStatSource,
    mode := rd s R.modStatMode, req := req, holdupOvr := rd s R.safStatHoldupOvr,
    seq := rd s R.jnlStatSeq, boot := rd s R.timBootBoot, ns := nowNs s, uptime := uptime s,
    unit := unit, status := st, arg0 := a0, arg1 := a1, arg2 := a2 }

/-- The device or firmware posts a journal record (R432, R435). -/
def journalFull (s : State) (typ sev req unit : Nat) (st : JStatus) (a0 a1 a2 : Nat) : State :=
  let r := jRec s typ sev req unit st a0 a1 a2
  let s := wr s R.jnlStatSeq (r.seq + 1)
  jSync (jPlace (bump s (R.jnlCntCount 0)) r)

/-- A journal record without a requester and with at most two arguments. -/
def journal (s : State) (typ sev unit : Nat) (st : JStatus) (a0 a1 : Nat) : State :=
  journalFull s typ sev 0 unit st a0 a1 0

/-- UNIT: a quadrant in bits 15:14 and the unit within it in bits 7:0 (R434). -/
def unitOf (quad u : Nat) : Nat := quad % 4 * 16384 + u % 256

/-- A firmware notice on the event ring: a 16-bit notice code, which the spec does not number, and its
data (R326). -/
def notice (s : State) (rest : List Byte) : State :=
  let x := freeVal s 16
  postEvent x.2 5 0 true (toLe 2 x.1 ++ rest) none

end Sys2Proof.Machine
end

