-- ==== Sys2Proof/Machine/KeyOps.lean ====
section
/-!
DEFINITION. Shared operations of the key store and the cipher engine (chapter 13): slots, leases,
erasure, groups of jobs, and the closing of sessions (R346).
-/

namespace Sys2Proof.Machine

open Sys2Proof

/-! ### Slots -/

/-- The 256 bits of a slot; a half not written reads zero. -/
def slotKey (s : State) (k : Nat) : List Byte :=
  match mget s.keys.slots k with
  | some v => (v.lo.getD zeroBlock) ++ (v.hi.getD zeroBlock)
  | none => zeroBlock ++ zeroBlock

/-- KEY_STAT.FREE: the empty slots of 8–63. -/
def syncFree (s : State) : State :=
  wr s R.keyStatFree ((upFrom 8 56).filter (fun k => rd s (R.keySlotState k) == 0)).length

/-- GEN advances, modulo 2^8 (R352). -/
def nextGen (s : State) (k : Nat) : State := wr s (R.keySlotGen k) (rd s (R.keySlotGen k) + 1)

/-- Place 32 key bytes and attributes in a slot. -/
def placeKey (s : State) (k : Nat) (key : List Byte) (use owner : Nat) (key128 : Bool) : State :=
  let s := { s with keys := { s.keys with
      slots := mset s.keys.slots k ⟨some (slice key 0 16), some (slice key 16 16)⟩,
      pend := mdel s.keys.pend k } }
  syncFree (wrs s [(R.keySlotState k, 2), (R.keySlotUse k, use), (R.keySlotOwner k, owner),
    (R.keySlotKey128 k, b2n key128)])

/-- A slot becomes empty, its bits zero; GEN advances. -/
def emptySlot (s : State) (k : Nat) : State :=
  let s := { s with keys := { s.keys with slots := mdel s.keys.slots k, pend := mdel s.keys.pend k } }
  let s := wrs s [(R.keySlotState k, 0), (R.keySlotUse k, 0), (R.keySlotOwner k, 0),
    (R.keySlotKey128 k, 0), (R.keySlotLeases k, 0)]
  syncFree (nextGen s k)

/-- One half of a slot is written by a job (R356, R353). -/
def writeHalf (s : State) (k half : Nat) (b : List Byte) : State :=
  let v := mgetD s.keys.slots k ⟨none, none⟩
  let v := if half = 0 then { v with lo := some b } else { v with hi := some b }
  let s := { s with keys := { s.keys with slots := mset s.keys.slots k v } }
  syncFree (wr s (R.keySlotState k) (if v.lo.isSome && v.hi.isSome then 2 else 1))

/-- One half of a slot is cleared (R358). -/
def clearHalf (s : State) (k half : Nat) : State :=
  let v := mgetD s.keys.slots k ⟨none, none⟩
  let v := if half = 0 then { v with lo := none } else { v with hi := none }
  let s := { s with keys := { s.keys with slots := mset s.keys.slots k v } }
  syncFree (wr s (R.keySlotState k) (if v.lo.isSome || v.hi.isSome then 1 else 0))

/-- The lowest empty slot from `a` to 63 (R351). -/
def emptyFrom (s : State) (a : Nat) : Option Nat :=
  (upFrom a (64 - a)).find? (fun k => rd s (R.keySlotState k) == 0)

/-! ### Job descriptors (R355) -/

def jobW (j : JobS) : Nat := fieldLe j.desc 0 2
def jobOp (j : JobS) : Nat := bits (jobW j) 0 4
def jobChain (j : JobS) : Bool := bit (jobW j) 4
def jobCont (j : JobS) : Bool := bit (jobW j) 5
def jobXor (j : JobS) : Bool := bit (jobW j) 6
def jobSub (j : JobS) : Nat := bits (jobW j) 7 2
def jobOut (j : JobS) : Nat := bits (jobW j) 9 2
def jobHalf (j : JobS) : Nat := bits (jobW j) 11 1
def jobLink (j : JobS) : Bool := bit (jobW j) 12
def jobKey128 (j : JobS) : Bool := bit (jobW j) 13
def jobLastOnly (j : JobS) : Bool := bit (jobW j) 14
def jobSlot (j : JobS) : Nat := bits (fieldLe j.desc 2 1) 0 6
def jobDst (j : JobS) : Nat := bits (fieldLe j.desc 3 1) 0 6
def jobBlocks (j : JobS) : Nat := bits (fieldLe j.desc 4 2) 0 13
def jobTagLen (j : JobS) : Nat := bits (fieldLe j.desc 6 1) 0 5
def jobOutAddr (j : JobS) : Nat := fieldLe j.desc 0x10 8

/-- The job names slot `k` as its key or its destination (R361). -/
def jobNames (j : JobS) (k : Nat) : Bool := jobSlot j == k || (jobOut j == 1 && jobDst j == k)

/-- Start of the group that holds job `i`. -/
def groupStart (l : List JobS) : Nat → Nat
  | 0 => 0
  | i + 1 => match l[i]? with
    | some j => if jobLink j then groupStart l i else i + 1
    | none => i + 1

/-- Number of jobs from the head of a list to the end of its group. -/
def groupLen : List JobS → Nat
  | [] => 0
  | j :: l => if jobLink j then 1 + groupLen l else 1

/-- The jobs of a ring. -/
def ringJobs (s : State) (r : Nat) : List JobS := mgetD s.keys.jobs r []

/-- Write the jobs of a ring. -/
def setJobs (s : State) (r : Nat) (l : List JobS) : State :=
  { s with keys := { s.keys with jobs := mset s.keys.jobs r l } }

/-- Change job `i` of ring `r`. -/
def updJob (s : State) (r i : Nat) (f : JobS → JobS) : State :=
  let l := ringJobs s r
  match l[i]? with
  | some j => setJobs s r (l.set i (f j))
  | none => s

/-- Memory writes of a ring's master: host memory for ring 2, control-die memory otherwise (R355). -/
def ringWrite (s : State) (r addr : Nat) (b : List Byte) : State :=
  emit s (if r = 2 then .dma addr b else .mem addr b)

/-- Give back the leases of a job (R360). -/
def returnLeases (s : State) (j : JobS) : State :=
  let s := wr s (R.keySlotLeases (jobSlot j)) (rd s (R.keySlotLeases (jobSlot j)) - 1)
  if jobOut j = 1 then wr s (R.keySlotLeases (jobDst j)) (rd s (R.keySlotLeases (jobDst j)) - 1) else s

/-- Undo what a job wrote: its memory area is overwritten with zeros and its slot half cleared (R358). -/
def scrubJob (outside : Bool) (r : Nat) (s : State) (j : JobS) : State :=
  if j.wrote = 0 then s
  else if jobOut j = 1 then clearHalf s (jobDst j) (jobHalf j)
  else if outside then ringWrite s r (jobOutAddr j) (List.replicate j.wrote 0) else s

/-- End the group of jobs `a … a + n − 1` of ring `r` with a status: running jobs stop and return their
leases, what they wrote is undone, cores let go (R358, R361). -/
def endGroup (outside : Bool) (s : State) (r a n : Nat) (st : Status) : State :=
  let l := ringJobs s r
  let g := (l.drop a).take n
  let s := g.foldl (fun s j => if j.st = .running then returnLeases s j else s) s
  let s := g.foldl (scrubJob outside r) s
  let g' := g.map (fun j => { j with st := .done, status := st, wrote := 0 })
  let s := setJobs s r (l.take a ++ g' ++ l.drop (a + n))
  { s with keys := { s.keys with
      cores := s.keys.cores.filter (fun c => !(c.2.ring == r && decide (a ≤ c.2.next) && decide (c.2.next < a + n))) } }

/-- End every group of ring `r` that still has an unposted job naming slot `k`. -/
def eraseInRing (outside : Bool) (k : Nat) (s : State) (r : Nat) : State :=
  let l := ringJobs s r
  (List.range l.length).foldl (fun s i =>
    match l[i]? with
    | some j =>
      if jobNames j k && (j.st != .done) then
        let a := groupStart l i
        endGroup outside s r a (groupLen (l.drop a)) .keyErased
      else s
    | none => s) s

/-! ### Sessions (R346) -/

/-- The slots of a session, if it is open. -/
def sessSlots (s : State) (n : Nat) : Option (Nat × Nat) := mget s.keys.sess n

/-- An emergency erase of a slot, without the closing of its session (R361). -/
def eraseNow (outside : Bool) (s : State) (k : Nat) : State :=
  emptySlot ((List.range 4).foldl (eraseInRing outside k) s) k

/-- Close session `n`: its two slots are erased (R346). -/
def closeSession (s : State) (n : Nat) : State :=
  match sessSlots s n with
  | some (a, b) =>
    let s := { s with keys := { s.keys with sess := mdel s.keys.sess n } }
    eraseNow true (eraseNow true (wr s (R.hifSessOpen n) 0) a) b
  | none => s

/-- The session that holds a slot. -/
def sessionOf (s : State) (k : Nat) : Option Nat :=
  (s.keys.sess.find? (fun e => e.2.1 == k || e.2.2 == k)).map (·.1)

/-- An emergency erase of a slot: a session that holds it closes (R346, R361). -/
def emergencyErase (s : State) (k : Nat) : State :=
  match sessionOf s k with
  | some n => closeSession s n
  | none => eraseNow true s k

/-- Zeroize (R362): every slot, the device keys and the engine's state are erased, every session closes,
and ZEROIZED is set. Under a freeze nothing is written outside the island. -/
def zeroize (outside : Bool) (s : State) : State :=
  let s := (List.range 64).foldl (fun s k =>
    if rd s (R.keySlotState k) = 0 then s else eraseNow outside s k) s
  let s := (upFrom 1 16).foldl (fun s n => wr s (R.hifSessOpen n) 0) s
  let s := { s with keys := { s.keys with sess := [], cores := [], devEcdh := none, devKem := none } }
  wrs s [(R.keyStatDevkeys, 0), (R.keyStatZeroized, 1)]

/-- A rewrite of slot `k` is requested: into an empty slot at once, otherwise pending (R360). -/
def requestRewrite (s : State) (k : Nat) (w : Rewrite) : State :=
  let s := if 0 < rd s (R.keySlotLeases k) then bump s (R.cipCntCount 5) else s
  wr { s with keys := { s.keys with pend := mset s.keys.pend k w } } (R.keySlotState k) 3

/-- The content key of an encrypted image is erased from slot 2 (R59). -/
def eraseContentKey (s : State) : State := if rd s (R.keySlotState 2) = 0 then s else emptySlot s 2

end Sys2Proof.Machine
end

