-- ==== Sys2Proof/Machine/Commands.lean ====
section
/-!
DEFINITION. The carriage of commands (R337–R342): who may send one, the four checks of a guarded
command, refusals and their journal records, and the answer firmware holds for the mailbox.
-/

namespace Sys2Proof.Machine

open Sys2Proof

/-! ### Header fields (R339) -/

def cmdCode (h : CmdHdr) : Nat := fieldLe h.body 0 2
def cmdGuarded (h : CmdHdr) : Bool := bit (fieldLe h.body 2 1) 0
def cmdIndirect (h : CmdHdr) : Bool := bit (fieldLe h.body 2 1) 1
def cmdSession (h : CmdHdr) : Nat := bits (fieldLe h.body 3 1) 0 5
def cmdSeq (h : CmdHdr) : Nat := fieldLe h.body 8 8
def cmdBufAddr (h : CmdHdr) : Nat := fieldLe h.body 0x10 8
def cmdBufLen (h : CmdHdr) : Nat := bits (fieldLe h.body 0x18 4) 0 26

/-- Requesters 32–35 are the management cores (R42). -/
def isCore (r : Nat) : Bool := decide (32 ≤ r) && decide (r ≤ 35)

/-- A command's outcome: status, response payload, next state. -/
structure CmdOut where
  status : Status
  payload : List Byte
  st : State

/-- A refusal: nothing but the status. -/
def refuse (c : Status) (s : State) : CmdOut := ⟨c, [], s⟩

/-- Success without a payload. -/
def okay (s : State) : CmdOut := ⟨.ok, [], s⟩

/-- Firmware holds the answer for the command's mailbox (R337). -/
def holdAnswer (s : State) (h : CmdHdr) (key : Option (List Byte)) (o : Status) (payload : List Byte) : State :=
  if 32 ≤ h.mbx ∧ h.mbx < 64 then
    { s with host := { s.host with
        responseDue := mset s.host.responseDue h.mbx ⟨slice h.body 0 32, key, o, payload⟩ } }
  else s

/-- A refusal with REFUSED_UNAUTHENTICATED is counted and journalled, at most one record per requester
per millisecond (R340). -/
def authRefused (s : State) (requester session code seq : Nat) : State :=
  let s := bump s (R.hifCntCount 1)
  match mget s.host.authAt requester with
  | some t =>
    if uptime s < t + 1000000 then bump s (R.hifCntCount 2)
    else journalFull { s with host := { s.host with authAt := mset s.host.authAt requester (uptime s) } }
      0x0020 1 requester session (.code .refusedUnauthenticated) code seq 0
  | none => journalFull { s with host := { s.host with authAt := mset s.host.authAt requester (uptime s) } }
      0x0020 1 requester session (.code .refusedUnauthenticated) code seq 0

/-- A refusal of a command. -/
def refuseAuth (s : State) (h : CmdHdr) : State :=
  holdAnswer (authRefused s h.requester (cmdSession h) (cmdCode h) (cmdSeq h)) h none .refusedUnauthenticated []

/-- The command's indirect payload cannot be read (R339); a management core's command has none of its own. -/
def dmaFails (h : CmdHdr) : Bool := cmdIndirect h && h.dmaErr && !isCore h.requester

/-- A command whose DMA read fails completes with ABORTED (R339). -/
def dmaAborted (s : State) (h : CmdHdr) : State := holdAnswer (hifErr s R.hifErrStatDmaErr) h none .aborted []

/-- Session `n` is open and bound to requester `r` (R340 step 1). -/
def sessionBound (s : State) (n r : Nat) : Bool :=
  (sessSlots s n).isSome && rdB s (R.hifSessOpen n) && rd s (R.hifSessReq n) == r

/-- K_cmd and K_rsp of a session. -/
def keyCmd (s : State) (n : Nat) : List Byte := slotKey s ((sessSlots s n).map (·.1) |>.getD 0)
def keyRsp (s : State) (n : Nat) : List Byte := slotKey s ((sessSlots s n).map (·.2) |>.getD 0)

/-- Steps 1–3 of R340 over bytes `msg`, sequence number `seq` and a tag. -/
def authentic (s : State) (r n seq : Nat) (msg : List Byte) (tag : BitVec 128) : Bool :=
  sessionBound s n r && decide (rd s (R.hifSessSeqSeq n) < seq) && decide (tagOf (keyCmd s n) msg = tag)

/-- Step 4 of R340: the session holds the right of a group; no group needs none (R341). -/
def hasRight (s : State) (n : Nat) (grp : Option Nat) : Bool :=
  match grp with
  | some g => bit (rd s (R.hifSessRights n)) g
  | none => true

/-- The session ends after the command with SEQ 2^64 − 1 (R42, R346). -/
def lastSeq (s : State) (n seq : Nat) : State := if seq = 2 ^ 64 - 1 then closeSession s n else s

/-- Carry out a guarded command: R340, then the command's own checks and effect `f`. A management core's
command carries no session. -/
def guarded (s : State) (h : CmdHdr) (grp : Option Nat) (f : State → CmdOut) : State :=
  if isCore h.requester then
    let o := f s
    holdAnswer o.st h none o.status o.payload
  else if !cmdGuarded h || (decide (2 ≤ h.requester) && decide (h.requester ≤ 18)) then refuseAuth s h
  else if dmaFails h then dmaAborted s h
  else
    let n := cmdSession h
    if authentic s h.requester n (cmdSeq h) h.body h.tag then
      let kr := keyRsp s n
      let s := wr s (R.hifSessSeqSeq n) (cmdSeq h)
      if hasRight s n grp then
        let o := f (bump s (R.hifCntCount 0))
        let s := wrStat o.st (R.hifSessLastStatus n) o.status
        lastSeq (holdAnswer s h (some kr) o.status o.payload) n (cmdSeq h)
      else lastSeq (refuseAuth (wrStat s (R.hifSessLastStatus n) .refusedUnauthenticated) h) n (cmdSeq h)
    else refuseAuth s h

/-- Carry out an open command; one sent guarded passes R340's checks and its response is tagged. -/
def openCmd (s : State) (h : CmdHdr) (f : State → CmdOut) : State :=
  if cmdGuarded h && !isCore h.requester then guarded s h none f
  else if dmaFails h then dmaAborted s h
  else
    let o := f s
    holdAnswer o.st h none o.status o.payload

/-- Firmware holds the answer of a command that has waited. One whose session's key slot has been erased meanwhile
completes with KEY_ERASED, and no key tags it (R346). -/
def lateAnswer (s : State) (mbx : Nat) (head : List Byte) (key : Option (List Byte)) (c : Status)
    (payload : List Byte) : State :=
  let n := bits (fieldLe head 3 1) 0 5
  let gone := key.isSome && !((sessSlots s n).isSome && some (keyRsp s n) == key)
  let a : Answer := if gone then ⟨head, none, .keyErased, []⟩ else ⟨head, key, c, payload⟩
  { s with host := { s.host with responseDue := mset s.host.responseDue mbx a } }

/-- The modes in which the time, key, flash and most other command groups are accepted. -/
def commandModes : List Mode := [.sync, .serve, .splice, .safe]

/-- A command refused with REFUSED_MODE outside a list of modes. -/
def inModes (l : List Mode) (s : State) (f : State → CmdOut) : CmdOut :=
  if modeIn s l then f s else refuse .refusedMode s

/-- A response that needs more room than the mailbox and the indirect buffer give is refused (R339). -/
def sizedResponse (h : CmdHdr) (payload : List Byte) (s : State) : CmdOut :=
  if payload.length ≤ 208 ∨ payload.length ≤ cmdBufLen h then ⟨.ok, payload, s⟩ else refuse .invalid s

/-- The session a record of a command names (R434); 0 for a management core. -/
def cmdWho (h : CmdHdr) : Nat := if isCore h.requester then 0 else cmdSession h

end Sys2Proof.Machine
end

