-- ==== Sys2Proof/Machine/ImageOps.lean ====
section
/-!
DEFINITION. Reading the running image (chapter 2): sections by kind and instance, and the fields the
rest of the block takes from them.
-/

namespace Sys2Proof.Machine

open Sys2Proof

/-- The payload of a section among a list; an absent section is empty (R49). -/
def secBytes (l : List SecS) (kind inst : Nat) : List Byte :=
  ((l.find? (fun x => x.kind == kind && x.inst == inst)).map (·.bytes)).getD []

/-- The payload of a running section. -/
def sec (s : State) (kind inst : Nat) : List Byte := secBytes s.img.running kind inst

/-- A port block of the port map (R52). -/
structure PortDecl where
  port : Nat
  speed : Nat
  cutThrough : Bool
  bolvis : Bool
  frameMax : Nat
  deriving DecidableEq, Repr

/-- The declared front ports of a port map. -/
def portDecls (pm : List Byte) : List PortDecl :=
  (List.range (fieldLe pm 0 2)).map (fun i =>
    let o := 0x48 + 8 * i
    ⟨fieldLe pm o 2, fieldLe pm (o + 2) 1, bit (fieldLe pm (o + 3) 1) 0, bit (fieldLe pm (o + 3) 1) 1,
     fieldLe pm (o + 4) 2⟩)

/-- The declaration of a front port in the running image. -/
def portDecl (s : State) (p : Nat) : Option PortDecl :=
  (portDecls (sec s 1 0)).find? (fun d => d.port == p)

/-- Pipe class of active slot `8q + p`, and engine-group class of group `8q + k` (R52). -/
def pipeClass (s : State) (slot : Nat) : Nat := fieldLe (sec s 1 0) (0x08 + slot) 1
def engClass (s : State) (e : Nat) : Nat := fieldLe (sec s 1 0) (0x28 + e) 1

/-- Flow-table capacity exponent (R53). -/
def flowLog2 (s : State) : Nat := fieldLe (sec s 2 0) 0 1

/-- The entry of an authorized controller key (R54): both public keys and RIGHTS. -/
def authKey (s : State) (id : Nat) : Option (List Byte × List Byte × Nat) :=
  let b := sec s 0xC 0
  let n := fieldLe b 0 1
  ((List.range n).find? (fun i => fieldLe b (8 + 2704 * i) 2 == id)).map (fun i =>
    let o := 8 + 2704 * i
    (slice b (o + 8) 97, slice b (o + 0x70) 2592, fieldLe b (o + 2) 2))

/-- Policy defaults (R56). -/
def flowDefault (s : State) : Nat := fieldLe (sec s 0xE 0) 0 1
def fragDefault (s : State) : Nat := fieldLe (sec s 0xE 0) 1 1
def syncBe (s : State) : Bool := bit (fieldLe (sec s 0xE 0) 2 1) 0
def fragAgeUs (s : State) : Nat := fieldLe (sec s 0xE 0) 4 4
def reasonDeclared (s : State) (c : Nat) : Bool := bit (fieldLe (sec s 0xE 0) (8 + c / 8) 1) (c % 8)

/-! ### Logical ports (R115, R119) -/

/-- A logical port: its number, type (1 aggregate, 2 tunnel end point) and members. -/
structure LportDecl where
  port : Nat
  typ : Nat
  members : List Nat
  deriving DecidableEq, Repr

/-- The declared logical ports of a table declarations section. -/
def lportDecls (b : List Byte) : List LportDecl :=
  (List.range (fieldLe b 6 2)).map (fun i =>
    let o := 0x20 + 48 * fieldLe b 0 2 + 48 * i
    ⟨fieldLe b o 2, fieldLe b (o + 2) 1, (List.range (fieldLe b (o + 3) 1)).map (fun m => fieldLe b (o + 4 + 2 * m) 2)⟩)

/-- A logical port of the running image. -/
def lportDecl (s : State) (p : Nat) : Option LportDecl := (lportDecls (sec s 5 0)).find? (fun d => d.port == p)

/-- The learn port of an ingress port: itself, or the aggregate that contains it (R132). -/
def learnPort (s : State) (p : Nat) : Nat :=
  (((lportDecls (sec s 5 0)).find? (fun d => d.typ == 1 && d.members.contains p)).map (·.port)).getD p

/-- The front port whose FWD_PORT holds a learn port's limit and excess action (R132). -/
def limitPort (s : State) (p : Nat) : Nat :=
  match lportDecl s p with
  | some d => d.members.headD 0
  | none => p

/-- LEARN_LIMIT and EXCESS of a learn port. -/
def learnLimit (s : State) (p : Nat) : Nat := rd s (R.fwdPortLearnLimit (limitPort s p / 128) (limitPort s p % 128))
def learnExcess (s : State) (p : Nat) : Nat := rd s (R.fwdPortExcess (limitPort s p / 128) (limitPort s p % 128))

end Sys2Proof.Machine
end

