-- ==== Sys2Proof/Machine/SampleOps.lean ====
section
/-!
DEFINITION. Shared operations of the sampler (R450–R453): eligible events, records, the quadrants' FIFOs.
-/

namespace Sys2Proof.Machine

open Sys2Proof

/-- Selector `j` counts an eligible event of quadrant `q` (R450): whether it samples it. -/
def selectorHit (s : State) (q kind : Nat) (fits : Nat → Bool) (acc : Option Nat × State) (j : Nat) :
    Option Nat × State :=
  if rd s (R.smpSelKind j) = kind ∧ bit (rd s (R.smpSelQuads j)) q ∧ fits j ∧ rd s (R.smpSelRatio j) ≠ 0 then
    let t := acc.2
    let n := mgetD t.ctr.smpSel (4 * j + q) 0 + 1
    let t := { t with ctr := { t.ctr with smpSel := mset t.ctr.smpSel (4 * j + q) n } }
    (if n % 2 ^ (rd s (R.smpSelRatio j) - 1) = 0 then acc.1.or (some j) else acc.1, t)
  else acc

/-- The lowest selector that samples an event, and the counts after it. -/
def sampleEvent (s : State) (q kind : Nat) (fits : Nat → Bool) : Option Nat × State :=
  (List.range 4).foldl (selectorHit s q kind fits) (none, s)

/-- A packet that enters an ingress section (R450, KIND 1). -/
def samplePacket (s : State) (q port : Nat) : Option Nat × State :=
  sampleEvent s q 1 (fun j => rdB s (R.smpSelAny j) || rd s (R.smpSelLo j) % 1024 == port)

/-- A microword at an address (R450, KIND 0). -/
def sampleWord (s : State) (q addr : Nat) : Option Nat × State :=
  sampleEvent s q 0 (fun j => decide (rd s (R.smpSelLo j) ≤ addr) && decide (addr ≤ rd s (R.smpSelHi j)))

/-- A completed record passes to its quadrant's FIFO of 16, or is discarded (R451). SEQ is filled when the
record is written. -/
def pushSample (s : State) (q : Nat) (r : List Byte) : State :=
  let l := mgetD s.ctr.smpFifo q []
  if 16 ≤ l.length then bump s (R.smpCntCount 1)
  else { s with ctr := { s.ctr with smpFifo := mset s.ctr.smpFifo q (l ++ [r]) } }

/-- The common first 8 bytes of a record (R452). -/
def sampleHead (s : State) (kind q j : Nat) : List Byte :=
  toLe 1 (kind + 4 * q + 16 * j) ++ [0, 0, 0] ++ toLe 4 (uptimeUs s)

/-- A pipe record (R452) of a frame, its copy if one left, and its drop reason. CORE cycles that the spec does
not fix are free. -/
def pipeRecord (s : State) (f : FrameS) (j : Nat) (c : Option CopyS) (reason : Nat) : List Byte × State :=
  let looked := bits f.bus 94 2 != 0
  let x := freeVal s 16
  let y := freeVal x.2 16
  let flow := if bits f.bus 94 2 = 1 then 96 else if looked then x.1 else 0
  let egress := (c.map (·.port)).getD 0
  let queued := (c.map (fun c => (c.selNs + 2 ^ 32 - c.enqNs) % 2 ^ 32)).getD 0
  (sampleHead s 1 f.quad j ++
   toLe 2 (f.inPort + bits f.bus 60 3 * 2 ^ 10 + bits f.bus 63 1 * 2 ^ 13 + bits f.bus 94 2 * 2 ^ 14) ++
   toLe 2 egress ++ toLe 4 f.tsIn ++ toLe 2 336 ++ toLe 2 flow ++ toLe 4 queued ++
   toLe 2 (if c.isSome then y.1 else 0) ++ toLe 1 reason ++ toLe 1 f.lastState ++
   toLe 4 ((c.map (·.queue)).getD 0),
   y.2)

/-- The packet of frame `head` completes for the sampler: a copy has left, or it is dropped (R452). -/
def sampleEnd (s : State) (head : Nat) (c : Option CopyS) (reason : Nat) : State :=
  match mget s.cel.frames head with
  | some f =>
    match f.sel with
    | some j =>
      let r := pipeRecord s f j c reason
      let s := { r.2 with cel := { r.2.cel with frames := mset r.2.cel.frames head { f with sel := none } } }
      pushSample s f.quad r.1
    | none => s
  | none => s

end Sys2Proof.Machine
end

