-- ==== Sys2Proof/Machine/HbmMarks.lean ====
section
/-!
DEFINITION. Where things lie in a stack (R295, R297), which channels are dead, and which granules are marked (R306,
R316): what the cell manager needs to know of the external memory controller.
-/

namespace Sys2Proof.Machine

open Sys2Proof

/-! ### The stack map (R295, R297) -/

/-- Key of a stack's logical address. -/
def hkey (st a : Nat) : Nat := st * 2 ^ 40 + a

/-- Logical bytes of a stack, U (R295). -/
def hbmU (s : State) (st : Nat) : Nat := 62 * rd s (R.hbmIdPcMib st) * 2 ^ 20

/-- Base of region `r`. -/
def hbmBase (s : State) (st r : Nat) : Nat := rd s (R.hbmMapBaseMib st r) * 2 ^ 20

/-- Logical channel and row-block of an address (R297). -/
def logCh (a : Nat) : Nat := a / 1024 % 62
def rowBlk (a : Nat) : Nat := a / 1024 / 62

/-- Row-blocks of a channel. -/
def blkCount (s : State) (st : Nat) : Nat := rd s (R.hbmIdPcMib st) * 1024

/-! ### Dead channels and marked granules (R306, R314, R316) -/

/-- The physical channel that serves a logical channel, a migration's source among them; none: dead (R316). -/
def servingPc (s : State) (st l : Nat) : Option Nat :=
  (List.range 64).find? (fun p => (rd s (R.hbmPcRole st p) == 0 || rd s (R.hbmPcRole st p) == 3) &&
    rd s (R.hbmPcLogical st p) == l)

/-- Logical channel `l` is dead (R316). -/
def chanDead (s : State) (st l : Nat) : Bool := (servingPc s st l).isNone

/-- The granule at address `64 g` is granule 0 of a record slot: every second granule of region 4. -/
def slotGranule (s : State) (st g : Nat) : Bool :=
  decide (hbmBase s st 4 ≤ 64 * g) && decide (64 * g < hbmBase s st 5) && (64 * g - hbmBase s st 4) % 128 == 0

/-- Granule `g` of a stack carries a poison mark, or lies in a channel handed over without migration and
has not been written since. -/
def marked (s : State) (st g : Nat) : Bool :=
  s.hbm.poison.contains (hkey st (64 * g)) ||
  (match mget s.hbm.lost (64 * st + logCh (64 * g)) with
   | some (l, cl) => !(l.contains g) && !(cl && slotGranule s st g)
   | none => false)

/-- Some granule of `n` bytes from `a` on is marked or in a dead channel. -/
def badRange (s : State) (st a n : Nat) : Bool :=
  (upFrom (a / 64) (cdiv (a % 64 + n) 64)).any (fun g => marked s st g || chanDead s st (logCh (64 * g)))

end Sys2Proof.Machine
end

