-- ==== Sys2Proof/Machine/CellOps.lean ====
section
/-!
DEFINITION. Shared operations of the cell and queue managers: drops, cells and their owners, chains
and their releases, aborts, the queue tree (chapter 9).
-/

namespace Sys2Proof.Machine

open Sys2Proof

/-! ### Ports and quadrants -/

/-- The quadrant a port lies in (R21, R23). -/
def portQuad (p : Nat) : Nat :=
  if p < 512 then p / 128 else if p < 544 then (p - 512) / 8 else (p - 544) / 2 % 4

/-- Global port group of a front port (R21, R50). -/
def portPg (p : Nat) : Nat := p / 8

/-- Count one drop under its reason, and against its ingress port (R44, R447, R448). -/
def countDrop (s : State) (reason port : Nat) : State :=
  let s := bump s (R.ctrReasonCount reason)
  let s := if port < 552 then bump s (R.ctrPortCount port 4) else s
  if reason = 0x17 then bump s (R.safCntCount 6) else s

/-! ### Cells -/

/-- Cell pointer of pool `pool`, quadrant `q`, index `i` (R238). -/
def cellPtr (pool q i : Nat) : Nat := i + q * 2 ^ 25 + pool * 2 ^ 27

/-- Fields of a cell pointer (R238). -/
def ptrIndex (p : Nat) : Nat := bits p 0 25
def ptrQuad (p : Nat) : Nat := bits p 25 2
def ptrPool (p : Nat) : Nat := bits p 27 1

/-- Where the descriptor and the cell of a pool 1 pointer lie in its stack (R238, R295). -/
def cellDescAt (s : State) (p : Nat) : Nat := hbmBase s (ptrQuad p) 5 + 16 * ptrIndex p
def cellDataAt (s : State) (p : Nat) : Nat := hbmBase s (ptrQuad p) 6 + 1024 * ptrIndex p

/-- The descriptor of a cell can be read: one in HBM neither carries a mark nor lies in a dead channel (R305). -/
def descOk (s : State) (p : Nat) : Bool := ptrPool p == 0 || !badRange s (ptrQuad p) (cellDescAt s p) 16

/-- Units a cell of a pool counts (R245). -/
def cellUnits (pool : Nat) : Nat := if pool = 0 then 1 else 4

/-- The lowest index not in use from `i` on, the used pointers being listed in rising order. -/
def firstFree (base : Nat) : List Nat → Nat → Nat
  | [], i => i
  | p :: ps, i => if p = base + i then firstFree base ps (i + 1) else if base + i < p then i else firstFree base ps i

/-- The free cell the manager takes: the lowest free index (DESIGN CHOICE, log 9). -/
def pickCell (s : State) (pool q : Nat) : Nat :=
  let base := cellPtr pool q 0
  base + firstFree base (s.cel.cells.map (·.1)) 0

/-- Free cells of a pool in a quadrant. -/
def freeCount (s : State) (pool q : Nat) : Nat :=
  if pool = 0 then rd s (R.celStatP0Free q) else rd s (R.celStatP1Free q)

/-- Write the free count of a pool. -/
def setFree (s : State) (pool q n : Nat) : State :=
  if pool = 0 then wr s (R.celStatP0Free q) n else wr s (R.celStatP1Free q) n

/-- The owners whose port or quadrant lies in quadrant `q` (R245, CEL_OWNER). -/
def ownersOf (q : Nat) : List Nat :=
  upFrom (512 * q) 512 ++ upFrom (4 * (512 + 8 * q)) 32 ++ upFrom (4 * (544 + 2 * q)) 8 ++ [2208 + q]

/-- Reservations of a quadrant's owners not in use (R246). -/
def unusedRsv (s : State) (q : Nat) : Nat :=
  (ownersOf q).foldl (fun a o => a + (rd s (R.celOwnerRsv q o) - rd s (R.celOwnerCntCount q o))) 0

/-- Admission of `u` units to owner `o` (R246). -/
def grants (s : State) (q pool o u : Nat) : Bool :=
  let c := rd s (R.celOwnerCntCount q o)
  if rd s (R.celOwnerMax q o) < c + u then false
  else if c + u ≤ rd s (R.celOwnerRsv q o) then true
  else unusedRsv s q < freeCount s pool q * cellUnits pool

/-- Bytes a ns the spill budget earns: 400 at 8.0 Gbit/s, in proportion at a lower pin rate (R244, R298). -/
def spillRate (s : State) (q : Nat) : Nat := 320 + 40 * min 2 (rd s (R.hbmStatRate q))

/-- Spill budget of a quadrant now, in bytes, up to 1 µs of earnings (R244). -/
def spillNow (s : State) (q : Nat) : Int :=
  let r := spillRate s q
  let t := mgetD s.cel.spill q (1000 * r : Nat)
  let dt := uptime s - mgetD s.cel.spillAt q 0
  min (1000 * r : Nat) (t + r * dt)

/-- The stack of a quadrant serves; otherwise its budgets admit nothing (R313, R318). -/
def memServes (s : State) (q : Nat) : Bool := rd s (R.hbmStatState q) == 3

/-- Charge a pool 1 cell to the spill budget (R244). -/
def spillCharge (s : State) (q : Nat) : State :=
  { s with cel := { s.cel with
      spill := mset s.cel.spill q (spillNow s q - 1024), spillAt := mset s.cel.spillAt q (uptime s) } }

/-- The pool of a frame's first cell, or none where it is dropped with 0x0F (R243). -/
def choosePool (s : State) (q c : Nat) : Option Nat :=
  if rd s (R.celClassUsed q c) < rd s (R.celClassLimit q c) ∧ rd s (R.celCfgTailRsv q) < freeCount s 0 q then some 0
  else if rdB s (R.celClassNoSpill q c) then none
  else if 0 < freeCount s 1 q ∧ memServes s q ∧ 0 < spillNow s q then some 1
  else none

/-- Allocate a cell for an owner and charge it; the pool has a free cell. -/
def allocCell (s : State) (pool q : Nat) (c : CellS) : Nat × State :=
  let p := pickCell s pool q
  let s := { s with cel := { s.cel with cells := mset s.cel.cells p c } }
  let s := setFree s pool q (freeCount s pool q - 1)
  let s := wr s (R.celOwnerCntCount q c.owner) (rd s (R.celOwnerCntCount q c.owner) + cellUnits pool)
  if pool = 0 then
    let s := wr s (R.celClassUsed q c.oclass) (rd s (R.celClassUsed q c.oclass) + 1)
    (p, bump s (R.celCntCount q 0))
  else
    (p, bump (spillCharge s q) (R.celCntCount q 1))

/-- Return one cell to its pool, or count and journal a double free (R247, R249). -/
def freeCell (s : State) (p req : Nat) : State :=
  let q := ptrQuad p
  match mget s.cel.cells p with
  | some c =>
    let s := { s with cel := { s.cel with cells := mdel s.cel.cells p } }
    let s := setFree s (ptrPool p) q (freeCount s (ptrPool p) q + 1)
    let s := wr s (R.celOwnerCntCount q c.owner)
      (rd s (R.celOwnerCntCount q c.owner) - cellUnits (ptrPool p))
    if ptrPool p = 0 then wr s (R.celClassUsed q c.oclass) (rd s (R.celClassUsed q c.oclass) - 1) else s
  | none => journal (bump s (R.celCntCount q 6)) 0x0052 2 (unitOf q 0) (.num 0) p req

/-- The cells of a chain from `p`, at most `fuel` of them. -/
def chainCells (s : State) : Nat → Nat → List Nat
  | 0, _ => []
  | fuel + 1, p =>
    match mget s.cel.cells p with
    | some c => if c.eof || c.abort then [p] else p :: chainCells s fuel c.next
    | none => [p]

/-- The cells of a frame, first cell first. -/
def frameCells (s : State) (head : Nat) : List Nat :=
  let last := match mget s.cel.frames head with
    | some f => f.last
    | none => head
  let l := chainCells s s.cel.cells.length head
  l.takeWhile (· != last) ++ (if l.contains last then [last] else [])

/-- The data bytes of a frame written so far. -/
def frameBytes (s : State) (head : Nat) : List Byte :=
  (frameCells s head).foldl (fun a p => a ++ ((mget s.cel.cells p).map (·.data)).getD []) []

/-- Free a whole chain and forget its frame and its receive timestamp record (R247, R275). A descriptor that cannot be
read stops the freeing: its cell and those behind it stay until CEL_FREE or a reset (R249, R305). -/
def freeChain (s : State) (head req : Nat) : State :=
  let s := ((frameCells s head).takeWhile (descOk s)).foldl (fun s p => freeCell s p req) s
  { s with cel := { s.cel with frames := mdel s.cel.frames head },
           tim := { s.tim with rxStore := mdel s.tim.rxStore head } }

/-- The MAC of the frame's ingress port discards the frame's remaining bytes (R247). -/
def rxDiscard (s : State) (head : Nat) : State :=
  { s with cel := { s.cel with
      rx := s.cel.rx.map (fun e => if e.2.frame = some head then (e.1, { e.2 with frame := none, discard := true }) else e) } }

/-- Change a frame's entry. -/
def updFrame (s : State) (head : Nat) (f : FrameS → FrameS) : State :=
  { s with cel := { s.cel with frames := mmod s.cel.frames head f } }

/-- Change a cell's descriptor. -/
def updCell (s : State) (p : Nat) (f : CellS → CellS) : State :=
  { s with cel := { s.cel with cells := mmod s.cel.cells p f } }

/-- One named owner releases a shared chain; the last release frees it (R248). -/
def releaseShared (s : State) (head req : Nat) : State :=
  match mget s.cel.cells head with
  | some c =>
    if c.remain ≤ 1 then freeChain s head req
    else updCell s head (fun c => { c with remain := c.remain - 1 })
  | none => s

/-- The ingress writer ends: at EOF, at an abort, or because the frame was dropped (R247, R248). -/
def writerRelease (s : State) (head : Nat) : State :=
  match mget s.cel.frames head with
  | some f =>
    if f.writer then
      let s := updFrame s head (fun f => { f with writer := false })
      match mget s.cel.cells head with
      | some c =>
        if c.st = 2 then releaseShared s head 0
        else if f.copies = [] ∧ f.phase = .done then freeChain s head 0
        else s
      | none => s
    else s
  | none => s

/-- A copy is done, sent or dropped: its release (R247, R248). -/
def releaseCopy (s : State) (cp : Nat) : State :=
  match mget s.cel.copies cp with
  | some c =>
    let s := { s with cel := { s.cel with copies := mdel s.cel.copies cp } }
    let s := updFrame s c.head (fun f => { f with copies := f.copies.filter (· != cp) })
    if c.head = cp then
      freeChain (rxDiscard s cp) cp 0
    else
      releaseShared (freeCell s cp 0) c.head 0
  | none => s

/-- The ingress port of a copy's frame. -/
def copyInPort (s : State) (c : CopyS) : Nat :=
  ((mget s.cel.frames c.head).map (·.inPort)).getD 1023

/-- The frame of a copy has no other copy left. -/
def lastCopy (s : State) (c : CopyS) (cp : Nat) : Bool :=
  ((mget s.cel.frames c.head).map (fun f => f.copies == [cp])).getD false

/-- Drop a copy that is in no queue: counted once under its code, then released (R40). -/
def dropCopy (s : State) (cp reason : Nat) : State :=
  match mget s.cel.copies cp with
  | some c =>
    let s := countDrop s reason (copyInPort s c)
    releaseCopy (if lastCopy s c cp then sampleEnd s c.head none reason else s) cp
  | none => s

/-! ### The queue tree -/

/-- Key of entry `e` of bank `g`. -/
def nodeKey (g e : Nat) : Nat := g * 2 ^ 22 + e

/-- Bank and entry of a node key. -/
def nodePg (k : Nat) : Nat := k / 2 ^ 22
def nodeEntry (k : Nat) : Nat := k % 2 ^ 22

/-- The key a queue's node has in a bank with header `h`. -/
def queueKey (bank : Nat) (h : TreeHdr) (qn : Nat) : Nat := nodeKey bank (h.nodeCount - h.qcount + (qn - h.qbase))

/-- The node of a queue (R250), in the bank that holds it. -/
def queueNode (s : State) (qn : Nat) : Option Nat :=
  (s.cel.treeHdr.find? (fun e => decide (e.2.qbase ≤ qn) && decide (qn < e.2.qbase + e.2.qcount) &&
    (mget s.cel.nodes (queueKey e.1 e.2 qn)).isSome)).map (fun e => queueKey e.1 e.2 qn)

/-- The queue number of a level-3 node. -/
def nodeQueue (s : State) (k : Nat) : Nat :=
  match mget s.cel.treeHdr (nodePg k) with
  | some h => h.qbase + (nodeEntry k - (h.nodeCount - h.qcount))
  | none => 0

/-- The node of an egress port (level 0). -/
def portNode (s : State) (p : Nat) : Option Nat :=
  (s.cel.nodes.find? (fun e => decide (e.2.level = 0) && decide (e.2.f10 % 1024 = p))).map (·.1)

/-- A node's ancestors from itself up to level 0. -/
def nodePath (s : State) : Nat → Nat → List Nat
  | 0, _ => []
  | fuel + 1, k =>
    match mget s.cel.nodes k with
    | some n => if n.level = 0 then [k] else k :: nodePath s fuel (nodeKey (nodePg k) n.parent)
    | none => []

/-- The egress port of a queue. -/
def queuePort (s : State) (qn : Nat) : Option Nat :=
  match queueNode s qn with
  | some k =>
    match (nodePath s 4 k).getLast? with
    | some r => (mget s.cel.nodes r).bind (fun n => if n.level = 0 then some (n.f10 % 1024) else none)
    | none => none
  | none => none

/-- The traffic class of a queue's level-1 ancestor. -/
def queueTc (s : State) (qn : Nat) : Nat :=
  match queueNode s qn with
  | some k =>
    ((nodePath s 4 k).findSome? (fun a => (mget s.cel.nodes a).bind (fun n => if n.level = 1 then some n.tc else none))).getD 0
  | none => 0

/-- The queues of an egress port, in rising number. -/
def portQueues (s : State) (p : Nat) : List Nat :=
  s.cel.nodes.filterMap (fun e =>
    if e.2.level = 3 ∧ queuePort s (nodeQueue s e.1) = some p then some (nodeQueue s e.1) else none)

/-- The first queue of a port (its base queue, R120, R259). -/
def portQbase (s : State) (p : Nat) : Nat := (portQueues s p).headD 0

/-- A frame is queued at or below a node: BACKLOG (R252). -/
def backlog (s : State) (k : Nat) : Bool :=
  s.cel.nodes.any (fun e => !e.2.frames.isEmpty && (nodePath s 4 e.1).contains k)

/-- The 64-byte record of a node (R250, R252). -/
def nodeRecord (s : State) (k : Nat) (n : NodeS) : List Byte :=
  let queue := n.level == 3
  toLe 1 (n.level % 4 + n.tc % 16 * 4 + b2n n.shaped * 64) ++ toLe 1 n.prio ++ toLe 2 n.weight ++ toLe 4 n.parent ++
  toLe 4 n.rateKbps ++ toLe 4 n.burst ++ toLe 4 n.f10 ++ toLe 4 n.f14 ++ toLe 4 n.f18 ++ [0, 0, 0, 0] ++
  toLe 4 (if queue then n.frames.headD 0 else 0) ++ toLe 4 (if queue then n.frames.getLastD 0 else 0) ++
  toLe 4 (if queue then n.units else 0) ++ toLe 4 (ibits 32 n.deficit) ++ toLe 4 (ibits 32 n.tokens) ++ toLe 4 n.tupd ++
  toLe 8 (b2n (backlog s k))

/-- The node record that lies at a byte of a quadrant's table store, and the offset within it (R251); where each bank
begins the spec does not say (log 18). -/
def nodeAt (s : State) (q x : Nat) : Option (List Byte × Nat) :=
  s.cel.treeHdr.findSome? (fun e =>
    let b := 64 * Config.treeBase e.1
    if e.1 % 64 / 16 = q ∧ b ≤ x ∧ x < b + 64 * e.2.nodeCount then
      let k := nodeKey e.1 ((x - b) / 64)
      (mget s.cel.nodes k).map (fun n => (nodeRecord s k n, (x - b) % 64))
    else none)

/-- Change a node record. -/
def updNode (s : State) (k : Nat) (f : NodeS → NodeS) : State :=
  { s with cel := { s.cel with nodes := mmod s.cel.nodes k f } }

/-- Take a copy out of its queue, lowering UNITS (R252). -/
def unqueue (s : State) (cp : Nat) : State :=
  match mget s.cel.copies cp with
  | some c =>
    match queueNode s c.queue with
    | some k => updNode s k (fun n => { n with frames := n.frames.filter (· != cp), units := n.units - c.units })
    | none => s
  | none => s

/-- The code under which an aborted copy is dropped before its egress; 0 where it is not aborted. -/
def abortCode (s : State) (c : CopyS) : Nat :=
  if c.dropAs ≠ 0 then c.dropAs else ((mget s.cel.frames c.head).map (·.abortUnsent)).getD 0

/-- Drop a copy that waits in a queue: an aborted one under the abort's code, which it met first (R40, R494). -/
def dropQueued (s : State) (cp reason : Nat) : State :=
  let code := ((mget s.cel.copies cp).map (abortCode s)).getD 0
  dropCopy (unqueue s cp) cp (if code = 0 then reason else code)

/-- Drop every copy of a queue, counting `cnt` for each. -/
def flushQueue (s : State) (qn reason : Nat) (cnt : Option Fld) : State :=
  match (queueNode s qn).bind (fun k => mget s.cel.nodes k) with
  | some n => n.frames.foldl (fun s cp =>
      let s := dropQueued s cp reason
      match cnt with
      | some f => bump s f
      | none => s) s
  | none => s

/-- The queues with a valid reservation on a port. -/
def reservedQueues (s : State) (p : Nat) : List Nat :=
  s.tim.rsv.filterMap (fun e => if e.2.port = p then some e.1 else none)

/-! ### Aborts (R261) -/

/-- Abort a frame: `unsent` names the drop of unsent copies, `stomp` that of stomped copies. -/
def abortFrame (s : State) (head unsent stomp : Nat) : State :=
  match mget s.cel.frames head with
  | some f =>
    let s := bump s (R.celCntCount f.quad 7)
    let s := updCell s f.last (fun c => { c with abort := true })
    let s := updFrame s head (fun f => { f with abortUnsent := unsent, abortStomp := stomp })
    let pend := f.copies.filter (fun cp => ((mget s.cel.copies cp).map (·.st)) == some .pending)
    let s := pend.foldl (fun s cp => dropCopy s cp unsent) s
    match f.phase with
    | .arriving => freeChain (rxDiscard (countDrop s unsent f.inPort) head) head 0
    | .held => updFrame (rxDiscard s head) head (fun f => { f with writer := false })
    | .done => writerRelease (rxDiscard s head) head
  | none => s

end Sys2Proof.Machine
end

