-- ==== Sys2Proof/Machine/TimeOps.lean ====
section
/-!
DEFINITION. Shared operations of the time base and the Shutter (chapter 10): the TIM cycle, validity,
suspension, gate lists and windows.
-/

namespace Sys2Proof.Machine

open Sys2Proof

/-- `a` is at or after `b` on the 32-bit counter. -/
def atOrAfter (a b : Nat) : Bool := decide ((a + 2 ^ 32 - b % 2 ^ 32) % 2 ^ 32 < 2 ^ 31)

/-- `(a − b) mod 2^32`. -/
def nsDiff (a b : Nat) : Nat := (a + 2 ^ 32 - b % 2 ^ 32) % 2 ^ 32

/-- Set a bit of TIM_INT; an enabled bit interrupts the management cores. -/
def timInt (s : State) (f : Fld) : State :=
  let s := wr s f 1
  if bit (rd s R.timIntEn) f.lo then emit s (.coreInt "TIM_INT" f.lo) else s

/-- Set bits of CTR and PENDING at a forward wrap (R266). -/
def pendingUp (s : State) : State :=
  if rd s R.timNowxPending = 255 then wr s R.timNowxRebase 1
  else wr s R.timNowxPending (rd s R.timNowxPending + 1)

/-- One TIM cycle: the counter adds TIM_INCREMENT, TIM_UPTIME advances by 0.8 ns (R263, R266, R267). -/
def timCycle (s : State) : State :=
  let v := nowNs s * 2 ^ 32 + rd s R.timNowFrac + rd s R.timIncrementInc
  let s := wr (wr s R.timNowFrac v) R.timNowNs (v / 2 ^ 32)
  let u := s.tim.upFifths + 4
  let s := wr s R.timUptimeNs (uptime s + u / 5)
  let s := { s with tim := { s.tim with upFifths := u % 5 } }
  if 2 ^ 64 ≤ v then
    timInt (pendingUp { s with tim := { s.tim with netBase := s.tim.netBase + 2 ^ 32 } }) R.timIntWrap
  else s

/-- Move NS by a signed step, FRAC kept; the wrap rules of R266. -/
def stepNs (s : State) (d : Int) : State :=
  let v := (nowNs s : Int) + d
  let s' := wr s R.timNowNs (ibits 32 v)
  let base : Int := (s.tim.netBase : Int) + (v - (ibits 32 v : Int))
  let s' := { s' with tim := { s'.tim with netBase := base.toNat } }
  if (2 ^ 32 : Int) ≤ v then pendingUp s'
  else if v < 0 then
    if 0 < rd s R.timNowxPending then wr s' R.timNowxPending (rd s R.timNowxPending - 1)
    else wr s' R.timNowxRebase 1
  else s'

/-- An absolute set of NS: PENDING clears and REBASE is set (R266, R269). -/
def setNs (s : State) (v net : Nat) : State :=
  let s := wrs s [(R.timNowNs, v), (R.timNowFrac, 0), (R.timNowxPending, 0), (R.timNowxRebase, 1)]
  { s with tim := { s.tim with netBase := net - v % 2 ^ 32 } }

/-- Firmware states network time in a TIME_MARK record (R433). -/
def timeMark (s : State) : State :=
  let t := s.tim.netBase + nowNs s
  journal s 0x0002 0 0 (.num 0) (t / 10 ^ 9) (t % 10 ^ 9)

/-- VALID changes: TIM_INT.VALID_CHG when it differs. -/
def setValid (s : State) (b : Bool) : State :=
  if rdB s R.timStatValid = b then s else syncPins (timInt (wrB s R.timStatValid b) R.timIntValidChg)

/-! ### Gate lists -/

/-- The front port's quadrant and MAC index. -/
def macQ (p : Nat) : Nat := p / 128
def macM (p : Nat) : Nat := p % 128

/-- The list of a front port runs: RUN = 1, VALID = 1 and BASE reached (R283). -/
def listRuns (s : State) (p : Nat) : Bool :=
  decide (p < 512) && rdB s (R.shtPortBaseRun (macQ p) (macM p)) && timeValid s &&
    (mget s.tim.entryEnd p).isSome

/-- The disabled list of R43. -/
def noList : GateList := ⟨0, 0, 0, []⟩

/-- Operating list of a port. -/
def operList (s : State) (p : Nat) : GateList := mgetD s.tim.oper p noList

/-- Gate state while the list does not run: SCHED_TCS closed, the others open (R283). -/
def idleGates (s : State) (p : Nat) : Nat := 0xFFFF ^^^ (operList s p).schedTcs

/-- The first entry from `i` on whose INTERVAL is not 0 (R43, R281), searching at most `fuel`. -/
def nextEntry (l : List (Nat × Nat)) : Nat → Nat → Option Nat
  | 0, _ => none
  | fuel + 1, i =>
    match l[i]? with
    | some e => if e.2 = 0 then nextEntry l fuel (i + 1) else some i
    | none => none

/-- The gate state applied to a port now (R283): an entry's while the list runs. -/
def gatesNow (s : State) (p : Nat) : Nat :=
  if listRuns s p then rd s (R.shtPortStatGates (macQ p) (macM p)) else idleGates s p

/-- No gate bit of the port's SCHED_TCS is open, so the cluster agent may insert a frame (R370). -/
def agentMaySend (s : State) (p : Nat) : Bool := gatesNow s p &&& (operList s p).schedTcs == 0

/-- A Bolvis frame leaves on its peer's port. -/
def bolvisOut (s : State) (e : Nat × Nat × List Byte) : State :=
  emit (bumpBy (bump s (R.ctrPortCount e.2.1 2)) (R.ctrPortCount e.2.1 3) e.2.2.length) (.bolvis e.1 e.2.2)

/-- The agent's frames whose ports let them leave now do so, in order (R370). -/
def bolvisFlush (s : State) : State :=
  let q := s.clu.outq
  (q.filter (fun e => agentMaySend s e.2.1)).foldl bolvisOut
    { s with clu := { s.clu with outq := q.filter (fun e => !agentMaySend s e.2.1) } }

/-- What passes while no command waits: one TIM cycle, except without power and in a completed freeze (R456); the
cluster agent's waiting frames leave as the gates let them. -/
def idleStep (s : State) : Res := whenPowered s (.next (bolvisFlush (timCycle s)))

/-- Write the gate state of a port. -/
def setGates (s : State) (p g : Nat) : State := wr s (R.shtPortStatGates (macQ p) (macM p)) g

/-- The admission windows that start with the cycle: USED of the port's reservations with ADM_OFF 0 is
handled by ADMISSION_WINDOW_START; here entry `i` of the operating list applies from counter value `t`. -/
def applyEntry (s : State) (p i t : Nat) : State :=
  match (operList s p).entries[i]? with
  | some e =>
    let s := wr (setGates s p e.1) (R.shtPortStatEntry (macQ p) (macM p)) i
    { s with tim := { s.tim with entryEnd := mset s.tim.entryEnd p ((t + e.2) % 2 ^ 32) } }
  | none => s

/-- Show an operating list in SHT_PORT_CFG. -/
def showList (s : State) (p : Nat) (l : GateList) : State :=
  let q := macQ p
  let m := macM p
  let s := { s with tim := { s.tim with oper := mset s.tim.oper p l } }
  wrs s [(R.shtPortCfgCycleNs q m, l.cycle), (R.shtPortCfgSchedTcs q m, l.schedTcs),
    (R.shtPortCfgEntries q m, l.entries.length)]

/-- The list of a port stops running. One that awaits its change time becomes operating at once, as one written to a
port whose list does not run does (R284; DEDUCED, log 46). -/
def stopList (s : State) (p : Nat) : State :=
  let s := { s with tim := { s.tim with entryEnd := mdel s.tim.entryEnd p } }
  let s := if rdB s (R.shtPortPendPending (macQ p) (macM p)) then
      wr (showList s p (mgetD s.tim.admBank p noList)) (R.shtPortPendPending (macQ p) (macM p)) 0
    else s
  setGates s p (idleGates s p)

/-- Suspend one port's list (R271): RUN := 0, gates of SCHED_TCS close, reserved queues are flushed with 0x12. -/
def suspendPort (s : State) (p : Nat) : State :=
  let s := stopList (wr s (R.shtPortBaseRun (macQ p) (macM p)) 0) p
  let s := (reservedQueues s p).foldl (fun s q => flushQueue s q 0x12 (some (R.shtCntCount (macQ p) 5))) s
  emit s (.coreInt "LIST_SUSPENDED" p)

/-- Suspend every running list (R271). -/
def suspendLists (s : State) : State :=
  let ps := (s.tim.oper.map (·.1)).filter (fun p => rdB s (R.shtPortBaseRun (macQ p) (macM p)))
  let s := ps.foldl suspendPort s
  timInt s R.timIntSuspend

/-- Gates and durations of a list's entries, from entry `i` on for one cycle. -/
def cycleFrom (l : GateList) (i : Nat) : List (Nat × Nat) := l.entries.drop i ++ l.entries.take i

/-- The time until bit `tc` next closes along a run of entries, the first of which lasts `rem`. -/
def closeIn (tc : Nat) : List (Nat × Nat) → Nat → Option Nat
  | [], _ => none
  | e :: es, acc => if e.2 ≠ 0 ∧ bit e.1 tc = false then some acc else closeIn tc es (acc + e.2)

/-- Cut a run of entries after `t` ns. -/
def cutRun : List (Nat × Nat) → Nat → List (Nat × Nat)
  | [], _ => []
  | e :: es, t => if t ≤ e.2 then [(e.1, t)] else e :: cutRun es (t - e.2)

/-- Time in ns until the gate of `tc` on port `p` next closes; none if it does not close (R285). With RUN set and BASE
to come, the gates of the idle list stand until BASE (R283). -/
def nextClose (s : State) (p tc : Nat) : Option Nat :=
  let q := macQ p
  let m := macM p
  let l := operList s p
  if listRuns s p then
    let i := rd s (R.shtPortStatEntry q m)
    let rem := nsDiff (mgetD s.tim.entryEnd p 0) (nowNs s)
    let run := match cycleFrom l i with
      | e :: es => (e.1, rem) :: (es ++ cycleFrom l i)
      | [] => []
    let run := if rdB s (R.shtPortPendPending q m) then
        cutRun run (nsDiff (rd s (R.shtPortPendChangeAt q m)) (nowNs s)) ++ (mgetD s.tim.admBank p noList).entries
      else run
    closeIn tc run 0
  else if p < 512 ∧ rdB s (R.shtPortBaseRun q m) ∧ timeValid s ∧ l.cycle ≠ 0 then
    let base := rd s (R.shtPortBaseBase q m)
    let wait := if atOrAfter (nowNs s) base then 0 else nsDiff base (nowNs s)
    closeIn tc ((idleGates s p, wait) :: (l.entries ++ l.entries)) 0
  else none

/-- Port rate in Gbit/s from the speed code (R52). -/
def rateGbps (speed : Nat) : Nat :=
  match speed with
  | 1 => 100 | 2 => 200 | 3 => 400 | 4 => 800 | 5 => 1600 | _ => 50

/-- `T(L) ≤ t`: the transmission time of `len` bytes fits `t` ns (R285). -/
def fitsIn (speed len t : Nat) : Bool := decide ((len + 20) * 8 ≤ t * rateGbps speed)

/-- The admission window of a reservation has been reached in the cycle in progress, and has not yet started for it
(R287). -/
def windowDue (s : State) (r : RsvS) : Bool :=
  let c := rd s (R.shtPortStatCycleStart (macQ r.port) (macM r.port))
  listRuns s r.port && decide (r.admOff ≤ nsDiff (nowNs s) c) && r.started != some c

/-- The reservation with its due window started: USED returns to 0. -/
def startWindow (s : State) (r : RsvS) : RsvS :=
  if windowDue s r then
    { r with used := 0, started := some (rd s (R.shtPortStatCycleStart (macQ r.port) (macM r.port))) }
  else r

/-! ### The SyncE outputs (R279) -/

/-- SYNCE_OUT[i] is held low by what the registers say: DIV is 0, or its port's link is down. -/
def synceHeld (s : State) (i : Nat) : Bool :=
  rd s (R.timSynceDiv i) == 0 || rd s (R.timSyncePort i) ≥ 512 || rd s (R.pwrPortState (rd s (R.timSyncePort i))) != 2

/-- Hold or release SYNCE_OUT[i]. -/
def squelch (s : State) (i : Nat) (low : Bool) : State :=
  let s := wrB s (R.timSynceSquelched i) low
  if low then emit s (.pin (if i = 0 then "SYNCE_OUT0" else "SYNCE_OUT1") false) else s

/-- The outputs that have to be held low are. -/
def followSynce (s : State) : State :=
  (List.range 2).foldl (fun s i => if synceHeld s i && !rdB s (R.timSynceSquelched i) then squelch s i true else s) s

/-- The link of a front port goes down: PWR_PORT.STATE becomes `v`. -/
def linkLost (s : State) (p v : Nat) : State := followSynce (wr s (R.pwrPortState p) v)

/-- D of R288. -/
def rsvD (r : RsvS) (cycle : Nat) : Nat :=
  if cycle = 0 then 0 else (r.egrOff + 2 * cycle - (r.admOff + r.admLen)) % cycle

/-- The cycle start in which a frame arrived: S or S′ (R287). -/
def cycleOf (s : State) (p ts : Nat) : Nat :=
  let S := rd s (R.shtPortStatCycleStart (macQ p) (macM p))
  if nsDiff ts S < 2 ^ 31 then S else mgetD s.tim.prevStart p 0

end Sys2Proof.Machine
end

