-- ==== Sys2Proof/Machine/TakeOps.lean ====
section
/-!
DEFINITION. Shared operations of the take controller (R90–R97, R497): the phase it shows and the
cancellation of a timed commit.
-/

namespace Sys2Proof.Machine

open Sys2Proof

/-- A commit is settling from acceptance (immediate) or from the switch (timed) until OLD_LIVE is 0 (R497). -/
def isSettling (s : State) : Bool := s.take.accepted.isSome || rdB s R.stgTakeStatOldLive

/-- STG_TAKE_STAT.PHASE: 4 settling, 3 draining, 2 timed commit pending, 1 staging, 0 none. -/
def takePhase (s : State) : Nat :=
  if s.take.settling then 4
  else if s.take.accepted.isSome || rdB s R.stgTakeStatOldLive then 3
  else if s.take.timed.isSome then 2
  else if 0 < rd s R.stgTakeStagedChanges then 1 else 0

/-- Keep PHASE equal to what it shows. -/
def syncPhase (s : State) : State := wr s R.stgTakeStatPhase (takePhase s)

/-- A cluster commit's own record of a cancelled commit (R382). -/
def cluCancelled (s : State) : State :=
  wrStat (wr s R.cluCommitStatPhase 5) R.cluCommitStatStatus .aborted

/-- Cancel a pending timed commit with ABORTED; the staged changes stay staged (R94). -/
def cancelTimed (s : State) : State :=
  match s.take.timed with
  | some t =>
    let s := if s.take.cluster then cluCancelled s else s
    let s := { s with take := { s.take with timed := none, cluster := false } }
    syncPhase (journal s 0x0030 1 (rd s R.stgTakeActActTake) (.code .aborted) t (nowNs s))
  | none => s

/-- Nanoseconds from now to t_act of the pending commit; negative once it has passed (R94, R96). -/
def timedRemaining (s : State) : Int := sbits 32 (nsDiff (s.take.timed.getD (nowNs s)) (nowNs s))

/-- What VALID's fall or an absolute set cancels: a timed commit whose t_act has not passed (R94). One that waits past
its t_act for the previous take to settle goes on (R96). -/
def cancelBefore (s : State) : State := if 0 < timedRemaining s then cancelTimed s else s

/-- A commit whose t_act had passed before the counter moved stays due (R96). -/
def keepDue (due : Bool) (s : State) : State :=
  if due then { s with take := { s.take with timed := s.take.timed.map (fun _ => nowNs s) } } else s

/-- A timed commit waits past its t_act (R96). -/
def pastDue (s : State) : Bool := s.take.timed.isSome && decide (timedRemaining s ≤ 0)

/-- Stamping switches to the next take (R90, R95): the older one drains. `t` is what STG_TAKE_DONE records. -/
def switchTake (s : State) (t : Nat) : State :=
  let cur := rd s R.stgTakeStatCur
  let s := wrs s [(R.stgTakeStatOld, cur), (R.stgTakeStatCur, cur + 1), (R.stgTakeStatOldLive, 1),
    (R.stgTakeDoneDoneTime, t), (R.stgTakeDoneTake, cur + 1)]
  syncPhase { s with take := { s.take with accepted := none, drainSince := some (uptime s), settling := false } }

/-- The counter has reached `t`. -/
def reached (s : State) (t : Nat) : Bool := atOrAfter (nowNs s) t

/-- An armed cluster commit activates: LAST_ID becomes its id (R382). -/
def cluActivated (s : State) : State :=
  wrs s [(R.cluCommitStatPhase, 4), (R.cluCommitActLastId, rd s R.cluCommitStatCommitId)]

/-- A due commit switches, a cluster commit only once it is armed (R382), unless a timed one must wait for the
previous take to settle (R90, R96). -/
def activateDue (s : State) (stamp : Nat → Nat) : State :=
  match s.take.accepted with
  | some t => if reached s t then switchTake s (stamp t) else s
  | none =>
    match s.take.timed with
    | some t =>
      if reached s t && !rdB s R.stgTakeStatOldLive then
        if s.take.cluster && rd s R.cluCommitStatPhase != 3 then cancelTimed s
        else
          let s := if s.take.cluster then cluActivated s else s
          switchTake { s with take := { s.take with timed := none, cluster := false } } (stamp t)
      else s
    | none => s

/-- A step that carries the counter past t_act activates the take at the step (R94). -/
def stepTime (s : State) (d : Int) : State :=
  let s := keepDue (pastDue s) (stepNs s d)
  activateDue s (fun _ => nowNs s)

/-- The hold timer reaches HOLD_S (R268): VALID and SOURCE fall, a pending timed commit is cancelled, lists
are suspended. -/
def holdExpired (s : State) : State :=
  let s := { s with tim := { s.tim with holdStart := none } }
  let s := setValid (wrs s [(R.timStatSource, 0), (R.timStatState, 0)]) false
  suspendLists (cancelBefore s)

/-- HOLDOVER is entered; HOLD_S = 0 ends it at once (R268). -/
def enterHoldover (s : State) : State :=
  let s := wr { s with tim := { s.tim with holdStart := some (uptime s) } } R.timStatState 2
  if rd s R.timCfgHoldS = 0 then holdExpired s else s

end Sys2Proof.Machine
end

