-- ==== Sys2Proof/Machine/SafetyOps.lean ====
section
/-!
DEFINITION. Shared operations of the safety monitor (R415–R422): detecting and clearing a fault, and the
reaction that enters SAFE.
-/

namespace Sys2Proof.Machine

open Sys2Proof

/-- Drop every frame that waits in a reserved queue with 0x17 (R418 step 2). -/
def dropReserved (s : State) : State :=
  (s.tim.rsv.map (·.1)).foldl (fun s q => flushQueue s q 0x17 none) s

/-- The reaction of R418: MODE becomes SAFE, reserved queues are emptied, a splice pauses, firmware posts
its records and a notice. -/
def enterSafe (s : State) (code unit detail : Nat) : State :=
  let splice := modeIn s [.splice]
  let s := bump (setMode s .safe) (R.safCntCount 4)
  let s := if splice then wr s R.modStatSplicePaused 1 else s
  let s := dropReserved s
  let s := journal s 0x0040 3 unit (.num code) detail 0
  let s := journal s 0x0042 3 0 (.num code) (rd s R.safFaultFault) 0
  notice s (toLe 1 code)

/-- A class-S fault in the freeze controller's mask requests trigger 4, with the fault code as its unit (R454). -/
def freezeOnFault (s : State) (code : Nat) : Bool :=
  rdB s R.frzCfgSafetyEn && bit (rd s R.frzCfgSafetyMask) code && freezable s

/-- Source `code` fires at `unit` (R415–R418). -/
def raiseFault (s : State) (code unit detail : Nat) : State :=
  let s := if rd s R.safFaultFault = 0 then
      wrs s [(R.safFirstCode, code), (R.safFirstUnit, unit), (R.safFirstUptimeUs, uptimeUs s)] else s
  let s := wr s R.safFaultFault (setBit (rd s R.safFaultFault) code)
  let s := bump s (R.safCntCount (if classS code then 2 else 3))
  if classS code && freezeOnFault s code then
    syncPins (setTrigger s 4 code)
  else if modeIn s [.reset] then
    syncPins { s with saf := { s.saf with unposted := s.saf.unposted ++ [(code, unit, detail)] } }
  else if classS code && modeIn s [.sync, .serve, .splice] then enterSafe s code unit detail
  else if modeIn s [.safe, .freeze] then syncPins s
  else syncPins (journal s 0x0040 (if classS code then 3 else 2) unit (.num code) detail 0)

/-- The watchdog of management core 32 + `c` begins to count: a KICK, or the core's firmware starts. -/
def startWdt (s : State) (c : Nat) : State :=
  { s with saf := { s.saf with wdtAt := mset s.saf.wdtAt c (uptime s) } }

/-- A standing condition begins: its source fires, and does not clear while the condition holds (R416). -/
def standFault (s : State) (code unit detail : Nat) : State :=
  let st := s.saf.standing
  let s := if st.contains (code, unit) then s else { s with saf := { s.saf with standing := st ++ [(code, unit)] } }
  raiseFault s code unit detail

/-- Some standing condition of a code holds. -/
def standsAny (s : State) (code : Nat) : Bool := s.saf.standing.any (fun e => e.1 == code)

/-- A fault bit clears, and the device journals it (R416). -/
def clearFault (s : State) (code unit : Nat) : State :=
  if bit (rd s R.safFaultFault) code then
    let s := wr s R.safFaultFault (clrBit (rd s R.safFaultFault) code)
    syncPins (journal s 0x0041 0 unit (.num code) 0 0)
  else s

/-- A standing condition ends; the bit clears by itself when no other stands (R416). Code 20 stays while an
uncorrectable read has set it since its last clearing. -/
def endStanding (s : State) (code unit : Nat) : State :=
  let s := { s with saf := { s.saf with standing := s.saf.standing.filter (· != (code, unit)) } }
  if standsAny s code || (code == 20 && s.saf.uncRead) then s else clearFault s code unit

end Sys2Proof.Machine
end

