-- ==== Sys2Proof/Machine/TableOps.lean ====
section
/-!
DEFINITION. Shared operations of the forwarding tables and the care-mask banks (chapters 4 and 5):
declarations, storage images and their change records, bucket arrays, overflow stores, LPM prefixes with
their filter, care-mask placement, and lookups.
-/

namespace Sys2Proof.Machine

open Sys2Proof

/-! ### Declarations (R115–R117, R423) -/

/-- The table entry at byte `o` of a table declarations section. -/
def tblDeclAt (b : List Byte) (o : Nat) : TblDecl :=
  let f := fieldLe b (o + 2) 1
  { num := fieldLe b o 2, kind := bits f 0 4, v6 := bit f 4, learn := bit f 5, egress := bit f 6,
    quads := bits (fieldLe b (o + 3) 1) 0 4, keyLen := fieldLe b (o + 4) 2, sizeLog2 := fieldLe b (o + 6) 1,
    classes := fieldLe b (o + 7) 1, seed0 := fieldLe b (o + 8) 4, seed1 := fieldLe b (o + 12) 4,
    ageMs := fieldLe b (o + 16) 4, conMs := fieldLe b (o + 20) 4, lk0 := fieldLe b (o + 24) 4,
    lk1 := fieldLe b (o + 28) 4, learnAfter := fieldLe b (o + 32) 1 }

/-- The declared tables. -/
def tblDecls (b : List Byte) : List TblDecl :=
  (List.range (fieldLe b 0 2)).map (fun i => tblDeclAt b (0x20 + 48 * i))

/-- The witness table as a declaration (R423). -/
def witnessDecl (s : State) : TblDecl :=
  { num := 256, kind := 1, v6 := false, learn := false, egress := true, quads := 15, keyLen := 53,
    sizeLog2 := 15, classes := 0, seed0 := fieldLe (sec s 0xB 0) 4 4, seed1 := fieldLe (sec s 0xB 0) 8 4,
    ageMs := 0, conMs := 0, lk0 := 0, lk1 := 0, learnAfter := 0 }

/-- The declaration of table `t`. -/
def tblDecl (s : State) (t : Nat) : Option TblDecl :=
  if t = 256 then some (witnessDecl s) else (tblDecls (sec s 5 0)).find? (fun d => d.num == t)

/-- Table `t` is in the safety scope (R413, R423). -/
def inScope (s : State) (t : Nat) : Bool :=
  t == 256 || (decide (t < 256) && bit (fieldLe (sec s 0xB 0) (0x10 + t / 8) 1) (t % 8))

/-- The quadrants that hold a replica. -/
def quadsOf (d : TblDecl) : List Nat := (List.range 4).filter (fun q => bit d.quads q)

/-- Slots of 16 bytes an exact-match entry takes (R121). -/
def emW (keyLen : Nat) : Nat := if keyLen ≤ 64 then 1 else if keyLen ≤ 160 then 2 else 4

/-- Slots per 64-byte bucket and bytes per slot (R121, R127). -/
def spb (d : TblDecl) : Nat := if d.kind = 2 ∧ !d.v6 then 8 else 4
def slotBytes (d : TblDecl) : Nat := 64 / spb d

/-- Address width of an LPM table. -/
def lpmW (d : TblDecl) : Nat := if d.v6 then 128 else 32

/-- Bytes hashed for a key (R122, R126). -/
def keyBytes (d : TblDecl) (key : Nat) : List Byte :=
  if d.kind = 2 then toLe 2 (key % 2 ^ 14) ++ toLe (if d.v6 then 17 else 5) (key / 2 ^ 14)
  else toLe (cdiv d.keyLen 8) key

/-- The two candidate buckets of a key. -/
def bucket0 (d : TblDecl) (key : Nat) : Nat := crc32c d.seed0 (keyBytes d key) % 2 ^ d.sizeLog2
def bucket1 (d : TblDecl) (key : Nat) : Nat := crc32c d.seed1 (keyBytes d key) % 2 ^ d.sizeLog2

/-- The first slots of a bucket's aligned positions for entries of `w` slots. -/
def bucketSlots (d : TblDecl) (b w : Nat) : List Nat := (List.range (spb d / w)).map (fun i => b * spb d + i * w)

/-- Every slot of both candidate buckets, b0 first. -/
def candSlots (d : TblDecl) (key : Nat) : List Nat :=
  bucketSlots d (bucket0 d key) 1 ++ (if bucket0 d key = bucket1 d key then [] else bucketSlots d (bucket1 d key) 1)

/-! ### Care-mask banks (R98–R103) -/

/-- Role, table and width code of bank `b` of quadrant `q`. -/
def bankRole (s : State) (q b : Nat) : Nat := rd s (R.cmsBankRole q b)
def bankWidth (s : State) (q b : Nat) : Nat := rd s (R.cmsBankWidth q b)

/-- The banks of a table with a role, in a quadrant. -/
def banksOf (s : State) (t role q : Nat) : List Nat :=
  (List.range 32).filter (fun b => bankRole s q b == role && rd s (R.cmsBankTable q b) == t)

/-- Slots of a bank of width code `w`. -/
def bankSlots (w : Nat) : Nat := 4096 / 2 ^ w

/-- The entries of a bank by slot. -/
def bank (s : State) (q b : Nat) : NMap CmsE := mgetD s.tab.cms (32 * q + b) []

/-! ### Storage images (R139) -/

/-- The 16- or 8-byte slots of a bucket entry, HIT and STAMP as 0 (R121, R127). -/
def entBytes (d : TblDecl) (e : TEnt) : List Byte :=
  if d.kind = 2 then
    let vrf := e.key % 2 ^ 14
    let pfx := e.key / 2 ^ 14
    if d.v6 then
      let w0 := 1 + e.gen * 2 + b2n (decide (e.w = 2)) * 8 + vrf * 16 + e.action * 2 ^ 18
      toLe 4 w0 ++ toLe 9 (pfx / 2 ^ 64) ++ [0, 0, 0] ++
        (if e.w = 2 then toLe 8 pfx ++ List.replicate 8 0 else [])
    else toLe 8 (1 + e.gen * 2 + vrf * 8 + pfx * 2 ^ 17 + e.action * 2 ^ 50)
  else
    let wc := if e.w = 1 then 0 else if e.w = 2 then 1 else 2
    let ctl := 1 + e.gen * 2 + wc * 16 + b2n e.learned * 64 + b2n e.static * 128
    (upFrom 1 (e.w - 1)).foldl (fun a k =>
      a ++ toLe 12 (e.key / 2 ^ (96 * k - 32)) ++ toLe 4 (e.action / 2 ^ (32 * k)))
      (toLe 8 e.key ++ toLe 4 e.action ++ toLe 4 ctl)

/-- What the words of a care-mask slot hold: its entry, or the last one, whose VALID is 0 (R110, R111). -/
def slotWords (s : State) (q b slot : Nat) : Option (Bool × CmsE) :=
  match mget (bank s q b) slot with
  | some e => some (true, e)
  | none => (mget (mgetD s.tab.cmsOld (32 * q + b) []) slot).map (fun e => (false, e))

/-- The 32-byte slice word `k` of a slot of width code `w` (R100); a slice that no entry has used reads zero with its
CHECK (log 41). -/
def sliceBytes (e : Option (Bool × CmsE)) (w k : Nat) : List Byte :=
  let body := match e with
    | some (v, e) =>
      toLe 10 (e.value / 2 ^ (80 * k)) ++ toLe 10 (e.mask / 2 ^ (80 * k)) ++
        toLe 1 ((if k = 0 then b2n v + e.gen * 2 else 0) + w * 8 + k * 32) ++
        toLe 2 (if k = 0 then e.len else 0) ++ [0]
    | none => List.replicate 24 0
  body ++ toLe 2 (crc16 body) ++ List.replicate 6 0

/-- The entry that covers a slot of a bucket array, and the slot's place in it. -/
def entAt (m : NMap TEnt) (slot : Nat) : Option (TEnt × Nat) :=
  (List.range 4).findSome? (fun k =>
    if k ≤ slot then
      match mget m (slot - k) with
      | some e => if k < e.w then some (e, k) else none
      | none => none
    else none)

/-- Class of a VRF (R129). -/
def classOf (s : State) (t vrf : Nat) : Nat := mgetD (mgetD s.tab.cmap t []) vrf 0

/-- Leading bits of a prefix: PFX of length `len` as an integer of `len` bits (R126). -/
def pfxBits (w len pfx : Nat) : Nat := pfx / 2 ^ (w - len) / 2

/-- PFX of an address and a length (R126). -/
def pfxOf (w len a : Nat) : Nat := (a / 2 ^ (w - len) * 2 + 1) * 2 ^ (w - len)

/-- An LPM entry covers filter cell `x` of its class (R129). -/
def coversCell (w : Nat) (e : TEnt) (x : Nat) : Bool :=
  let p := pfxBits w e.len (e.key / 2 ^ 14)
  if e.len ≤ 16 then x / 2 ^ (16 - e.len) == p else p / 2 ^ (e.len - 16) == x

/-- The entry is assigned to cell `(c, x)` for takes of parity `p` (R129). -/
def assigned (s : State) (d : TblDecl) (p c x : Nat) (e : TEnt) : Bool :=
  bit e.gen p && classOf s d.num (e.key % 2 ^ 14) == c && coversCell (lpmW d) e x && !e.unas.contains ((c * 65536 + x) * 2 + p)

/-- The bitmap of parity `p` of cell `(c, x)` (R129). -/
def filterBits (s : State) (d : TblDecl) (p c x : Nat) : Nat :=
  (mgetD s.tab.bkt d.num []).foldl (fun v e => if assigned s d p c x e.2 then setBit v e.2.len else v) 0

/-- Bytes up to the next 4 KiB boundary. -/
def align4k (n : Nat) : Nat := cdiv n 4096 * 4096

/-- Bytes of the bucket or entry array. -/
def arrayBytes (d : TblDecl) : Nat :=
  if d.kind = 4 then 32 * 2 ^ d.keyLen else if d.kind = 3 then 0 else 64 * 2 ^ d.sizeLog2

/-- Offset of the LPM result array, class map and length filter, and of the care-mask banks (R139). -/
def resOff (d : TblDecl) : Nat := align4k (arrayBytes d)
def cmapOff (d : TblDecl) : Nat := resOff d + 262144
def filterOff (d : TblDecl) : Nat := cmapOff d + 16384
def banksOff (d : TblDecl) : Nat :=
  if d.kind = 2 then filterOff d + d.classes * 4194304 else resOff d

/-- The care-mask banks of a table in storage-image order (R139). -/
def imageBanks (s : State) (d : TblDecl) : List (Nat × Nat) :=
  (quadsOf d).foldl (fun a q =>
    a ++ ((List.range 32).filter (fun b =>
      (bankRole s q b == 1 || bankRole s q b == 2) && rd s (R.cmsBankTable q b) == d.num)).map (fun b => (q, b))) []

/-- Bytes one bank takes in a storage image. -/
def bankImage : Nat := 4096 * 32 + 4096 * 16

/-- Offset of a bank in its table's storage image. -/
def bankOff (s : State) (d : TblDecl) (q b : Nat) : Nat :=
  banksOff d + (((imageBanks s d).findIdx? (fun x => x == (q, b))).getD 0) * bankImage

/-- Action word `a` of a bank (R101); one that no entry has used reads zero (log 41). -/
def actionWord (s : State) (q b a : Nat) : Nat :=
  let w := bankWidth s q b
  if a % 2 ^ w = 0 then ((slotWords s q b (a / 2 ^ w)).map (·.2.action)).getD 0 else 0

/-- Byte `o` of a bank's part of a storage image. -/
def bankByte (s : State) (q b o : Nat) : Byte :=
  let w := bankWidth s q b
  if o < 4096 * 32 then
    let a := o / 32
    (sliceBytes (slotWords s q b (a / 2 ^ w)) w (a % 2 ^ w)).getD (o % 32) 0
  else
    (toLe 16 (actionWord s q b ((o - 4096 * 32) / 16))).getD (o % 16) 0

/-- Byte `o` of the storage image of a table (R139). -/
def imageByte (s : State) (d : TblDecl) (o : Nat) : Byte :=
  if o < arrayBytes d then
    if d.kind = 4 then
      match mget (mgetD s.tab.dir d.num []) (o / 32) with
      | some (e :: _) => (toLe 16 e.action ++ toLe 1 (1 + e.gen * 2)).getD (o % 32) 0
      | _ => (toLe 32 (mgetD (mgetD s.tab.dirOld d.num []) (o / 32) 0)).getD (o % 32) 0
    else
      match entAt (mgetD s.tab.bkt d.num []) (o / slotBytes d) with
      | some (e, k) => (entBytes d e).getD (k * slotBytes d + o % slotBytes d) 0
      | none => (toLe 16 (mgetD (mgetD s.tab.bktOld d.num []) (o / slotBytes d) 0)).getD (o % slotBytes d) 0
  else if o < resOff d then 0
  else if d.kind = 2 ∧ o < cmapOff d then
    let i := (o - resOff d) / 16
    (toLe 16 (mgetD (mgetD s.tab.res d.num []) i 0)).getD (o % 16) 0
  else if d.kind = 2 ∧ o < filterOff d then BitVec.ofNat 8 (classOf s d.num (o - cmapOff d))
  else if d.kind = 2 ∧ o < banksOff d then
    let i := o - filterOff d
    let cell := i / 64
    (toLe 32 (filterBits s d (i / 32 % 2) (cell / 65536) (cell % 65536))).getD (i % 32) 0
  else
    match (imageBanks s d)[(o - banksOff d) / bankImage]? with
    | some (q, b) => bankByte s q b ((o - banksOff d) % bankImage)
    | none => 0

/-- Bytes of a whole storage image. -/
def imageLen (s : State) (d : TblDecl) : Nat := banksOff d + (imageBanks s d).length * bankImage

/-- `n` bytes of a storage image from offset `o`. -/
def imageBytes (s : State) (d : TblDecl) (o n : Nat) : List Byte := (upFrom o n).map (imageByte s d)

/-! ### Change records (R140) -/

/-- FWD_TBL_SEQ[t], or FWD_WIT_SEQ for the witness table. -/
def tblSeq (t : Nat) : Fld := if t = 256 then R.fwdWitSeqSeq else R.fwdTblSeqSeq t

/-- FWD_TBL_CNT[t][k] advances; the witness table has no counters. -/
def tblCnt (s : State) (t k : Nat) : State := if t < 256 then bump s (R.fwdTblCntCount t k) else s

/-- The placement records of one changed range, at most 48 bytes each. -/
def placeRecs (s : State) (d : TblDecl) (quads cause off len : Nat) : State :=
  (List.range (cdiv len 48)).foldl (fun s i =>
    let n := min 48 (len - 48 * i)
    let data := imageBytes s d (off + 48 * i) n
    postEvent s 2 0 true (toLe 8 (rd s (tblSeq d.num)) ++ toLe 2 d.num ++ toLe 1 (quads + 16 * cause) ++
      toLe 1 n ++ toLe 4 (off + 48 * i) ++ slice data 0 48)
      (if d.num < 256 then some (R.fwdTblCntCount d.num 9) else none)) s

/-- One change of a storage image: its sequence number advances and it is reported (R140). -/
def report (s : State) (d : TblDecl) (quads cause : Nat) (ranges : List (Nat × Nat)) : State :=
  let s := wr s (tblSeq d.num) (rd s (tblSeq d.num) + 1)
  let s := { s with tab := { s.tab with log := s.tab.log ++ ranges.map (fun r => (d.num, quads, r.1, r.2)) } }
  ranges.foldl (fun s r => placeRecs s d quads cause r.1 r.2) s

/-! ### Bucket arrays (R121–R124, R126) -/

/-- The bucket array of a table. -/
def bkt (s : State) (t : Nat) : NMap TEnt := mgetD s.tab.bkt t []

/-- Write the bucket array of a table; FWD_TBL_STAT.USED counts its entries. -/
def setBkt (s : State) (t : Nat) (m : NMap TEnt) : State :=
  let s := { s with tab := { s.tab with bkt := mset s.tab.bkt t m } }
  if t < 256 then wr s (R.fwdTblStatUsed t) m.length else s

/-- The filter cells a prefix covers. -/
def cellsOf (len p : Nat) : List Nat :=
  if len ≤ 16 then upFrom (p * 2 ^ (16 - len)) (2 ^ (16 - len)) else [p / 2 ^ (len - 16)]

/-- Ranges of the storage image that an entry at a slot decides: its slots, and the filter cells of an LPM
entry. -/
def entRanges (s : State) (d : TblDecl) (slot : Nat) (e : TEnt) : List (Nat × Nat) :=
  (slot * slotBytes d, e.w * slotBytes d) ::
    (if d.kind = 2 then
      (cellsOf e.len (pfxBits (lpmW d) e.len (e.key / 2 ^ 14))).map (fun x =>
        (filterOff d + (classOf s d.num (e.key % 2 ^ 14) * 65536 + x) * 64, 64))
    else [])

/-- GEN of a freed entry: a move, a promotion and a repair clear VALID alone, and so does a deletion outside takes; what
settles, or what its own take frees, has GEN = 0b00 (R92, R96, R111). -/
def freedGen (cause gen : Nat) : Nat := if cause = 1 ∨ cause = 5 ∨ cause = 6 ∨ gen = 3 then gen else 0

/-- Bit of an entry's first slot that is VALID (R121, R127). -/
def validBit (d : TblDecl) : Nat := if d.kind = 2 then 0 else 96

/-- Change what the free slots of a table still hold. -/
def setBktOld (s : State) (t : Nat) (m : NMap Nat) : State :=
  { s with tab := { s.tab with bktOld := mset s.tab.bktOld t m } }

/-- The slots of a cleared entry keep their bytes, VALID apart (R89). -/
def keepFreed (s : State) (d : TblDecl) (slot : Nat) (e : TEnt) : State :=
  let b := entBytes d e
  setBktOld s d.num ((List.range e.w).foldl (fun m k =>
    let v := leNat (slice b (k * slotBytes d) (slotBytes d))
    mset m (slot + k) (if k = 0 then clrBit v (validBit d) else v)) (mgetD s.tab.bktOld d.num []))

/-- Write an entry at a slot. -/
def putEnt (s : State) (d : TblDecl) (slot : Nat) (e : TEnt) (cause : Nat) : State :=
  let s := setBktOld s d.num ((List.range e.w).foldl (fun m k => mdel m (slot + k)) (mgetD s.tab.bktOld d.num []))
  report (setBkt s d.num (mset (bkt s d.num) slot e)) d d.quads cause (entRanges s d slot e)

/-- Clear VALID of the entry at a slot. -/
def delEnt (s : State) (d : TblDecl) (slot : Nat) (cause : Nat) : State :=
  match mget (bkt s d.num) slot with
  | some e =>
    let s := keepFreed s d slot { e with gen := freedGen cause e.gen }
    report (setBkt s d.num (mdel (bkt s d.num) slot)) d d.quads cause (entRanges s d slot e)
  | none => s

/-- A position of `w` slots is free. -/
def posFree (m : NMap TEnt) (slot w : Nat) : Bool :=
  (List.range w).all (fun k => (entAt m (slot + k)).isNone)

/-- The first free aligned position for `w` slots in a bucket. -/
def freePos (s : State) (d : TblDecl) (b w : Nat) : Option Nat :=
  (bucketSlots d b w).find? (fun p => posFree (bkt s d.num) p w)

/-- The bucket of `key` other than `b`. -/
def otherBucket (d : TblDecl) (key b : Nat) : Nat := if bucket0 d key = b then bucket1 d key else bucket0 d key

/-- The first entry, of whatever width, that stands in the position of `w` slots at `p`. -/
def blocker (m : NMap TEnt) (p w : Nat) : Option (Nat × TEnt) :=
  (List.range w).findSome? (fun k => (entAt m (p + k)).map (fun x => (p + k - x.2, x.1)))

/-- Clear the position of `w` slots at `p` with at most `n` moves, each taking an entry to its other candidate bucket,
where a position is cleared for it in turn (R123 step 3). Answers the moves in the order they are made, and the array
behind them. -/
def clearPos (d : TblDecl) : Nat → Nat → NMap TEnt → Nat → Nat → Option (List (Nat × Nat) × NMap TEnt)
  | 0, _, m, p, w => if (blocker m p w).isNone then some ([], m) else none
  | fuel + 1, n, m, p, w =>
    match blocker m p w with
    | none => some ([], m)
    | some (r, e) =>
      let b := otherBucket d e.key (r / spb d)
      if n = 0 ∨ b = r / spb d then none
      else (bucketSlots d b e.w).findSome? (fun t =>
        (clearPos d fuel (n - 1) m t e.w).bind (fun x =>
          if mget x.2 r = some e ∧ (blocker x.2 t e.w).isNone then
            (clearPos d fuel (n - 1 - x.1.length) (mset (mdel x.2 r) t e) p w).map (fun y =>
              (x.1 ++ (r, t) :: y.1, y.2))
          else none))

/-- The shortest chain of at most `depth` moves that frees a position of `w` slots in one of the buckets (R123). -/
def kickSearch (s : State) (d : TblDecl) (w depth : Nat) (bs : List Nat) : Option (List (Nat × Nat)) :=
  (upFrom 1 depth).findSome? (fun n =>
    bs.findSome? (fun b => (bucketSlots d b w).findSome? (fun p =>
      (clearPos d (2 * n) n (bkt s d.num) p w).map (·.1))))

/-- One move of R123: the copy is written with HIT = 1, then the old one is cleared (R89). -/
def moveEnt (d : TblDecl) (s : State) (m : Nat × Nat) : State :=
  match mget (bkt s d.num) m.1 with
  | some e => delEnt (putEnt s d m.2 { e with hit := 15 } 1) d m.1 1
  | none => s

/-- Place an entry in a bucket array: b0, b1, then a kick chain (R123). -/
def placeBkt (s : State) (d : TblDecl) (e : TEnt) (cause : Nat) : Option State :=
  let b0 := bucket0 d e.key
  let b1 := bucket1 d e.key
  match (freePos s d b0 e.w).or (freePos s d b1 e.w) with
  | some p => some (putEnt s d p e cause)
  | none =>
    match kickSearch s d e.w (rd s R.fwdCfgKickDepth) (if b0 = b1 then [b0] else [b0, b1]) with
    | some l =>
      let s := l.foldl (moveEnt d) s
      match (freePos s d b0 e.w).or (freePos s d b1 e.w) with
      | some p => some (putEnt s d p e cause)
      | none => none
    | none => none

/-! ### Overflow stores (R113, R123 step 4) -/

/-- Ranges of a storage image that a bank entry takes. -/
def cmsRanges (s : State) (d : TblDecl) (q b slot : Nat) : List (Nat × Nat) :=
  let n := 2 ^ bankWidth s q b
  let o := bankOff s d q b
  [(o + 4096 * 32 + slot * n * 16, 16), (o + slot * n * 32, n * 32)]

/-- Write a bank; CMS_BANK.USED counts its entries, FWD_TBL_OVF.USED those of an overflow store. -/
def setBank (s : State) (d : TblDecl) (q b : Nat) (m : NMap CmsE) : State :=
  let old := (bank s q b).length
  let s := { s with tab := { s.tab with cms := mset s.tab.cms (32 * q + b) m } }
  let s := wr s (R.cmsBankUsed q b) m.length
  if bankRole s q b = 2 ∧ d.num < 256 then
    wr s (R.fwdTblOvfUsed q d.num) (rd s (R.fwdTblOvfUsed q d.num) + m.length - old)
  else s

/-- Change what the free slots of a bank still hold. -/
def setCmsOld (s : State) (q b : Nat) (m : NMap CmsE) : State :=
  { s with tab := { s.tab with cmsOld := mset s.tab.cmsOld (32 * q + b) m } }

/-- Write one entry of a bank. -/
def putCms (s : State) (d : TblDecl) (q b slot : Nat) (e : CmsE) (cause : Nat) : State :=
  let s := setCmsOld s q b (mdel (mgetD s.tab.cmsOld (32 * q + b) []) slot)
  report (setBank s d q b (mset (bank s q b) slot e)) d (2 ^ q) cause (cmsRanges s d q b slot)

/-- Clear VALID of an entry: every other field, the slices behind it and the action word stay (R110, R111). -/
def delCms (s : State) (d : TblDecl) (q b slot cause : Nat) : State :=
  match mget (bank s q b) slot with
  | some e =>
    let old := mset (mgetD s.tab.cmsOld (32 * q + b) []) slot { e with gen := freedGen cause e.gen }
    report (setBank (setCmsOld s q b old) d q b (mdel (bank s q b) slot)) d (2 ^ q) cause
      [(bankOff s d q b + slot * 2 ^ bankWidth s q b * 32, 32)]
  | none => s

/-- The first slot of a bank that holds no entry. -/
def freeSlot (s : State) (q b : Nat) : Option Nat :=
  (List.range (bankSlots (bankWidth s q b))).find? (fun i => (mget (bank s q b) i).isNone)

/-- A free place in the overflow store of one quadrant. -/
def ovfPlace (s : State) (t q : Nat) : Option (Nat × Nat) :=
  (banksOf s t 2 q).findSome? (fun b => (freeSlot s q b).map (fun i => (b, i)))

/-- An overflow entry as a bucket entry, and back. -/
def cmsEnt (d : TblDecl) (c : CmsE) : TEnt :=
  ⟨c.value, emW d.keyLen, c.gen, c.action, c.hit, c.learned, c.static, c.stamp, 0, false, []⟩

def entCms (d : TblDecl) (e : TEnt) : CmsE :=
  ⟨e.key, 2 ^ d.keyLen - 1, e.gen, d.keyLen, e.action, e.hit, e.learned, e.static, e.stamp⟩

/-- Place an entry in every replica's overflow store. -/
def placeOvf (s : State) (d : TblDecl) (e : TEnt) (cause : Nat) : Option State :=
  if quadsOf d = [] ∨ (quadsOf d).any (fun q => (ovfPlace s d.num q).isNone) then none
  else some ((quadsOf d).foldl (fun s q =>
    match ovfPlace s d.num q with
    | some (b, i) => putCms s d q b i (entCms d e) cause
    | none => s) s)

/-- Learned entries on a learn port, across all tables (FWD_PORT.LEARNED). -/
def learnedOn (s : State) (port : Nat) : Nat :=
  (tblDecls (sec s 5 0)).foldl (fun n d =>
    if d.learn then
      n + ((bkt s d.num).filter (fun e => e.2.learned && e.2.action % 1024 == port)).length +
        ((banksOf s d.num 2 ((quadsOf d).headD 0)).foldl (fun k b =>
          k + ((bank s ((quadsOf d).headD 0) b).filter (fun e => e.2.learned && e.2.action % 1024 == port)).length) 0)
    else n) 0

/-- Place an entry (R123 steps 2–4); the witness table holds at most 65,536 and LPM tables have no
overflow store (R126, R423). -/
def placeEnt (s : State) (d : TblDecl) (e : TEnt) (cause : Nat) : Option State :=
  if d.num = 256 ∧ 65536 ≤ (bkt s 256).length then none
  else match placeBkt s d e cause with
    | some s => some s
    | none => if d.kind = 1 ∧ d.num ≠ 256 then placeOvf s d e cause else none

/-- Move an overflow entry into a freed bucket position (R124). -/
def promote (s : State) (d : TblDecl) (b : Nat) : State :=
  match quadsOf d with
  | q :: _ =>
    let cand := (banksOf s d.num 2 q).findSome? (fun bk =>
      ((bank s q bk).find? (fun c => decide (c.2.gen = 3) &&
        (bucket0 d c.2.value == b || bucket1 d c.2.value == b))).map (·.2))
    match cand, freePos s d b (emW d.keyLen) with
    | some c, some p =>
      let s := putEnt s d p { cmsEnt d c with hit := 15 } 6
      (quadsOf d).foldl (fun s q => (banksOf s d.num 2 q).foldl (fun s bk =>
        match (bank s q bk).find? (fun x => decide (x.2.value = c.value) && decide (x.2.gen = 3)) with
        | some x => delCms s d q bk x.1 6
        | none => s) s) s
    | _, _ => s
  | [] => s

/-- Change every copy of a key that satisfies `pr`; `none` clears it, and a freed position is refilled. -/
def updEnts (s : State) (d : TblDecl) (key : Nat) (pr : TEnt → Bool) (f : TEnt → Option TEnt) (cause : Nat) : State :=
  let s := (candSlots d key).foldl (fun s p =>
    match mget (bkt s d.num) p with
    | some e =>
      if e.key == key && pr e then
        match f e with
        | some e' => if e' = e then s else putEnt s d p e' cause
        | none => promote (delEnt s d p cause) d (p / spb d)
      else s
    | none => s) s
  (quadsOf d).foldl (fun s q => (banksOf s d.num 2 q).foldl (fun s b =>
    (bank s q b).foldl (fun s c =>
      if c.2.value == key && pr (cmsEnt d c.2) then
        match f (cmsEnt d c.2) with
        | some e' => if e' = cmsEnt d c.2 then s else putCms s d q b c.1 (entCms d e') cause
        | none => delCms s d q b c.1 cause
      else s) s) s) s

/-- Every copy of a key: in the bucket array and in the overflow store of quadrant `q`. -/
def copiesIn (s : State) (d : TblDecl) (q key : Nat) : List TEnt :=
  (candSlots d key).filterMap (fun p => (mget (bkt s d.num) p).bind (fun e => if e.key = key then some e else none)) ++
  (if d.kind = 1 then (banksOf s d.num 2 q).foldl (fun a b =>
    a ++ (bank s q b).filterMap (fun c => if c.2.value = key then some (cmsEnt d c.2) else none)) [] else [])

/-- The first replica's quadrant. -/
def homeQuad (d : TblDecl) : Nat := (quadsOf d).headD 0

/-- The entry of a key that takes of parity `p` see in quadrant `q` (R122). -/
def emLookup (s : State) (d : TblDecl) (q key p : Nat) : Option TEnt :=
  (copiesIn s d q key).find? (fun e => bit e.gen p)

/-! ### Staging (R92) -/

/-- How a change is made: inside a take of staging parity `n`, or outside takes (R97). -/
structure StageCtx where
  gov : Bool
  n : Nat

/-- The parity whose view a change edits, and the GEN an added entry gets. -/
def viewBit (c : StageCtx) : Nat := if c.gov then c.n else 0
def newGen (c : StageCtx) : Nat := if c.gov then 2 ^ c.n else 3

/-- The context of a change to table `d`. -/
def stageCtx (s : State) (d : TblDecl) : StageCtx := ⟨!d.egress, 1 - rd s R.stgTakeStatCur % 2⟩

/-- One more changed entry, or NO_ROOM at the limit of 65,536. -/
def noteChange (s : State) (c : StageCtx) : Option State :=
  if !c.gov then some s
  else
    let n := rd s R.stgTakeStagedChanges
    if 65536 ≤ n then none else some (wr s R.stgTakeStagedChanges (n + 1))

/-- An entry added in the same take is dropped again. -/
def unnote (s : State) (c : StageCtx) : State :=
  if c.gov then wr s R.stgTakeStagedChanges (rd s R.stgTakeStagedChanges - 1) else s

/-- GEN with the bit of the view cleared. -/
def hideGen (c : StageCtx) (g : Nat) : Nat := if bit g (viewBit c) then g - 2 ^ viewBit c else g

/-- Two copies differ in what hits and moves write only. -/
def sameEnt (a b : TEnt) : Bool := { a with hit := 0, stamp := 0 } == { b with hit := 0, stamp := 0 }

/-- Set a key (R92, R123): a modification of the copy in view, or an addition. A one-slot entry outside takes is
rewritten in place; every other one gets a new copy before the old one is cleared (R89). -/
def physSet (s : State) (d : TblDecl) (c : StageCtx) (e : TEnt) (cause : Nat) : Except Status State :=
  let v := viewBit c
  let inView := fun (x : TEnt) => bit x.gen v
  match (copiesIn s d (homeQuad d) e.key).find? inView with
  | some o =>
    if !c.gov && e.w == 1 then
      .ok (updEnts s d e.key inView (fun x => some { x with action := e.action, static := e.static, learned := e.learned, marker := e.marker, len := e.len }) cause)
    else if c.gov && o.gen != newGen c then
      match noteChange s c with
      | none => .error .noRoom
      | some s =>
        let s := updEnts s d e.key inView (fun x => some { x with gen := hideGen c x.gen }) cause
        match noteChange s c with
        | none => .error .noRoom
        | some s =>
          match placeEnt s d { e with gen := newGen c, unas := o.unas } cause with
          | some s => .ok s
          | none => .error .noRoom
    else
      let e := { e with gen := if c.gov then newGen c else 3, unas := o.unas }
      if sameEnt e o then .ok s
      else match placeEnt s d e cause with
        | some s' => .ok (updEnts s' d e.key (fun x => sameEnt x o) (fun _ => none) cause)
        | none => .error .noRoom
  | none =>
    match noteChange s c with
    | none => .error .noRoom
    | some s =>
      match placeEnt s d { e with gen := newGen c } cause with
      | some s => .ok s
      | none => .error .noRoom

/-- Delete a key from the view (R92, R124). -/
def physDel (s : State) (d : TblDecl) (c : StageCtx) (key cause : Nat) : Except Status State :=
  let v := viewBit c
  let inView := fun (x : TEnt) => bit x.gen v
  match (copiesIn s d (homeQuad d) key).find? inView with
  | some o =>
    if c.gov && o.gen != newGen c then
      match noteChange s c with
      | none => .error .noRoom
      | some s => .ok (updEnts s d key inView (fun x => some { x with gen := hideGen c x.gen }) cause)
    else .ok (updEnts (unnote s c) d key inView (fun _ => none) cause)
  | none => .error .invalid

/-! ### Exact-match and direct-index commands -/

/-- FWD_SEC: seconds since the last P, C or W reset, modulo 2^16. -/
def fwdSec (s : State) : Nat := uptime s / 10 ^ 9 % 2 ^ 16

/-- EM_SET (R123). -/
def emSet (s : State) (d : TblDecl) (key action : Nat) (static : Bool) : Except Status State :=
  match physSet s d (stageCtx s d) ⟨key, emW d.keyLen, 0, action, 15, false, static, fwdSec s, 0, false, []⟩ 0 with
  | .ok s => .ok s
  | .error e => .error e

/-- EM_DELETE (R124); a learned entry leaves its port's count. -/
def emDelete (s : State) (d : TblDecl) (key : Nat) : Except Status State := physDel s d (stageCtx s d) key 0

/-- The copies of a direct index. -/
def dirAt (s : State) (t i : Nat) : List DirE := mgetD (mgetD s.tab.dir t []) i []

/-- Write the copies of a direct index. -/
def setDir (s : State) (d : TblDecl) (i : Nat) (l : List DirE) (cause : Nat) : State :=
  let m := mgetD s.tab.dir d.num []
  let o := mgetD s.tab.dirOld d.num []
  let old := match l, mget m i with
    | [], some (e :: _) => mset o i (e.action % 2 ^ 128 + freedGen cause e.gen * 2 ^ 129)
    | [], _ => o
    | _, _ => mdel o i
  let m := if l = [] then mdel m i else mset m i l
  report { s with tab := { s.tab with dir := mset s.tab.dir d.num m, dirOld := mset s.tab.dirOld d.num old } }
    d d.quads cause [(32 * i, 32)]

/-- DIRECT_SET (R92, R125). -/
def dirSet (s : State) (d : TblDecl) (i action : Nat) : Except Status State :=
  let c := stageCtx s d
  let v := viewBit c
  let l := dirAt s d.num i
  match l.find? (fun e => bit e.gen v) with
  | some o =>
    if !c.gov ∨ o.gen = newGen c then
      .ok (setDir s d i (l.map (fun e => if bit e.gen v then { e with action := action } else e)) 0)
    else
      match (noteChange s c).bind (fun s => noteChange s c) with
      | some s => .ok (setDir s d i (l.map (fun e => { e with gen := hideGen c e.gen }) ++ [⟨newGen c, action⟩]) 0)
      | none => .error .noRoom
  | none =>
    match noteChange s c with
    | some s => .ok (setDir s d i (l ++ [⟨newGen c, action⟩]) 0)
    | none => .error .noRoom

/-- DIRECT_DELETE (R92, R124). -/
def dirDelete (s : State) (d : TblDecl) (i : Nat) : Except Status State :=
  let c := stageCtx s d
  let v := viewBit c
  let l := dirAt s d.num i
  match l.find? (fun e => bit e.gen v) with
  | some o =>
    if c.gov ∧ o.gen ≠ newGen c then
      match noteChange s c with
      | some s => .ok (setDir s d i (l.map (fun e => { e with gen := hideGen c e.gen })) 0)
      | none => .error .noRoom
    else .ok (setDir (unnote s c) d i (l.filter (fun e => !bit e.gen v)) 0)
  | none => .error .invalid

/-! ### Longest-prefix match (R126–R131) -/

/-- The result array of a table. -/
def resArr (s : State) (t : Nat) : NMap Nat := mgetD s.tab.res t []

/-- A result index is named by some entry. -/
def resUsed (s : State) (t i : Nat) : Bool := (bkt s t).any (fun e => e.2.action == i)

/-- The result word of an action: the word in use that holds it, or the lowest free one (R128). -/
def allocRes (s : State) (d : TblDecl) (action : Nat) : Option (Nat × State) :=
  match (resArr s d.num).find? (fun e => e.2 == action && resUsed s d.num e.1) with
  | some e => some (e.1, s)
  | none =>
    match (List.range 16384).find? (fun i => !resUsed s d.num i) with
    | some i =>
      let s := { s with tab := { s.tab with res := mset s.tab.res d.num (mset (resArr s d.num) i action) } }
      some (i, report s d d.quads 0 [(resOff d + 16 * i, 16)])
    | none => none

/-- The real prefixes of a table. -/
def rib (s : State) (t : Nat) : List RibE := mgetD s.tab.rib t []

def setRib (s : State) (t : Nat) (l : List RibE) : State := { s with tab := { s.tab with rib := mset s.tab.rib t l } }

/-- Slots an LPM entry takes (R127). -/
def lpmSlots (d : TblDecl) (len : Nat) : Nat := if d.v6 ∧ 64 < len then 2 else 1

/-- Prefix `a` of length `la` covers prefix `b` of length `lb`, both as leading bits. -/
def covers (la a lb b : Nat) : Bool := decide (la ≤ lb) && b / 2 ^ (lb - la) == a

/-- The real prefix of a VRF that is the longest one shorter than `len` covering leading bits `p`, in view `v`. -/
def coverOf (s : State) (d : TblDecl) (v vrf len p : Nat) : Option RibE :=
  (rib s d.num).foldl (fun best e =>
    if bit e.gen v && e.key % 2 ^ 14 == vrf && decide (e.len < len) &&
        covers e.len (pfxBits (lpmW d) e.len (e.key / 2 ^ 14)) len p &&
        decide (((best.map (·.len)).getD 0) ≤ e.len) then some e else best) none

/-- An LPM key from VRF, length and leading bits. -/
def lpmKey (d : TblDecl) (vrf len p : Nat) : Nat := vrf + 2 ^ 14 * ((p * 2 + 1) * 2 ^ (lpmW d - len))

/-- Write an LPM entry in the view: real prefix or marker. -/
def lpmWrite (s : State) (d : TblDecl) (c : StageCtx) (key len action : Nat) (marker : Bool) : Except Status State :=
  match allocRes s d action with
  | some (i, s) => physSet s d c ⟨key, lpmSlots d len, 0, i, 15, false, false, 0, len, marker, []⟩ 0
  | none => .error .noRoom

/-- Both bitmaps of a filter cell. -/
def cellBits (s : State) (d : TblDecl) (cell : Nat) : Nat × Nat :=
  (filterBits s d 0 (cell / 65536) (cell % 65536), filterBits s d 1 (cell / 65536) (cell % 65536))

/-- Report the cells whose bitmaps a change from `s0` to `s` has changed (R140). -/
def reportCells (s0 s : State) (d : TblDecl) (cause : Nat) (cells : List Nat) : State :=
  match cells.filter (fun x => cellBits s0 d x != cellBits s d x) with
  | [] => s
  | ch => report s d d.quads cause (ch.map (fun x => (filterOff d + x * 64, 64)))

/-- Take the copies of a key in view from a cell: inside a take in the staged bitmap alone (R129, R131). -/
def unassign (s : State) (d : TblDecl) (c : StageCtx) (key cell : Nat) : State :=
  let us := if c.gov then [cell * 2 + c.n] else [cell * 2, cell * 2 + 1]
  reportCells s (setBkt s d.num ((bkt s d.num).map (fun e =>
    if e.2.key = key ∧ bit e.2.gen (viewBit c) then (e.1, { e.2 with unas := e.2.unas ++ us }) else e))) d 0 [cell]

/-- Blocks of length `l'` inside both an entry of leading bits `p`, length `l`, and cell `x` (R131): first
block and number. -/
def blocksIn (l p l' x : Nat) : Nat × Nat :=
  if l' ≤ 16 then (x / 2 ^ (16 - l'), 1)
  else if l ≤ 16 then (x * 2 ^ (l' - 16), 2 ^ (l' - 16))
  else (p * 2 ^ (l' - l), 2 ^ (l' - l))

/-- Add the markers that replace one entry in a cell; the count of markers added goes along (R131). -/
def addMarkers (d : TblDecl) (c : StageCtx) (x l' : Nat) (acc : Except Status (State × Nat)) (e : TEnt) :
    Except Status (State × Nat) :=
  match acc with
  | .error r => .error r
  | .ok (s, k) =>
    let v := viewBit c
    let vrf := e.key % 2 ^ 14
    let r := blocksIn e.len (pfxBits (lpmW d) e.len (e.key / 2 ^ 14)) l' x
    let max := rd s R.fwdCfgMarkerMax
    if max + (bkt s d.num).length < r.2 then .error .noRoom
    else
      let step := fun (acc : Except Status (State × Nat)) (b : Nat) =>
        match acc with
        | .error r => .error r
        | .ok (s, k) =>
          let key := lpmKey d vrf l' b
          if ((copiesIn s d (homeQuad d) key).any (fun y => bit y.gen v)) then .ok (s, k)
          else if max ≤ k then .error .noRoom
          else
            let act := match coverOf s d v vrf l' b with
              | some p => p.action
              | none => mgetD (resArr s d.num) e.action 0
            match lpmWrite s d c key l' act true with
            | .ok s => .ok (s, k + 1)
            | .error r => .error r
      match (upFrom r.1 r.2).foldl step (.ok (s, k)) with
      | .error r => .error r
      | .ok (s, k) =>
        let s := unassign s d c e.key (classOf s d.num vrf * 65536 + x)
        if 16 < e.len then
          match physDel s d c e.key 0 with
          | .ok s => .ok (s, k)
          | .error r => .error r
        else .ok (s, k)

/-- The set bits of a bitmap, ascending. -/
def bitsUp (w v : Nat) : List Nat := (List.range (w + 1)).filter (fun i => bit v i)

/-- The repair of a cell (R131), at most `fuel` lengths; `k` markers have been added so far. -/
def repairCell (d : TblDecl) (c : StageCtx) (cls x : Nat) : Nat → State → Nat → Except Status (State × Nat)
  | 0, s, k => .ok (s, k)
  | fuel + 1, s, k =>
    match bitsUp (lpmW d) (filterBits s d (viewBit c) cls x) with
    | l :: l' :: rest =>
      if rest.length + 2 ≤ 8 then .ok (s, k)
      else
        let es := ((bkt s d.num).map (·.2)).filter (fun e => decide (e.len = l) && assigned s d (viewBit c) cls x e)
        match es.foldl (addMarkers d c x l') (.ok (s, k)) with
        | .ok (s, k) => repairCell d c cls x fuel s k
        | .error r => .error r
    | _ => .ok (s, k)

/-- Repair every cell a changed prefix covers. -/
def repairCells (s : State) (d : TblDecl) (c : StageCtx) (cls len p : Nat) : Except Status State :=
  match (cellsOf len p).foldl (fun (acc : Except Status (State × Nat)) x =>
      match acc with
      | .ok (s, k) => repairCell d c cls x (lpmW d + 1) s k
      | .error r => .error r) (.ok (s, 0)) with
  | .ok (s, _) => .ok s
  | .error r => .error r

/-- Keep the markers of a VRF equal to the real prefixes that cover them; a marker without one goes (R131). -/
def refreshMarkers (s : State) (d : TblDecl) (c : StageCtx) (vrf : Nat) : Except Status State :=
  let v := viewBit c
  let ms := ((bkt s d.num).map (·.2)).filter (fun e => e.marker && bit e.gen v && e.key % 2 ^ 14 == vrf)
  ms.foldl (fun (acc : Except Status State) e =>
    match acc with
    | .error r => .error r
    | .ok s =>
      match coverOf s d v vrf e.len (pfxBits (lpmW d) e.len (e.key / 2 ^ 14)) with
      | some p =>
        if mgetD (resArr s d.num) e.action 0 = p.action then .ok s
        else lpmWrite s d c e.key e.len p.action true
      | none => physDel s d c e.key 0) (.ok s)

/-- Count an LPM refusal under R128 or R131. -/
def lpmRefused (s : State) (d : TblDecl) (r : Status) : State := if r = .noRoom then tblCnt s d.num 7 else s

/-- Set a real prefix in the manager's list, in the view. -/
def ribSet (l : List RibE) (c : StageCtx) (e : RibE) : List RibE :=
  let v := viewBit c
  let l := l.map (fun x => if x.key = e.key ∧ bit x.gen v ∧ x.gen ≠ newGen c then { x with gen := hideGen c x.gen } else x)
  let l := l.filter (fun x => !(x.key == e.key && bit x.gen v) && x.gen != 0)
  l ++ [{ e with gen := newGen c }]

/-- Delete a real prefix from the manager's list, in the view. -/
def ribDel (l : List RibE) (c : StageCtx) (key : Nat) : List RibE :=
  (l.map (fun x => if x.key = key ∧ bit x.gen (viewBit c) then
    { x with gen := if x.gen = newGen c then 0 else hideGen c x.gen } else x)).filter (fun x => x.gen != 0)

/-- LPM_SET (R126, R128, R131). -/
def lpmSet (s : State) (d : TblDecl) (vrf len a action : Nat) : Except Status State :=
  let c := stageCtx s d
  let w := lpmW d
  let key := vrf + 2 ^ 14 * pfxOf w len a
  let s := setRib s d.num (ribSet (rib s d.num) c ⟨key, len, action, 0⟩)
  match lpmWrite s d c key len action false with
  | .error r => .error r
  | .ok s =>
    match repairCells s d c (classOf s d.num vrf) len (a / 2 ^ (w - len)) with
    | .error r => .error r
    | .ok s => refreshMarkers s d c vrf

/-- LPM_DELETE (R124, R131). A prefix whose place was taken by markers leaves with them; one that a marker
still needs stays as a marker. -/
def lpmDelete (s : State) (d : TblDecl) (vrf len a : Nat) : Except Status State :=
  let c := stageCtx s d
  let key := vrf + 2 ^ 14 * pfxOf (lpmW d) len a
  if (rib s d.num).any (fun e => decide (e.key = key) && bit e.gen (viewBit c)) then
    let s := setRib s d.num (ribDel (rib s d.num) c key)
    match physDel s d c key 0 with
    | .ok s => refreshMarkers s d c vrf
    | .error .noRoom => .error .noRoom
    | .error _ => refreshMarkers s d c vrf
  else .error .invalid

/-- The LPM entries of a VRF. -/
def vrfEnts (s : State) (t vrf : Nat) : List TEnt :=
  ((bkt s t).map (·.2)).filter (fun e => e.key % 2 ^ 14 == vrf)

/-- The filter cells an entry covers. -/
def entCells (d : TblDecl) (e : TEnt) : List Nat := cellsOf e.len (pfxBits (lpmW d) e.len (e.key / 2 ^ 14))

/-- Write the class of a VRF: its byte of the map and the cells its entries leave and enter (R129, R140). -/
def setClass (s : State) (d : TblDecl) (vrf cls cause : Nat) : State :=
  let old := classOf s d.num vrf
  let m := mgetD s.tab.cmap d.num []
  let m := if cls = 0 then mdel m vrf else mset m vrf cls
  let cells := ((vrfEnts s d.num vrf).foldl (fun a e => a ++ entCells d e) []).eraseDups
  let s' := report { s with tab := { s.tab with cmap := mset s.tab.cmap d.num m } } d d.quads cause [(cmapOff d + vrf, 1)]
  reportCells s s' d cause (cells.map (old * 65536 + ·) ++ cells.map (cls * 65536 + ·))

/-- Write the class of a VRF and repair the cells its entries enter (R129, R131). -/
def moveClass (s : State) (d : TblDecl) (c : StageCtx) (vrf cls cause : Nat) : Except Status State :=
  let es := vrfEnts s d.num vrf
  es.foldl (fun (acc : Except Status State) e =>
    match acc with
    | .ok s => repairCells s d c cls e.len (pfxBits (lpmW d) e.len (e.key / 2 ^ 14))
    | .error r => .error r) (.ok (setClass s d vrf cls cause))

/-- CLASSMAP_SET (R129): inside a take it is staged and applies at settling; outside takes at once. A change whose
repair of R131 finds no room is refused (log 42). -/
def classMapSet (s : State) (d : TblDecl) (vrf cls : Nat) : Except Status State :=
  let c := stageCtx s d
  if d.classes ≤ cls then .error .invalid
  else match moveClass s d c vrf cls 0 with
    | .error r => .error r
    | .ok s' =>
      if c.gov then
        match noteChange s c with
        | some s => .ok { s with tab := { s.tab with cmapNew := s.tab.cmapNew ++ [(d.num, vrf, cls)] } }
        | none => .error .noRoom
      else .ok s'

/-- The LPM lookup of R130: the result word, and whether the cell had more than 8 lengths. -/
def lpmLookup (s : State) (d : TblDecl) (key p : Nat) : Option Nat × Bool :=
  let v := key % 2 ^ 14
  let w := lpmW d
  let a := key / 2 ^ 14 % 2 ^ w
  let f := bitsUp w (filterBits s d p (classOf s d.num v) (a / 2 ^ (w - 16)))
  let c := f.reverse.take 8
  let hit := c.findSome? (fun l =>
    let k := v + 2 ^ 14 * pfxOf w l a
    (candSlots d k).findSome? (fun sl =>
      (mget (bkt s d.num) sl).bind (fun e => if e.key = k ∧ bit e.gen p then some e.action else none)))
  (hit.map (fun i => mgetD (resArr s d.num) i 0), decide (8 < f.length))

/-! ### Care-mask placement (R107–R111) -/

/-- A move to an adjacent free slot (R111), counted. -/
def cmsMove (d : TblDecl) (q b : Nat) (s : State) (m : Nat × Nat) : State :=
  match mget (bank s q b) m.1 with
  | some e => bump (delCms (putCms s d q b m.2 e 1) d q b m.1 1) (R.cmsMoveCntCount q)
  | none => s

/-- The nearest free slot at or after `i`, else the nearest before it. -/
def nearestFree (m : NMap CmsE) (n i : Nat) : Option Nat :=
  match (upFrom i (n - i)).find? (fun a => (mget m a).isNone) with
  | some h => some h
  | none => ((List.range (min i n)).reverse).find? (fun a => (mget m a).isNone)

/-- Make room at slot `i` of a bank and write an entry there (R109). -/
def cmsPlaceAt (s : State) (d : TblDecl) (q b i : Nat) (e : CmsE) : Option State :=
  let n := bankSlots (bankWidth s q b)
  match nearestFree (bank s q b) n i with
  | some h =>
    if i ≤ h then
      let s := ((upFrom i (h - i)).reverse.map (fun a => (a, a + 1))).foldl (cmsMove d q b) s
      some (putCms s d q b i e 0)
    else
      let s := ((upFrom (h + 1) (i - 1 - h)).map (fun a => (a, a - 1))).foldl (cmsMove d q b) s
      some (putCms s d q b (i - 1) e 0)
  | none => none

/-- The insertion slot for mask length `l` (R109). -/
def cmsSlot (m : NMap CmsE) (l : Nat) (before : Bool) : Nat :=
  match m.find? (fun e => if before then decide (e.2.len ≤ l) else decide (e.2.len < l)) with
  | some e => e.1
  | none => ((m.getLast?).map (fun e => e.1 + 1)).getD 0

/-- An insert into a bank has used a hole: its spacing is to be restored as the interval now asks, if it asks for
holes (R108). -/
def wantHoles (s : State) (q b : Nat) : State :=
  let h := rd s (R.cmsCfgHoleInterval q)
  let k := 32 * q + b
  let m := if h = 0 then mdel s.tab.holes k else mset s.tab.holes k h
  wr { s with tab := { s.tab with holes := m } } (R.cmsStatRestoring q) (b2n (m.any (fun e => e.1 / 32 == q)))

/-- The copy of value and mask in a bank that is in view, with its slot. -/
def cmsFind (s : State) (d : TblDecl) (q v value mask : Nat) : Option (Nat × Nat × CmsE) :=
  (banksOf s d.num 1 q).findSome? (fun b =>
    ((bank s q b).find? (fun e => e.2.value == value && e.2.mask == mask && bit e.2.gen v)).map (fun e => (b, e.1, e.2)))

/-- Change the copies of value and mask in view, in every replica. -/
def updCms (s : State) (d : TblDecl) (v value mask : Nat) (f : CmsE → Option CmsE) : State :=
  (quadsOf d).foldl (fun s q =>
    match cmsFind s d q v value mask with
    | some (b, i, e) =>
      match f e with
      | some e' => putCms s d q b i e' 0
      | none => delCms s d q b i 0
    | none => s) s

/-- Every replica holds a free slot in bank `b`. -/
def roomIn (s : State) (d : TblDecl) (b : Nat) : Bool :=
  (quadsOf d).all (fun q => decide ((bank s q b).length < bankSlots (bankWidth s q b)))

/-- Insert a new entry (R109): the lowest allowed bank with a free slot in every replica. -/
def cmsInsert (s : State) (d : TblDecl) (c : StageCtx) (value mask action : Nat) (before : Bool) (banks : Nat) :
    Except Status State :=
  let q0 := homeQuad d
  let l := popcount 640 mask
  let bs := (banksOf s d.num 1 q0).filter (fun b => bit banks b)
  let holding := (banksOf s d.num 1 q0).filter (fun b => (bank s q0 b).any (fun e => e.2.len == l))
  let allowed := bs.filter (fun b =>
    if before then holding.all (fun x => decide (b ≤ x)) else holding.all (fun x => decide (x ≤ b)))
  match allowed.find? (roomIn s d) with
  | none => .error .noRoom
  | some b =>
    match noteChange s c with
    | none => .error .noRoom
    | some s =>
      let e : CmsE := ⟨value, mask, newGen c, l, action, 0, false, false, 0⟩
      .ok ((quadsOf d).foldl (fun s q =>
        match cmsPlaceAt s d q b (cmsSlot (bank s q b) l before) e with
        | some s => wantHoles s q b
        | none => s) s)

/-- Place a modified copy right behind the old one, in every replica (R110). -/
def cmsCopy (s : State) (d : TblDecl) (c : StageCtx) (value mask action : Nat) : Except Status State :=
  let p := 1 - viewBit c
  let e := fun (o : CmsE) => { o with gen := newGen c, action := action }
  let room := (quadsOf d).all (fun q =>
    match cmsFind s d q p value mask with
    | some (b, _, _) => decide ((bank s q b).length < bankSlots (bankWidth s q b))
    | none => false)
  if !room then .error .noRoom
  else .ok ((quadsOf d).foldl (fun s q =>
    match cmsFind s d q p value mask with
    | some (b, i, o) =>
      match cmsPlaceAt s d q b (i + 1) (e o) with
      | some s => wantHoles s q b
      | none => s
    | none => s) s)

/-- Count a care-mask insert refused with NO_ROOM in each of its quadrants. -/
def cmsNoRoom (s : State) (d : TblDecl) : State :=
  (quadsOf d).foldl (fun s q => bump s (R.cmsNoroomCntCount q)) s

/-- CMS_SET (R109, R110). -/
def cmsSet (s : State) (d : TblDecl) (value mask action : Nat) (before : Bool) (banks : Nat) : Except Status State :=
  let c := stageCtx s d
  let q0 := homeQuad d
  let own := (banksOf s d.num 1 q0).foldl (fun v b => setBit v b) 0
  let value := value &&& mask
  if banks = 0 ∨ (banks &&& own) ≠ banks ∨ 2 ^ d.keyLen ≤ mask then .error .invalid
  else match cmsFind s d q0 (viewBit c) value mask with
    | some (_, _, o) =>
      if !c.gov ∨ o.gen = newGen c then
        .ok (updCms s d (viewBit c) value mask (fun e => some { e with action := action }))
      else
        match (noteChange s c).bind (fun s => noteChange s c) with
        | none => .error .noRoom
        | some s =>
          let s := updCms s d (viewBit c) value mask (fun e => some { e with gen := hideGen c e.gen })
          cmsCopy s d c value mask action
    | none =>
      -- An entry that this take has deleted still stands: setting it again is a modification (R92, R109; log 41).
      if c.gov ∧ (cmsFind s d q0 (1 - viewBit c) value mask).isSome then
        match noteChange s c with
        | none => .error .noRoom
        | some s => cmsCopy s d c value mask action
      else cmsInsert s d c value mask action before banks

/-- CMS_DELETE (R110). -/
def cmsDelete (s : State) (d : TblDecl) (value mask : Nat) : Except Status State :=
  let c := stageCtx s d
  let value := value &&& mask
  match cmsFind s d (homeQuad d) (viewBit c) value mask with
  | some (_, _, o) =>
    if c.gov ∧ o.gen ≠ newGen c then
      match noteChange s c with
      | some s => .ok (updCms s d (viewBit c) value mask (fun e => some { e with gen := hideGen c e.gen }))
      | none => .error .noRoom
    else .ok (updCms (unnote s c) d (viewBit c) value mask (fun _ => none))
  | none => .error .invalid

/-- The search of R105: the action word of the longest match, and the banks searched. -/
def cmsSearch (s : State) (q key sel p : Nat) : Option Nat :=
  let best := (List.range 32).foldl (fun (best : Option CmsE) b =>
    if bit sel b then
      match (bank s q b).find? (fun e => bit e.2.gen p && ((key ^^^ e.2.value) &&& e.2.mask) == 0) with
      | some e =>
        match best with
        | some o => if o.len < e.2.len then some e.2 else best
        | none => some e.2
      | none => best
    else best) none
  best.map (·.action)

/-- The searches of a stage are counted per bank (CMS_SEARCH_CNT). -/
def countSearch (s : State) (q sel : Nat) : State :=
  (List.range 32).foldl (fun s b => if bit sel b then bump s (R.cmsSearchCntCount q b) else s) s

end Sys2Proof.Machine
end

