-- ==== Sys2Proof/Machine/LearnOps.lean ====
section
/-!
DEFINITION. The learn arbiter of a table (R133–R136): its queue, learn commits and move decisions.
-/

namespace Sys2Proof.Machine

open Sys2Proof

/-- Write a learn queue. -/
def setQueue (s : State) (t : Nat) (l : List LearnReq) : State :=
  { s with tab := { s.tab with queue := if l = [] then mdel s.tab.queue t else mset s.tab.queue t l } }

/-- Remember a commit or move, the last 1,024 of them (R135). -/
def remember (s : State) (t key : Nat) : State :=
  let l := s.tab.seen.filter (fun e => !(e.tbl == t && e.key == key)) ++ [⟨t, key, uptime s⟩]
  { s with tab := { s.tab with seen := l.drop (l.length - 1024) } }

/-- The entry a request meets: any copy of its key. -/
def learnEntry (s : State) (d : TblDecl) (key : Nat) : Option TEnt := (copiesIn s d (homeQuad d) key).head?

/-- A learned entry (R134). -/
def learnedEnt (s : State) (d : TblDecl) (key port : Nat) : TEnt :=
  ⟨key, emW d.keyLen, 3, port, 15, true, false, fwdSec s, 0, false, []⟩

/-- A learn commit: the limit is checked again, and the entry placed (R134). -/
def learnCommit (s : State) (d : TblDecl) (r : LearnReq) : State :=
  if learnLimit s r.port ≤ learnedOn s r.port then tblCnt s d.num 2
  else
    let s := { s with tab := { s.tab with log := [] } }
    match placeEnt s d (learnedEnt s d r.key r.port) 2 with
    | some s => { remember s d.num r.key with tab := { (remember s d.num r.key).tab with log := [] } }
    | none => tblCnt s d.num 0

/-- A STATION_MOVE event (R136). -/
def stationMove (s : State) (d : TblDecl) (r : LearnReq) (cause old flaps : Nat) : State :=
  postEvent s 1 r.quad false (toLe 2 d.num ++ toLe 2 cause ++ toLe 2 old ++ toLe 2 r.port ++ toLe 4 r.ts ++
    toLe 4 (flaps % 256) ++ toLe 8 r.key ++ List.replicate 8 0) (some (R.fwdTblCntCount d.num 9))

/-- Flap record of a key. -/
def flapOf (s : State) (t key : Nat) : Option FlapRec := s.tab.flaps.find? (fun f => f.tbl == t && f.key == key)

/-- Write or drop a flap record, the last 1,024 of them. -/
def setFlap (s : State) (t key : Nat) (f : Option FlapRec) : State :=
  let l := s.tab.flaps.filter (fun f => !(f.tbl == t && f.key == key)) ++ f.toList
  { s with tab := { s.tab with flaps := l.drop (l.length - 1024) } }

/-- Apply a move to port B, unless B is at its limit (R135). -/
def applyMove (s : State) (d : TblDecl) (r : LearnReq) (old cause : Nat) : State :=
  if learnLimit s r.port ≤ learnedOn s r.port then
    let s := tblCnt s d.num 2
    stationMove s d r 4 old ((flapOf s d.num r.key).map (·.count) |>.getD 0)
  else
    let s := updEnts s d r.key (fun _ => true) (fun e => some { e with action := r.port }) 1
    let s := setFlap (remember (tblCnt s d.num 4) d.num r.key) d.num r.key none
    stationMove { s with tab := { s.tab with log := [] } } d r cause old 0

/-- A flap inside the hold-off window: held, or applied when the count reaches FLAP_REPEAT (R135). -/
def holdFlap (s : State) (d : TblDecl) (r : LearnReq) (old : Nat) : State :=
  let w : Nat := rd s R.fwdMoveCfgFlapWindowMs * 10 ^ 6
  let f : FlapRec := match flapOf s d.num r.key with
    | some f => if r.up - f.first ≤ w then { f with count := f.count + 1 } else ⟨d.num, r.key, r.up, 1⟩
    | none => ⟨d.num, r.key, r.up, 1⟩
  let s := setFlap s d.num r.key (some f)
  let n := rd s R.fwdMoveCfgFlapRepeat
  if n ≠ 0 ∧ n ≤ f.count then applyMove s d r old 2
  else stationMove (tblCnt s d.num 3) d r 1 old f.count

/-- The key was committed or moved less than HOLDOFF_US before the request's TS_IN (R135). -/
def inHoldoff (s : State) (t : Nat) (r : LearnReq) : Bool :=
  match s.tab.seen.find? (fun e => e.tbl == t && e.key == r.key) with
  | some e =>
    let h := rd s R.fwdMoveCfgHoldoffUs
    h != 0 && decide (r.up - e.up < (h * 1000 : Nat))
  | none => false

/-- A move request is decided against the entry it meets (R135). -/
def decideMove (s : State) (d : TblDecl) (r : LearnReq) (e : TEnt) : State :=
  let old := e.action % 1024
  if old = r.port then s
  else if e.static then stationMove (tblCnt s d.num 8) d r 3 old ((flapOf s d.num r.key).map (·.count) |>.getD 0)
  else if inHoldoff s d.num r then holdFlap s d r old
  else applyMove s d r old 0

/-- The arbiter serves one request: the entry of its key decides whether it learns or moves (R133). -/
def serveRequest (d : TblDecl) (s : State) (r : LearnReq) : State :=
  match learnEntry s d r.key with
  | some e => decideMove s d r e
  | none => learnCommit s d r

/-- Every request that waits is served, in order of arrival: what comes to the arbiter behind them finds them done
(R133). -/
def drainArbiter (s : State) (d : TblDecl) : State :=
  (mgetD s.tab.queue d.num []).foldl (serveRequest d) (setQueue s d.num [])

end Sys2Proof.Machine
end

