-- ==== Sys2Proof/Machine/MbxOps.lean ====
section
/-!
DEFINITION. Shared operations of mailboxes and locks (R328–R338): notification, rejection, emptying,
releases and the reset of a master.
-/

namespace Sys2Proof.Machine

open Sys2Proof

/-- Mailbox states (MBX_STAT.STATE): data class 0 EMPTY, 1 FULL; command class 0–3 (R337). -/
def mbxState (s : State) (n : Nat) : Nat := rd s (R.mbxStatState n)

/-- The lock's state on mailbox `n`: 0 free, a requester held, 0x3F releasing (R336). -/
def lockOwner (s : State) (n : Nat) : Nat := rd s (R.mbxStatOwner n)

/-- Write a lock's state. -/
def setLock (s : State) (n o : Nat) : State := wrs s [(R.mbxStatOwner n, o), (R.lckOwner (n - 32), o)]

/-- Notify a master of mailbox `n` (R332): a core or the agent is woken; PF0 gets vector `n`, a link in
L1 starts its exit; a VF has no vector. -/
def notifyMaster (s : State) (m n : Nat) : State :=
  if isCore m || m == 48 then emit s (.wake m)
  else if m = 1 then
    let s := if s.host.link = .l1 then emit s (.wake 1) else s
    raiseVec s 0 n
  else s

/-- An Unsupported Request of host function `m` in its AER status (R319, R330). -/
def reportUr (s : State) (m : Nat) : State :=
  if s.host.aerUr.contains m then s else { s with host := { s.host with aerUr := s.host.aerUr ++ [m] } }

/-- A rejected mailbox write (R330): of a host function, through AER; of an internal master, a bus error. -/
def mbxReject (s : State) (m n : Nat) : State :=
  let s := if 1 ≤ m ∧ m ≤ 18 then wr (reportUr s m) (R.mbxStatReject n) 1 else s
  hifErr (emit s (.busError m)) R.hifErrStatMbxReject

/-- The mailbox behind a command port: that of the lowest-numbered lock that its function owns (R338). -/
def portBox (s : State) (m : Nat) : Option Nat := (upFrom 32 32).find? (fun n => lockOwner s n == m)

/-- The access goes through the command port of a BAR2 page: every access of a VF, and PF0's to mailbox number 64
(R320, R338). -/
def byPort (m n : Nat) : Bool := (decide (3 ≤ m) && decide (m ≤ 18)) || (m == 1 && n == 64)

/-- The mailbox that master `m` reaches under number `n`. -/
def boxOf (s : State) (m n : Nat) : Option Nat :=
  if byPort m n then portBox s m else if n < 64 then some n else none

/-- A write through a command port whose function owns no lock is rejected (R338). -/
def portReject (s : State) (m n : Nat) : State :=
  if byPort m n then hifErr (emit (reportUr s m) (.busError m)) R.hifErrStatMbxReject else s

/-- Reads of a command mailbox's data by a master that is neither the owner nor a core return 0 (R337). -/
def dataHidden (s : State) (home m : Nat) : Bool :=
  decide (0x32000 ≤ home) && decide (home < 0x34000) && !isCore m &&
    lockOwner s ((home - 0x30000) / 0x100) != m

/-- The message header as a take returns it (R329). -/
def mbxHeader (s : State) (n : Nat) : Nat :=
  rd s (R.mbxHdrLen n) + rd s (R.mbxHdrSender n) * 2 ^ 16 + rd s (R.mbxHdrResp n) * 2 ^ 22 +
  rd s (R.mbxHdrValid n) * 2 ^ 23 + rd s (R.mbxHdrSeq n) * 2 ^ 24 + rd s (R.mbxHdrCookie n) * 2 ^ 32

/-- The 256 bytes of a mailbox. -/
def mbxBytes (s : State) (n : Nat) : List Byte :=
  (List.range 32).foldl (fun a j => a ++ toLe 8 (rd s (R.mbxDataBytes n j))) []

/-- Store a message in a mailbox from byte 0 on. -/
def putMsg (s : State) (n : Nat) (b : List Byte) : State :=
  (List.range (cdiv b.length 8)).foldl (fun s j => wr s (R.mbxDataBytes n j) (fieldLe b (8 * j) 8)) s

/-- Fill a header: LEN and COOKIE as written, SENDER, SEQ and VALID by the device (R329). -/
def setHeader (s : State) (n len sender resp cookie : Nat) : State :=
  wrs s [(R.mbxHdrLen n, len), (R.mbxHdrSender n, sender), (R.mbxHdrResp n, resp), (R.mbxHdrValid n, 1),
    (R.mbxHdrSeq n, rd s (R.mbxHdrSeq n) + 1), (R.mbxHdrCookie n, cookie)]

/-- A command mailbox becomes EMPTY; a lock that is RELEASING becomes FREE (R336, R337). -/
def emptyCommand (s : State) (n : Nat) : State :=
  let s := wrs s [(R.mbxStatState n, 0), (R.mbxHdrValid n, 0)]
  let s := { s with host := { s.host with takenBy := mdel s.host.takenBy n } }
  if lockOwner s n = 0x3F then setLock s n 0 else s

/-- A lock is released by its owner's release (R336): a response still waiting is discarded. -/
def releaseLock (s : State) (n : Nat) : State :=
  if mbxState s n = 0 then setLock s n 0
  else
    let s := setLock s n 0x3F
    if mbxState s n = 3 then emptyCommand s n else s

/-- The next outbound message of a mailbox that has emptied is posted (R334, R42). -/
def postOutbound (s : State) (n : Nat) : State :=
  match s.host.outRing.find? (fun e => e.1 == n) with
  | some (_, b) =>
    let s := setHeader (putMsg s n (b.drop 8)) n (b.length - 8) (rd s (R.mbxCfgWriter n)) 0 (fieldLe b 0 8)
    let s := wr s (R.mbxStatState n) 1
    let ring := s.host.outRing.eraseIdx ((s.host.outRing.findIdx? (fun e => e.1 == n)).getD 0)
    let s := { s with host := { s.host with outRing := ring ++ s.host.held.take (16 - ring.length),
                                            held := s.host.held.drop (16 - ring.length) } }
    if rdB s (R.mbxCfgFillInt n) then notifyMaster s (rd s (R.mbxCfgReader n)) n else s
  | none => s

/-- A FULL data mailbox whose reader is reset: its message is discarded (R331, R333). -/
def abortData (r : Nat) (s : State) (n : Nat) : State :=
  if rd s (R.mbxCfgReader n) = r ∧ mbxState s n = 1 then
    let s := wrs s [(R.mbxStatState n, 0), (R.mbxHdrValid n, 0), (R.mbxStatAborted n, 1)]
    notifyMaster s (rd s (R.mbxCfgWriter n)) n
  else s

/-- A command taken by a core that is reset (R337). -/
def abortCommand (r : Nat) (s : State) (n : Nat) : State :=
  if mget s.host.takenBy n = some r ∧ mbxState s n = 2 then
    let o := lockOwner s n
    let s := emptyCommand (wr s (R.mbxStatAborted n) 1) n
    let s := { s with host := { s.host with responseDue := mdel s.host.responseDue n } }
    if o = 0x3F then s else notifyMaster s o n
  else s

/-- The locks a master owns are released (R333). -/
def releaseOwned (r : Nat) (s : State) (n : Nat) : State :=
  if lockOwner s n = r then releaseLock s n else s

/-- Close the sessions bound to a requester (R346). -/
def closeSessionsOf (r : Nat) (s : State) : State :=
  (s.keys.sess.map (·.1)).foldl (fun s n => if rd s (R.hifSessReq n) = r then closeSession s n else s) s

/-- Reset of a master (R333). -/
def resetMaster (s : State) (r : Nat) : State :=
  let s := (List.range 32).foldl (abortData r) s
  let s := (upFrom 32 32).foldl (abortCommand r) s
  let s := (upFrom 32 32).foldl (releaseOwned r) s
  closeSessionsOf r s

/-- Codes of R341, with the key and cluster commands of their chapters. -/
def knownCode (c : Nat) : Bool :=
  [0x0001, 0x0002, 0x0003, 0x0004, 0x0005, 0x0010, 0x0011, 0x0012, 0x0020].contains c ||
  (decide (0x100 ≤ c) && decide (c ≤ 0x103)) || (decide (0x200 ≤ c) && decide (c ≤ 0x203)) ||
  (decide (0x210 ≤ c) && decide (c ≤ 0x215)) || (decide (0x300 ≤ c) && decide (c ≤ 0x302)) ||
  (decide (0x310 ≤ c) && decide (c ≤ 0x312)) || (decide (0x400 ≤ c) && decide (c ≤ 0x408)) ||
  (decide (0x500 ≤ c) && decide (c ≤ 0x503)) || (decide (0x600 ≤ c) && decide (c ≤ 0x602)) ||
  (decide (0x700 ≤ c) && decide (c ≤ 0x705))

/-- The response message of an answer (R339): header, inline payload, tag; a payload too large for the
mailbox goes to BUF_ADDR. -/
def responseMsg (a : Answer) : List Byte × Option (Nat × List Byte) × BitVec 128 :=
  let code := (Config.statusCode a.status).toNat
  let inl := a.payload.length ≤ 208
  let plen := if inl then a.payload.length else 0
  let w2 := fieldLe a.head 2 1
  let w2 := if inl then clrBit w2 1 else setBit w2 1
  let head := slice a.head 0 2 ++ toLe 1 w2 ++ slice a.head 3 1 ++ toLe 2 plen ++ toLe 2 code ++ slice a.head 8 24
  let body := if inl then a.payload else []
  let tag := match a.key with
    | some k => tagOf k (head ++ a.payload)
    | none => 0
  let msg := head ++ body ++ (if a.key.isSome then toLe 16 tag.toNat else [])
  (msg, if inl then none else some (fieldLe a.head 0x10 8, a.payload), tag)

end Sys2Proof.Machine
end

