-- ==== Sys2Proof/Machine/BatchOps.lean ====
section
/-!
DEFINITION. Shared operations of table-update batches and takes (R92–R97, R347–R349): reading a batch's
entries, applying and undoing them, and resolving the changed entries of a take.
-/

namespace Sys2Proof.Machine

open Sys2Proof

/-! ### Entries of a batch (R348) -/

/-- An operation of a batch entry, its operands read. -/
inductive BatchOp where
  | emSet (key action : Nat) (static : Bool)
  | emDelete (key : Nat)
  | lpmSet (vrf len addr action : Nat)
  | lpmDelete (vrf len addr : Nat)
  | cmsSet (banks value mask action : Nat) (before : Bool)
  | cmsDelete (value mask : Nat)
  | directSet (index action : Nat)
  | directDelete (index : Nat)
  | classMapSet (vrf cls : Nat)
  deriving DecidableEq, Repr

/-- Bytes a body field takes. -/
def pad8 (n : Nat) : Nat := cdiv n 8 * 8

/-- Entry width in bits of a care-mask table: that of its banks. -/
def cmsBits (s : State) (d : TblDecl) : Nat :=
  80 * 2 ^ ((banksOf s d.num 1 (homeQuad d)).head?.map (bankWidth s (homeQuad d))).getD 0

/-- Widths in bytes of the body fields of an operation on a table, if the operation fits its KIND. -/
def bodyFields (s : State) (d : TblDecl) (op : Nat) : Option (List Nat) :=
  let k := cdiv d.keyLen 8
  let w := cmsBits s d / 8
  match op, d.kind with
  | 1, 1 => some [k, 4 * emW d.keyLen]
  | 2, 1 => some [k]
  | 3, 2 => some [3, 16, 16]
  | 4, 2 => some [3, 16]
  | 5, 3 => some [4, w, w, 16]
  | 6, 3 => some [w, w]
  | 7, 4 => some [4, 16]
  | 8, 4 => some [4]
  | 9, 2 => some [3]
  | _, _ => none

/-- The values of body fields from byte `o`; none where a padding byte is not 0. -/
def readBody (b : List Byte) : Nat → List Nat → Option (List Nat)
  | _, [] => some []
  | o, n :: ns =>
    if fieldLe b (o + n) (pad8 n - n) = 0 then (readBody b (o + pad8 n) ns).map (fieldLe b o n :: ·) else none

/-- The operation the field values spell, if they are in range. -/
def spellOp (d : TblDecl) (op : Nat) (flags : Nat) (v : List Nat) : Option BatchOp :=
  let x := fun i => v.getD i 0
  let lpmOk := x 0 % 2 ^ 16 < 2 ^ 14 ∧ x 0 / 2 ^ 16 ≤ lpmW d ∧ x 1 < 2 ^ lpmW d
  match op with
  | 1 => if x 0 < 2 ^ d.keyLen ∧ (d.num = 256 → x 1 < 2 ^ 10) then some (.emSet (x 0) (x 1) (bit flags 1)) else none
  | 2 => if x 0 < 2 ^ d.keyLen then some (.emDelete (x 0)) else none
  | 3 => if lpmOk then some (.lpmSet (x 0 % 2 ^ 16) (x 0 / 2 ^ 16) (x 1) (x 2)) else none
  | 4 => if lpmOk then some (.lpmDelete (x 0 % 2 ^ 16) (x 0 / 2 ^ 16) (x 1)) else none
  | 5 => if x 1 < 2 ^ d.keyLen ∧ x 2 < 2 ^ d.keyLen then some (.cmsSet (x 0) (x 1) (x 2) (x 3) (bit flags 0)) else none
  | 6 => if x 0 < 2 ^ d.keyLen ∧ x 1 < 2 ^ d.keyLen then some (.cmsDelete (x 0) (x 1)) else none
  | 7 => if x 0 < 2 ^ d.keyLen then some (.directSet (x 0) (x 1)) else none
  | 8 => if x 0 < 2 ^ d.keyLen then some (.directDelete (x 0)) else none
  | 9 => if x 0 % 2 ^ 16 < 2 ^ 14 then some (.classMapSet (x 0 % 2 ^ 16) (x 0 / 2 ^ 16)) else none
  | _ => none

/-- The entry at byte `o` of a batch: its table, its operation and its length. -/
def readEntry (s : State) (b : List Byte) (o : Nat) : Option (TblDecl × BatchOp × Nat) :=
  let op := fieldLe b o 1
  match tblDecl s (fieldLe b (o + 2) 2) with
  | some d =>
    match bodyFields s d op with
    | some fs =>
      let elen := fieldLe b (o + 4) 2
      if elen = 8 + (fs.map pad8).sum ∧ 16 ≤ elen ∧ elen ≤ 512 ∧ fieldLe b (o + 6) 2 = 0 then
        (readBody b (o + 8) fs).bind (fun v => (spellOp d op (fieldLe b (o + 1) 1) v).map (fun x => (d, x, elen)))
      else none
    | none => none
  | none => none

/-- The entries of a batch from byte `o` on, `n` of them, or the index of the first bad one. -/
def readEntries (s : State) (b : List Byte) : Nat → Nat → Nat → Except Nat (List (TblDecl × BatchOp))
  | 0, _, _ => .ok []
  | n + 1, i, o =>
    match readEntry s b o with
    | some (d, op, l) =>
      match readEntries s b n (i + 1) (o + l) with
      | .ok es => .ok ((d, op) :: es)
      | .error k => .error k
    | none => .error i

/-! ### Applying a batch (R349) -/

/-- Apply one operation. -/
def applyOp (s : State) (d : TblDecl) : BatchOp → Except Status State
  | .emSet key action static => emSet s d key action static
  | .emDelete key => emDelete s d key
  | .lpmSet vrf len addr action => lpmSet s d vrf len addr action
  | .lpmDelete vrf len addr => lpmDelete s d vrf len addr
  | .cmsSet banks value mask action before => cmsSet s d value mask action before banks
  | .cmsDelete value mask => cmsDelete s d value mask
  | .directSet index action => dirSet s d index action
  | .directDelete index => dirDelete s d index
  | .classMapSet vrf cls => classMapSet s d vrf cls

/-- Count a refused operation in its table's counters. -/
def countRefused (s : State) (d : TblDecl) (op : BatchOp) (r : Status) : State :=
  if r = .noRoom then
    match op with
    | .lpmSet .. | .lpmDelete .. => tblCnt s d.num 7
    | .cmsSet .. => cmsNoRoom s d
    | .emSet .. | .directSet .. | .classMapSet .. => tblCnt s d.num 6
    | _ => s
  else s

/-- Restore the USED fields a batch may have moved. -/
def restoreUsed (s0 s : State) : State :=
  let ts := (s.tab.log.map (·.1)).eraseDups.filter (fun t => decide (t < 256))
  let s := ts.foldl (fun s t =>
    let s := wr s (R.fwdTblStatUsed t) (rd s0 (R.fwdTblStatUsed t))
    (List.range 4).foldl (fun s q => wr s (R.fwdTblOvfUsed q t) (rd s0 (R.fwdTblOvfUsed q t))) s) s
  (List.range 128).foldl (fun s i =>
    let s := wr s (R.cmsStatRestoring (i / 32)) (rd s0 (R.cmsStatRestoring (i / 32)))
    wr s (R.cmsBankUsed (i / 32) (i % 32)) (rd s0 (R.cmsBankUsed (i / 32) (i % 32)))) s

/-- Undo the applied entries of a batch: the tables are as before it, and every change is reported again in
reverse order (R140, R349). -/
def undoBatch (s0 s : State) : State :=
  let log := s.tab.log.reverse
  let s := restoreUsed s0 s
  let s := { s with tab := { s0.tab with log := [] } }
  let s := wr s R.stgTakeStagedChanges (rd s0 R.stgTakeStagedChanges)
  let s := log.foldl (fun s l =>
    match tblDecl s l.1 with
    | some d => report s d l.2.1 0 [(l.2.2.1, l.2.2.2)]
    | none => s) s
  { s with tab := { s.tab with log := [] } }

/-- A batch's outcome. -/
structure BatchOut where
  status : Status
  index : Nat
  st : State

/-- INDEX when no entry was refused (R327). -/
def noIndex : Nat := 0xFFFFFFFF

/-- Apply entries in order; a refusal undoes all of them. `s0` is the state before the batch. -/
def applyAll (s0 : State) : State → Nat → List (TblDecl × BatchOp) → BatchOut
  | s, i, [] => ⟨.ok, noIndex, syncPhase (bumpBy (bump { s with tab := { s.tab with log := [] } } (R.hifCntCount 3)) (R.hifCntCount 6) i)⟩
  | s, i, (d, op) :: es =>
    match applyOp s d op with
    | .ok s => applyAll s0 s (i + 1) es
    | .error r => ⟨r, i, syncPhase (bump (countRefused (undoBatch s0 s) d op r) (R.hifCntCount 4))⟩

/-- An invalid or refused batch, with nothing applied. -/
def batchRefuse (s : State) (r : Status) (i : Nat) : BatchOut := ⟨r, i, bump s (R.hifCntCount 4)⟩

/-- The take rules for a batch that stages (R93). -/
def stageRefusal (s : State) (es : List (TblDecl × BatchOp)) : Option Status :=
  if es.all (fun e => e.1.egress) then none
  else if !modeIn s commandModes then some .refusedMode
  else if s.take.timed.isSome then some .busy
  else if isSettling s then some .versionConflict
  else none

/-- The checks of a batch past its tag, and its application. -/
def runBatch (s : State) (b : List Byte) : BatchOut :=
  let len := fieldLe b 0x14 4
  let n := fieldLe b 0x10 4
  if fieldLe b 0 4 ≠ 0x42544B53 ∨ fieldLe b 4 4 / 32 ≠ 0 ∨ len ≠ b.length ∨ 1048576 < len ∨ len < 48 ∨ len < 48 + 16 * n then
    batchRefuse s .invalid noIndex
  else
    match readEntries s (b.take (len - 16)) n 0 32 with
    | .error i => batchRefuse s .invalid i
    | .ok es =>
      match stageRefusal s es with
      | some r => batchRefuse s r noIndex
      | none =>
        -- The batch's changes of a learning table come to its arbiter behind the requests that wait (R133).
        let s := ((es.filter (fun e => e.1.learn)).map (·.1)).eraseDups.foldl drainArbiter s
        applyAll s { s with tab := { s.tab with log := [] } } 0 es

/-- A batch from requester `r` (R340, R347): its tag is verified, and it is applied. The tag of the answer is
computed under K_rsp over SEQ, STATUS and INDEX (R327). -/
def processBatch (s : State) (r : Nat) (b : List Byte) : BatchOut × BitVec 128 :=
  if isCore r then (runBatch s b, 0)
  else
    let n := bits (fieldLe b 4 4) 0 5
    let seq := fieldLe b 8 8
    let msg := b.take (b.length - 16)
    let tag := BitVec.ofNat 128 (leNat (b.drop (b.length - 16)))
    if 48 ≤ b.length && authentic s r n seq msg tag then
      let kr := keyRsp s n
      let s := wr s (R.hifSessSeqSeq n) seq
      let o := if hasRight s n (some 0) then runBatch s b
        else batchRefuse (authRefused s r n 0x0100 seq) .refusedUnauthenticated noIndex
      let t := tagOf kr (toLe 8 seq ++ toLe 2 (Config.statusCode o.status).toNat ++ toLe 4 o.index)
      ({ o with st := lastSeq (wrStat o.st (R.hifSessLastStatus n) o.status) n seq }, t)
    else
      let x := freeVal s 64
      (batchRefuse (authRefused x.2 r n 0x0100 seq) .refusedUnauthenticated noIndex, BitVec.ofNat 128 x.1)

/-! ### Resolving the changed entries of a take (R93, R96) -/

/-- GEN after the changed entries are resolved to the takes of parity `k`; 0 frees the entry. -/
def resolveGen (k g : Nat) : Nat := if g = 3 then 3 else if bit g k then 3 else 0

/-- The cells that a repair has taken an entry from for takes of parity `k`, as both bitmaps have them (R129). -/
def normUnas (k : Nat) (l : List Nat) : List Nat :=
  (l.filter (fun x => x % 2 == k)).foldl (fun a x => a ++ [x / 2 * 2, x / 2 * 2 + 1]) []

/-- Settling makes both bitmaps of an entry's cells equal (R129). -/
def evenUnas (s : State) (d : TblDecl) (slot k cause : Nat) : State :=
  match mget (bkt s d.num) slot with
  | some e =>
    let u := normUnas k e.unas
    if u = e.unas then s
    else reportCells s (setBkt s d.num (mset (bkt s d.num) slot { e with unas := u })) d cause (e.unas.map (· / 2)).eraseDups
  | none => s

/-- Resolve one bucket array. -/
def resolveBkt (k cause : Nat) (s : State) (d : TblDecl) : State :=
  (bkt s d.num).foldl (fun s x =>
    if x.2.gen = 3 then evenUnas s d x.1 k cause
    else if bit x.2.gen k then
      match mget (bkt s d.num) x.1 with
      | some e => putEnt s d x.1 { e with gen := 3, unas := normUnas k e.unas } cause
      | none => s
    else
      let s := delEnt s d x.1 cause
      if d.kind = 1 then promote s d (x.1 / spb d) else s) s

/-- Resolve the banks of a table, overflow stores included. -/
def resolveBanks (k cause : Nat) (s : State) (d : TblDecl) : State :=
  (imageBanks s d).foldl (fun s qb =>
    (bank s qb.1 qb.2).foldl (fun s x =>
      if x.2.gen = 3 then s
      else if bit x.2.gen k then putCms s d qb.1 qb.2 x.1 { x.2 with gen := 3 } cause
      else delCms s d qb.1 qb.2 x.1 cause) s) s

/-- Resolve the direct-index entries of a table. -/
def resolveDir (k cause : Nat) (s : State) (d : TblDecl) : State :=
  (mgetD s.tab.dir d.num []).foldl (fun s x =>
    if x.2.all (fun e => e.gen == 3) then s
    else setDir s d x.1 ((x.2.filter (fun e => bit e.gen k)).map (fun e => { e with gen := 3 })) cause) s

/-- Resolve the real prefixes of a table. -/
def resolveRib (k : Nat) (s : State) (d : TblDecl) : State :=
  if rib s d.num = [] then s
  else setRib s d.num (((rib s d.num).filter (fun e => bit e.gen k)).map (fun e => { e with gen := 3 }))

/-- Resolve every changed entry to the takes of parity `k`. -/
def resolveTake (k cause : Nat) (s : State) : State :=
  (tblDecls (sec s 5 0)).foldl (fun s d =>
    if d.egress then s
    else resolveRib k (resolveDir k cause (resolveBanks k cause (resolveBkt k cause s d) d) d) d) s

/-- Apply the staged class assignments (R129). -/
def applyClassMap (s : State) : State :=
  let l := s.tab.cmapNew
  let s := { s with tab := { s.tab with cmapNew := [] } }
  l.foldl (fun s a =>
    match tblDecl s a.1 with
    | some d =>
      match moveClass s d ⟨false, 0⟩ a.2.1 a.2.2 4 with
      | .ok s => s
      | .error _ => setClass s d a.2.1 a.2.2 4
    | none => s) s

/-- Undo the staged changes (TAKE_DISCARD). -/
def discardStaged (s : State) : State :=
  let s := resolveTake (rd s R.stgTakeStatCur % 2) 0 s
  let s := { s with tab := { s.tab with cmapNew := [], log := [] } }
  wr s R.stgTakeStagedChanges 0

/-- Settling ends (R96). -/
def settleTake (s : State) : State :=
  let s := applyClassMap (resolveTake (rd s R.stgTakeStatCur % 2) 4 s)
  let s := { s with tab := { s.tab with log := [] }, take := { s.take with settling := false, drainSince := none } }
  syncPhase (wrs s [(R.stgTakeStagedChanges, 0), (R.stgTakeStatOldLive, 0)])

/-- The older take retires (R95). -/
def retireTake (s : State) : State :=
  syncPhase { s with take := { s.take with settling := true } }

/-- A take is retired: it is neither current nor an older take that still drains (R95). -/
def takeRetired (s : State) (t : Nat) : Bool :=
  !(t == rd s R.stgTakeStatCur ||
    (rdB s R.stgTakeStatOldLive && !s.take.settling && t == rd s R.stgTakeStatOld))

/-- TAKE of a metadata bus (R75). -/
def busTake (bus : Nat) : Nat := bits bus 32 16

/-- Accept a timed commit (R93). -/
def commitTimed (s : State) (t : Nat) (cluster : Bool) : CmdOut :=
  let d := nsDiff t (nowNs s)
  if s.take.timed.isSome then refuse .busy s
  else if !timeValid s then refuse .timeNotValid s
  else if d = 0 ∨ 2 ^ 31 ≤ d then refuse .invalid s
  else
    let s := wrs s [(R.stgTakeActActTime, t),
      (R.stgTakeActActTake, rd s R.stgTakeStatCur + (if s.take.accepted.isSome then 2 else 1)), (R.stgTakeActTimed, 1)]
    okay (syncPhase { s with take := { s.take with timed := some t, cluster := cluster } })

end Sys2Proof.Machine
end

