-- ==== Sys2Proof/Machine/HbmView.lean ====
section
/-!
DEFINITION. The bytes a stack shows for what the model holds elsewhere (R295): cell descriptors and pool 1 cells
(R239, R241) and the journal mirror (R432); and the device CRC that guards a granule (R303).
-/

namespace Sys2Proof.Machine

open Sys2Proof

/-! ### Byte memory -/

/-- The byte at an address; an unlisted address reads 0. -/
def memGet (m : Mem) (a : Nat) : Byte := (mget m a).getD 0

/-- Write one byte, keeping the canonical form: a zero is not listed. -/
def memPut (m : Mem) (a : Nat) (b : Byte) : Mem := if b = 0 then mdel m a else mset m a b

/-- `n` bytes from `a`. -/
def memRead (m : Mem) (a n : Nat) : List Byte := (upFrom a n).map (memGet m)

/-- Write bytes from `a` on. -/
def memWrite : Mem → Nat → List Byte → Mem
  | m, _, [] => m
  | m, a, b :: bs => memWrite (memPut m a b) (a + 1) bs

/-- The addresses of a list rise strictly from `lo` on and no listed byte is 0. -/
def Memory.risesFrom : Mem → Nat → Bool
  | [], _ => true
  | (a, b) :: m, lo => decide (lo ≤ a) && b != 0 && Memory.risesFrom m (a + 1)

/-- The canonical form of a byte memory. -/
def Memory.wf (m : Mem) : Bool := Memory.risesFrom m 0

/-- Bytes `cur` that lie from address `lo` on, with those of a write of `bs` at `a` put over them. -/
def overlay (lo : Nat) (cur : List Byte) (a : Nat) (bs : List Byte) : List Byte :=
  (List.range cur.length).map (fun i =>
    if a ≤ lo + i ∧ lo + i < a + bs.length then bs.getD (lo + i - a) 0 else cur.getD i 0)

/-! ### The frame header (R241) -/

/-- EGR_POS, equal in every queue tree (R250, R251). -/
def egrPos (s : State) : Nat := ((s.cel.treeHdr.head?).map (·.2.egrPos)).getD 0

/-- The frame behind a copy in its queue. -/
def nextFrame (s : State) (cp : Nat) : Option Nat :=
  (mget s.cel.copies cp).bind (fun c => (queueNode s c.queue).bind (fun k => (mget s.cel.nodes k).bind (fun n =>
    ((n.frames.dropWhile (· != cp)).drop 1).head?)))

/-- The bus a frame header at cell `p` holds: a copy's, or that of the shared chain's frame; none before the
ingress section has ended. -/
def headerBus (s : State) (p : Nat) : Option Nat :=
  match mget s.cel.copies p with
  | some c => some c.bus
  | none => (mget s.cel.frames p).bind (fun f => if f.phase = .done then some f.bus else none)

/-- Bytes 0x00–0x3B of the frame header at cell `p`, whose bus is `bus`. -/
def headerBody (s : State) (p bus : Nat) : List Byte :=
  let nf := nextFrame s p
  let data := match mget s.cel.copies p with
    | some c => if c.head = p then 0 else c.head
    | none => 0
  toLe 32 bus ++ toLe 16 (bits bus (egrPos s) 128) ++ toLe 4 ((nf.getD 0) % 2 ^ 28 + b2n nf.isSome * 2 ^ 28) ++
    toLe 4 (data % 2 ^ 28) ++ toLe 4 0

/-- The 64 bytes of a frame header, with its HCRC. -/
def headerBytes (s : State) (p bus : Nat) : List Byte :=
  let b := headerBody s p bus
  b ++ toLe 4 (crc32c 0xFFFFFFFF b)

/-- Bytes XORed byte by byte with what disturbs them. -/
def disturb : List Byte → List Byte → List Byte
  | b, [] => b
  | [], _ => []
  | x :: b, y :: h => (x ^^^ y) :: disturb b h

/-- A header read passes its HCRC check; `hurt` disturbs its bytes from 0x00 on. -/
def hcrcGood (s : State) (p : Nat) (hurt : List Byte) : Bool :=
  match headerBus s p with
  | some bus =>
    let b := headerBody s p bus
    crc32c 0xFFFFFFFF (disturb b (hurt.take 60)) == crc32c 0xFFFFFFFF b ^^^ leNat ((hurt.drop 60).take 4)
  | none => hurt.all (· == 0)

/-! ### Cells (R238, R239) -/

/-- The 16 bytes of a cell descriptor (R239). -/
def descBytes (c : Option CellS) : List Byte :=
  match c with
  | some c =>
    toLe 4 (c.next % 2 ^ 28 + c.st % 4 * 2 ^ 28 + b2n c.sof * 2 ^ 30 + b2n c.eof * 2 ^ 31) ++ toLe 4 c.crc ++
    toLe 2 (c.len % 2 ^ 11 + b2n c.abort * 2 ^ 11 + c.oclass % 4 * 2 ^ 12) ++ toLe 2 (c.owner % 2 ^ 12) ++
    toLe 2 c.remain ++ [0, 0]
  | none => List.replicate 16 0

/-- The descriptor that 16 bytes spell, over the cell's data. -/
def cellOfDesc (b : List Byte) (data : List Byte) : CellS :=
  let w := fieldLe b 0 4
  let l := fieldLe b 8 2
  { next := bits w 0 28, st := bits w 28 2, sof := bit w 30, eof := bit w 31, crc := fieldLe b 4 4, len := bits l 0 11,
    abort := bit l 11, oclass := bits l 12 2, owner := fieldLe b 10 2 % 2 ^ 12, remain := fieldLe b 12 2, data := data }

/-- Where a cell's data begin: behind the frame header in a first cell (R241). -/
def dataAt (c : CellS) : Nat := if c.sof then 64 else 0

/-- Byte `o` of the cell at `p`, where the model holds it. -/
def cellByte (s : State) (p : Nat) (c : CellS) (o : Nat) : Option Byte :=
  if o < dataAt c then (headerBus s p).map (fun bus => (headerBytes s p bus).getD o 0)
  else if c.st = 3 then none
  else c.data[o - dataAt c]?

/-! ### The journal mirror (R432, R435) -/

/-- The number a record shows as its STATUS (R434). -/
def jStatusNum (st : JStatus) : Nat :=
  match st with
  | .num n => n
  | .code c => (Config.statusCode c).toNat

/-- The 64 bytes of a record (R432). -/
def recBytes (r : JRec) : List Byte :=
  let b := toLe 2 r.typ ++ toLe 1 (r.sev % 4 + r.tvalid % 2 * 4 + r.source % 4 * 8 + r.mode % 8 * 32) ++
    toLe 1 (r.req % 64 + r.holdupOvr % 2 * 64) ++ toLe 4 r.seq ++ toLe 4 r.boot ++ toLe 4 r.ns ++ toLe 8 r.uptime ++
    toLe 2 r.unit ++ toLe 2 (jStatusNum r.status) ++ toLe 4 0 ++ toLe 8 r.arg0 ++ toLe 8 r.arg1 ++ toLe 8 r.arg2 ++
    toLe 4 0
  b ++ toLe 4 (crc32c 0xFFFFFFFF b)

/-- Region 0 of stack 0: staging, then the mirror, a record at its SEQ modulo the ring (log 44). -/
def stageBase : Nat := 0
def mirrorBase : Nat := 32 * 2 ^ 20
def mirrorEnd : Nat := 36 * 2 ^ 20

/-! ### What a stack's bytes are -/

/-- Only the stack's own memory lies in `n` bytes from `a` on: neither region 5 or 6, staging nor the mirror. -/
def plainArea (s : State) (st a n : Nat) : Bool :=
  (decide (a + n ≤ hbmBase s st 5) || decide (hbmBase s st 7 ≤ a)) &&
  (st != 0 || decide (mirrorEnd ≤ a))

/-- The byte that the cell manager or the journal controller keeps at an address. -/
def viewByte (s : State) (st a : Nat) : Option Byte :=
  let b5 := hbmBase s st 5
  let b6 := hbmBase s st 6
  if b5 ≤ a ∧ a < b6 then (mget s.cel.cells (cellPtr 1 st ((a - b5) / 16))).map (fun c =>
    (descBytes (some c)).getD ((a - b5) % 16) 0)
  else if b6 ≤ a ∧ a < hbmBase s st 7 then
    let p := cellPtr 1 st ((a - b6) / 1024)
    (mget s.cel.cells p).bind (fun c => cellByte s p c ((a - b6) % 1024))
  else if st = 0 ∧ a < mirrorBase then s.img.staging[a - stageBase]?
  else if st = 0 ∧ a < mirrorEnd then
    (s.saf.jMirror.find? (fun r => r.seq % 65536 == (a - mirrorBase) / 64)).map (fun r => (recBytes r).getD (a % 64) 0)
  else none

/-- Bytes of a stack as they stand, without a request. -/
def hbmPeek (s : State) (st a n : Nat) : List Byte :=
  if plainArea s st a n then memRead s.hbm.mem (hkey st a) n
  else (upFrom a n).map (fun x => (viewByte s st x).getD (memGet s.hbm.mem (hkey st x)))

/-- A cell of pool 1 after a write of bytes at `a` of its stack: its descriptor and its data take them. -/
def pokeCell (s : State) (st a : Nat) (bs : List Byte) (p : Nat) (c : CellS) : CellS :=
  let d := cellDescAt s p
  let x := cellDataAt s p + dataAt c
  let data := overlay x c.data a bs
  if d < a + bs.length ∧ a < d + 16 then cellOfDesc (overlay d (descBytes (some c)) a bs) data else { c with data := data }

/-- The staged image after a write of bytes at `a` of stack `st`. -/
def pokeStaging (s : State) (st a : Nat) (bs : List Byte) : List Byte :=
  if st = 0 then overlay stageBase s.img.staging a bs else s.img.staging

/-- Store bytes in a stack. A frame header and the mirror show what their owners keep, whatever is stored there
(log 44). -/
def storeBytes (s : State) (st a : Nat) (bs : List Byte) : State :=
  let s := { s with hbm := { s.hbm with mem := memWrite s.hbm.mem (hkey st a) bs } }
  if plainArea s st a bs.length then s
  else
    let cells := s.cel.cells.map (fun e =>
      if ptrPool e.1 = 1 ∧ ptrQuad e.1 = st then (e.1, pokeCell s st a bs e.1 e.2) else e)
    { s with cel := { s.cel with cells := cells }, img := { s.img with staging := pokeStaging s st a bs } }

/-! ### The device CRC (R303) -/

/-- CRC-32C over a granule's 64 bytes and logical address bits 35:6 of it, as 4 bytes. -/
def deviceCrc (bs : List Byte) (a : Nat) : Nat := crc32c 0xFFFFFFFF (bs ++ toLe 4 (bits a 6 30))

end Sys2Proof.Machine
end

