-- ==== Sys2Proof/Machine/HbmOps.lean ====
section
/-!
DEFINITION. Shared operations of the external memory controller (chapter 11): logical channels, poison marks, the
error log, sparing, open rows, the write queue, reads and writes.
-/

namespace Sys2Proof.Machine

open Sys2Proof

/-! ### Roles (R314–R316) -/

/-- The physical channels of a stack with a role. -/
def pcsWith (s : State) (st role : Nat) : List Nat :=
  (List.range 64).filter (fun p => rd s (R.hbmPcRole st p) == role)

/-- The physical channel an access to an address reaches: a migrated block lies on the destination (R315). -/
def physPc (s : State) (st a : Nat) : Nat :=
  match mget s.hbm.mig st with
  | some m => if m.logical = logCh a ∧ rowBlk a < rd s (R.hbmMigStatMark st) then m.dst
              else (servingPc s st (logCh a)).getD 0
  | none => (servingPc s st (logCh a)).getD 0

/-- Keep HBM_STAT.SPARES, DEAD and MIGRATING equal to what they show. -/
def syncRoles (s : State) (st : Nat) : State :=
  wrs s [(R.hbmStatSpares st, (pcsWith s st 1).length),
    (R.hbmStatDead st, b2n ((List.range 62).any (chanDead s st))),
    (R.hbmStatMigrating st, b2n (mget s.hbm.mig st).isSome)]

/-! ### Poison marks (R306, R316) -/

/-- Set or clear the mark of a granule. -/
def setMark (s : State) (st g : Nat) : State :=
  { s with hbm := { s.hbm with poison := hkey st (64 * g) :: s.hbm.poison.filter (· != hkey st (64 * g)) } }
def clearMark (s : State) (st g : Nat) : State :=
  let lost := mmod s.hbm.lost (64 * st + logCh (64 * g)) (fun e => (g :: e.1.filter (· != g), e.2))
  { s with hbm := { s.hbm with poison := s.hbm.poison.filter (· != hkey st (64 * g)), lost := lost } }

/-! ### The error log (R307) -/

/-- The 32 bytes of a log record. -/
def logBytes (s : State) (st share kind g syn : Nat) : List Byte :=
  toLe 8 (uptime s) ++ toLe 4 (nowNs s) ++ toLe 1 (b2n (timeValid s) + 2 * kind + 16 * share) ++
  toLe 1 (physPc s st (64 * g) + 64 * st) ++ [0, 0] ++ toLe 8 (64 * g % 2 ^ 36) ++ toLe 4 syn ++ [0, 0, 0, 0]

/-- Write a log record; one overwritten sets OVERRUN. -/
def logErr (s : State) (st share kind g syn : Nat) : State :=
  let i := rd s (R.hbmErrStatNext st)
  let b := logBytes s st share kind g syn
  let old := (List.range 4).any (fun j => rd s (R.hbmErrBytes st i j) != 0)
  let s := if old then wr s (R.hbmErrStatOverrun st) 1 else s
  let s := (List.range 4).foldl (fun s j => wr s (R.hbmErrBytes st i j) (fieldLe b (8 * j) 8)) s
  wr s (R.hbmErrStatNext st) (i + 1)

/-- A MEMORY journal record (R434). -/
def memJournal (s : State) (st pc sev kind a syn : Nat) : State :=
  journal s 0x0050 sev (unitOf st pc) (.num kind) a syn

/-! ### Sparing (R314–R317) -/

/-- Write a channel's role and logical channel; firmware records a retirement in flash (R314). -/
def setRole (s : State) (st p role l : Nat) : State :=
  let s := wrs s [(R.hbmPcRole st p, role), (R.hbmPcLogical st p, l)]
  { s with flashRegs := mset (mset s.flashRegs (fkey (R.hbmPcRole st p)) role) (fkey (R.hbmPcLogical st p)) l }

/-- A role that a migration holds for a time: not a retirement, and not in flash. -/
def holdRole (s : State) (st p role l : Nat) : State :=
  wrs s [(R.hbmPcRole st p, role), (R.hbmPcLogical st p, l)]

/-- A rate change, made or waiting to be made, or a migration runs on a stack (R313, R317). -/
def memBusy (s : State) (st : Nat) : Bool :=
  rdB s (R.hbmRateGo st) || rd s (R.hbmStatState st) == 5 || (mget s.hbm.mig st).isSome

/-- A migration from channel `p` to spare `d` starts (R315). -/
def startMigration (s : State) (st p d : Nat) : State :=
  let l := rd s (R.hbmPcLogical st p)
  let s := holdRole (holdRole s st p 3 l) st d 4 l
  let s := wrs s [(R.hbmMigStatSrc st, p), (R.hbmMigStatDst st, d), (R.hbmMigStatMark st, 0)]
  syncRoles { s with hbm := { s.hbm with mig := mset s.hbm.mig st ⟨l, p, d⟩ } } st

/-- A retirement is journalled, and an event is posted (R316). -/
def tellRetired (s : State) (st p : Nat) : State :=
  syncRoles (notice (memJournal s st p 1 0 0 0) (toLe 1 st ++ toLe 1 p)) st

/-- Channel `d` takes logical channel `l` at once: every granule reads as poison-marked until it is written (R316). -/
def takeLogical (s : State) (st d l : Nat) : State :=
  let s := setRole s st d 0 l
  { s with hbm := { s.hbm with lost := mset s.hbm.lost (64 * st + l) ([], false) } }

/-- Retirement of a serving channel without migration: a spare takes its logical channel, or that is dead (R316). -/
def retireNow (s : State) (st p : Nat) : State :=
  let l := rd s (R.hbmPcLogical st p)
  let s := setRole s st p 2 0x3F
  let s := match (pcsWith s st 1).head? with
    | some d => takeLogical s st d l
    | none => standFault s 20 (unitOf st p) 1
  tellRetired s st p

/-- A migration ends before its last block (R316). -/
def stopMigration (s : State) (st : Nat) : State := { s with hbm := { s.hbm with mig := mdel s.hbm.mig st } }

/-- A channel that fails its training is retired without migration, whatever its role (R311, R316). The failure of a
migration's source hands the logical channel to the destination, that of the destination leaves it to the source
(log 44). -/
def failChannel (st : Nat) (s : State) (p : Nat) : State :=
  match rd s (R.hbmPcRole st p), mget s.hbm.mig st with
  | 0, _ => retireNow s st p
  | 1, _ => tellRetired (setRole s st p 2 0x3F) st p
  | 3, some m => tellRetired (takeLogical (setRole (stopMigration s st) st p 2 0x3F) st m.dst m.logical) st p
  | 4, some m => tellRetired (holdRole (setRole (stopMigration s st) st p 2 0x3F) st m.src 0 m.logical) st p
  | _, _ => s

/-- The automatic trigger of R317: a migration to the lower-numbered free spare, or retirement. -/
def autoSpare (s : State) (st p : Nat) : State :=
  if rd s (R.hbmPcRole st p) ≠ 0 then s
  else if memBusy s st then
    { s with hbm := { s.hbm with autoWait := s.hbm.autoWait.filter (· != (st, p)) ++ [(st, p)] } }
  else match (pcsWith s st 1).head? with
    | some d => startMigration s st p d
    | none => retireNow s st p

/-- Automatic triggers that waited for a migration or a rate change go on, until one starts another (R317). -/
def resumeAuto (s : State) (st : Nat) : State :=
  (s.hbm.autoWait.filter (fun e => e.1 == st)).foldl (fun s e =>
    if memBusy s st then s
    else autoSpare { s with hbm := { s.hbm with autoWait := s.hbm.autoWait.filter (· != e) } } st e.2) s

/-- Count a first-read mismatch of a channel (R317). -/
def countMismatch (s : State) (st p : Nat) : State :=
  let k := 64 * st + p
  let win := rd s (R.hbmSpareCfgWindowMs st) * 10 ^ 6
  let l := ((mgetD s.hbm.mism k []).filter (fun t => decide (uptime s - t ≤ win))) ++ [uptime s]
  let s := { s with hbm := { s.hbm with mism := mset s.hbm.mism k l } }
  let th := rd s (R.hbmSpareCfgThresh st)
  if rdB s (R.hbmSpareCfgAuto st) && th != 0 && decide (th ≤ l.length) then
    autoSpare { s with hbm := { s.hbm with mism := mdel s.hbm.mism k } } st p
  else s

/-! ### Rates, rows and refreshes (R298, R299, R308, R310) -/

/-- Pin rate code `r` in units of 0.1 Gbit/s. -/
def rateUnits (r : Nat) : Nat := 64 + 8 * min r 2

/-- The stack runs at rate `r` from now on; firmware scales the quadrant's miss budget with it (R298, log 44). -/
def setPinRate (s : State) (stack old r : Nat) : State :=
  wrs s [(R.hbmStatRate stack, r),
    (R.fltBudgetMissGbps stack, rd s (R.fltBudgetMissGbps stack) * rateUnits r / rateUnits old)]

/-- The miss engine, the cell manager, firmware and the units that read for it, an engine group, a migration. -/
def missPort : HbmPort := ⟨0, 0, 1⟩
def cellPort : HbmPort := ⟨1, 1, 3⟩
def otherPort : HbmPort := ⟨2, 2, 0⟩
def enginePort (share g hint : Nat) : HbmPort := ⟨share, 4 + g, hint⟩
def copyPort : HbmPort := ⟨3, 3, 0⟩

/-- A refresh catch-up runs on the stack (R310). -/
def catching (s : State) (st : Nat) : Bool := decide (uptime s < mgetD s.hbm.catchUntil st 0)

/-- What hint 0 means for a share: HBM_HINT_CFG's value, 0 read as 1. -/
def hintCfg (s : State) (st share : Nat) : Nat :=
  let h := match share with
    | 0 => rd s (R.hbmHintCfgFlow st)
    | 1 => rd s (R.hbmHintCfgBuffer st)
    | 2 => rd s (R.hbmHintCfgOther st)
    | _ => 1
  if h = 0 then 1 else h

/-- The hint a request is served with (R299, R310). -/
def pageHint (s : State) (p : HbmPort) (st : Nat) : Nat :=
  let h := if p.hint = 0 then hintCfg s st p.share else p.hint
  if catching s st then 1 else h

/-- The bank of a row-block in the physical channel that serves it, as a key of `rows`. -/
def bankKey (s : State) (st a : Nat) : Nat := (64 * st + physPc s st a) * 65536 + Config.hbmBank (rowBlk a)

/-- The row an access finds open in its bank: idle rows have closed. -/
def openRow (s : State) (st a : Nat) : Option RowS :=
  (mget s.hbm.rows (bankKey s st a)).bind (fun r =>
    if r.row = Config.hbmRow (rowBlk a) ∧ uptime s < r.last + rd s (R.hbmHintCfgOpenNs st) then some r else none)

/-- A requester's burst goes on: its later requests to the row are served ahead of others to that bank. -/
def inBurst (s : State) (p : HbmPort) (r : RowS) : Bool :=
  r.req == p.req && decide (0 < r.left) && decide (uptime s ≤ r.till)

/-- What an access of `n` granules leaves of the row it reaches (R299). -/
def touchRow (s : State) (p : HbmPort) (st a n : Nat) : State :=
  let k := bankKey s st a
  let row := Config.hbmRow (rowBlk a)
  let rows := match pageHint s p st with
    | 1 => mdel s.hbm.rows k
    | 3 =>
      let b := match (openRow s st a).filter (inBurst s p) with
        | some r => (r.left - n, r.till)
        | none => (8, uptime s + 200)
      mset s.hbm.rows k ⟨row, uptime s, p.req, b.1, b.2⟩
    | _ => mset s.hbm.rows k ⟨row, uptime s, p.req, 0, 0⟩
  { s with hbm := { s.hbm with rows := rows } }

/-- `n` refreshes of a channel, key 64 × stack + channel, in round-robin bank order; a refresh closes its bank's row. -/
def refreshBanks (k : Nat) : Nat → State → State
  | 0, s => s
  | n + 1, s =>
    let b := mgetD s.hbm.bank k 0
    refreshBanks k n { s with hbm := { s.hbm with
      bank := mset s.hbm.bank k ((b + 1) % Config.hbmBanks), rows := mdel s.hbm.rows (k * 65536 + b) } }

/-! ### The write queue (R300) -/

/-- The granules of `n` bytes from `a` on, as keys. -/
def granKeys (st a n : Nat) : List Nat := (upFrom (a / 64) (cdiv (a % 64 + n) 64)).map (fun g => hkey st (64 * g))

/-- Some granule of a read is still in the write queue. -/
def queuedRange (s : State) (st a n : Nat) : Bool := (granKeys st a n).any (fun k => s.hbm.queued.contains k)

/-- A granule enters a stack's write queue of 512; the oldest of a full one has by then been written to the stack. -/
def queueWrite (s : State) (st g : Nat) : State :=
  let k := hkey st (64 * g)
  let l := s.hbm.queued.filter (· != k)
  let mine := l.filter (fun x => x / 2 ^ 40 == st)
  let l := if mine.length < 512 then l else l.filter (· != mine.headD k)
  { s with hbm := { s.hbm with queued := l ++ [k] } }

/-- The queued writes of a read's granules have been written to the stack. -/
def drainRange (s : State) (st a n : Nat) : State :=
  let ks := granKeys st a n
  { s with hbm := { s.hbm with queued := s.hbm.queued.filter (fun k => !ks.contains k) } }

/-! ### Reads and writes (R303–R306) -/

/-- What disturbs a read: for a granule, counted from the request's first, the bits in which the CRC of the data read
differs from that of the data stored, at the first read and at the re-read. -/
abbrev HbmErrs := List (Nat × Nat × Nat)

/-- What disturbs a request, from what disturbs the first read of each granule and what disturbs its re-read. -/
def errsOf (first again : List (Nat × Nat)) : HbmErrs := first.map (fun e => (e.1, e.2, mgetD again e.1 0))

/-- The disturbances of granule `i`. -/
def errAt (errs : HbmErrs) (i : Nat) : Nat × Nat := ((errs.find? (fun e => e.1 == i)).map (·.2)).getD (0, 0)

/-- The CRC a granule carries: a poison mark is the CRC inverted (R306). -/
def storedCrc (s : State) (st g : Nat) : Nat :=
  deviceCrc (hbmPeek s st (64 * g) 64) (64 * g) ^^^ (if marked s st g then 0xFFFFFFFF else 0)

/-- The syndrome of a read of granule `g` that `d` disturbs: the stored CRC XOR the computed one (R303). -/
def syndrome (s : State) (st g d : Nat) : Nat :=
  storedCrc s st g ^^^ (deviceCrc (hbmPeek s st (64 * g) 64) (64 * g) ^^^ d % 2 ^ 32)

/-- What reading a granule answers: whether it is poisoned, the syndrome of its last read, the next state. -/
structure GranAns where
  bad : Bool
  syn : Nat
  st : State

/-- An uncorrectable read of granule `g`: counted, logged, journalled, and code 20 (R304, R415). -/
def uncorrectable (s : State) (st share g syn : Nat) : State :=
  let s := bump s (R.hbmCntCount st 4)
  let s := logErr s st share 0 g syn
  let s := memJournal s st (physPc s st (64 * g)) 2 0 (64 * g) syn
  raiseFault { s with saf := { s.saf with uncRead := true } } 20 (unitOf st (physPc s st (64 * g))) 0

/-- The read of one granule and, where its syndrome is not 0, its re-read (R304). A dead channel answers poisoned
(R316). -/
def readGranule (s : State) (st share g : Nat) (err : Nat × Nat) : GranAns :=
  let a1 := syndrome s st g err.1
  let a2 := syndrome s st g err.2
  if chanDead s st (logCh (64 * g)) then ⟨true, 0, bump s (R.hbmCntCount st 4)⟩
  else if a1 = 0 then ⟨false, 0, s⟩
  else if a2 = 0 then
    ⟨false, 0, countMismatch (logErr (bump s (R.hbmCntCount st 3)) st share 1 g 0) st (physPc s st (64 * g))⟩
  else if a1 = 0xFFFFFFFF ∧ a2 = 0xFFFFFFFF then ⟨true, a2, bump s (R.hbmCntCount st 4)⟩
  else ⟨true, a2, uncorrectable s st share g a2⟩

/-- Some granule of a read is re-read: its syndrome is not 0 (R304). -/
def rereads (s : State) (st a n : Nat) (errs : HbmErrs) : Bool :=
  (List.range (cdiv (a % 64 + n) 64)).any (fun i => syndrome s st (a / 64 + i) (errAt errs i).1 != 0)

/-- What a read answers: its data, whether the response is poisoned, the next state. -/
structure HbmAns where
  bytes : List Byte
  bad : Bool
  st : State

/-- Read the granules of a request in rising order: whether one is poisoned. -/
def readGranules (st share g0 : Nat) (errs : HbmErrs) (s : State) (n : Nat) : Bool × State :=
  (List.range n).foldl (fun a i =>
    let r := readGranule a.2 st share (g0 + i) (errAt errs i)
    (a.1 || r.bad, r.st)) (false, s)

/-- A read of `n` bytes (R300, R304). `fwd`: a queued write of its granules has not reached the stack, and is what the
read returns; otherwise what was queued has been written. A poisoned response carries undefined data. -/
def hbmReadQ (s : State) (p : HbmPort) (st a n : Nat) (fwd : Bool) (errs : HbmErrs) : HbmAns :=
  let hit := fwd && queuedRange s st a n
  let s := touchRow (bump s (R.hbmCntCount st 0)) p st a (cdiv (a % 64 + n) 64)
  let s := if hit then bump s (R.hbmCntCount st 2) else drainRange s st a n
  let r := readGranules st p.share (a / 64) (if hit then [] else errs) s (cdiv (a % 64 + n) 64)
  let b := hbmPeek s st a n
  if r.1 then
    let x := freeBytes r.2 n
    ⟨x.1, true, x.2⟩
  else ⟨b, false, r.2⟩

/-- A read whose forwarding nothing outside says: free where a queued write could still answer it. -/
def hbmRead (s : State) (p : HbmPort) (st a n : Nat) (errs : HbmErrs) : HbmAns :=
  if queuedRange s st a n then
    let x := freeVal s 1
    hbmReadQ x.2 p st a n (x.1 == 1) errs
  else hbmReadQ s p st a n false errs

/-- A write that lies in one granule (R306): a full granule clears any fault, a part of one is merged with a read of
the granule, and a poison mark is left where that read is uncorrectable. -/
def hbmPut1 (s : State) (share st a : Nat) (bs : List Byte) (err : Nat × Nat) : State :=
  if chanDead s st (logCh a) then s
  else
    let g := a / 64
    if 64 ≤ bs.length then clearMark (storeBytes (queueWrite s st g) st a bs) st g
    else
      let r := readGranule s st share g err
      let s := storeBytes (queueWrite r.st st g) st a bs
      if r.bad then logErr (bump (setMark s st g) (R.hbmCntCount st 5)) st share 2 g r.syn else s

/-- The pieces of a write, each within one granule, at most `fuel` of them. -/
def granules : Nat → Nat → List Byte → List (Nat × List Byte)
  | 0, _, _ => []
  | fuel + 1, a, bs =>
    if bs.isEmpty then []
    else
      let n := 64 - a % 64
      (a, bs.take n) :: granules fuel (a + n) (bs.drop n)

/-- A write of bytes. -/
def hbmWrite (s : State) (p : HbmPort) (st a : Nat) (bs : List Byte) (errs : HbmErrs) : State :=
  (granules (bs.length + 1) a bs).foldl (fun s x => hbmPut1 s p.share st x.1 x.2 (errAt errs (x.1 / 64 - a / 64)))
    (touchRow (bump s (R.hbmCntCount st 1)) p st a (cdiv (a % 64 + bs.length) 64))

end Sys2Proof.Machine
end

