-- ==== Sys2Proof/Machine/PipeOps.lean ====
section
/-!
DEFINITION. Shared operations of a pipe's ingress section (chapter 3): the metadata bus, the parser,
classifier stages, and the learn probe.
-/

namespace Sys2Proof.Machine

open Sys2Proof

/-! ### The metadata bus (R75) -/

/-- Fields of the bus by first bit and width, as R75 places them. -/
def busTs (b : Nat) : Nat := bits b 0 32
def busPort (b : Nat) : Nat := bits b 48 10
def busQuad (b : Nat) : Nat := bits b 58 2
def busSched (b : Nat) : Bool := bit b 63
def busLen (b : Nat) : Nat := bits b 64 14
def busVrf (b : Nat) : Nat := bits b 80 14
def busFlowStat (b : Nat) : Nat := bits b 94 2
def busZone (b : Nat) : Nat := bits b 96 8
def busProto (b : Nat) : Nat := bits b 104 8
def busFrag (b : Nat) : Nat := bits b 122 2
def busPtp (b : Nat) : Bool := bit b 124
def busTunnel (b : Nat) : Bool := bit b 125
def busDisp (b : Nat) : Nat := bits b 126 2
def busReason (b : Nat) : Nat := bits b 184 8
def busMirror (b : Nat) : Nat := bits b 221 3
def busEgress (b : Nat) : Nat := bits b 224 10
def busQueue (b : Nat) : Nat := bits b 234 21

/-- Drop the packet (R81): DISP := 1 and DROP_REASON; the first drop is final. -/
def busDrop (b reason : Nat) : Nat :=
  if busDisp b = 1 then b else putBits (putBits b 126 2 1) 184 8 reason

/-! ### The serving pipe (R23, R24, R28) -/

/-- The local port group whose slot processes a port: its own, its slot's for a recirculation port, group 0
for a host port. -/
def localPg (s : State) (p : Nat) : Nat :=
  if p < 512 then p % 128 / 8
  else if p < 544 then
    let n := 2 * ((p - 512) % 8)
    if rd s (R.modXbarPg (portQuad p) n) = 15 then n + 1 else n
  else 0

/-- The physical pipe that processes a port: the spare once a handover has redirected the port. -/
def pipeOf (s : State) (p : Nat) : Nat :=
  let q := portQuad p
  let x := rd s (R.modXbarPg q (localPg s p))
  match mget s.pipe.hand q with
  | some h => if h.target = x ∧ h.switched.contains p then h.spare else x
  | none => x

/-- The programs of a physical pipe. -/
def progOf (s : State) (q p : Nat) : ProgS :=
  if 9 ≤ p then ⟨[], [], 0⟩ else mgetD s.pipe.prog (9 * q + p) ⟨[], [], 0⟩

/-! ### The parser (R67–R72) -/

/-- The bits `off + w - 1 …` of a window read in network order from bit `off`. -/
def netField (win : List Byte) (off w : Nat) : Nat :=
  let n := cdiv (off % 8 + w) 8
  fieldBe win (off / 8) n / 2 ^ (8 * n - (off % 8 + w)) % 2 ^ w

/-- Bytes from the window's start up to the end of `w` bits at bit `off` behind the cursor. -/
def reachOf (cur off w : Nat) : Nat := cur + cdiv (off + w) 8

/-- What the parser knows: bus, IP identification of the last header, the state it last visited, a drop with
0x04, and that a marker's header lies past the window in part. -/
structure ParseS where
  bus : Nat
  ipid : Nat
  last : Nat
  drop : Bool
  past : Bool

/-- Offset of state entry `i` of a parser graph. -/
def stEntry (i : Nat) : Nat := 0x40 + 192 * i

/-- Record a layer's offset: its byte of the bus, its LAYER_VALID bit. -/
def layerAt (bus pos v cur : Nat) : Nat := setBit (putBits bus pos 8 (cur / 2)) (176 + v)

/-- FRAG from an offset and the more-fragments flag (R70). -/
def fragOf (off : Nat) (more : Bool) : Nat := if off ≠ 0 then 2 else if more then 1 else 0

/-- An IP header's marker: outer if no outer L3 is valid yet, else inner (R70). -/
def l3Marker (bus cur typ : Nat) : Nat :=
  if bit bus 176 then setBit (putBits (layerAt bus 160 4 cur) 114 2 typ) 125
  else putBits (layerAt bus 128 0 cur) 112 2 typ

/-- Bytes behind the cursor that the device decodes of an IP header or its extensions (R70). -/
def markerReach (layer : Nat) : Nat :=
  match layer with
  | 3 => 10
  | 4 => 7
  | 5 => 1
  | 6 => 8
  | _ => 0

/-- The layer marker of a state at the cursor (R70, R72). `win` is the window and, behind it, the free bytes
that a header past its end reads as. An IPv6 header, which has neither MF nor offset, sets FRAG to 0 (log 40). -/
def marker (g : ParseS) (win : List Byte) (layer cur : Nat) : ParseS :=
  let b := g.bus
  if [3, 4, 7, 8, 9].contains layer && cur % 2 == 1 then { g with bus := putBits b 78 2 2 }
  else match layer with
    | 1 => { g with bus := putBits b 116 2 (min 2 (bits b 116 2 + 1)) }
    | 2 => { g with bus := putBits b 118 4 (min 8 (bits b 118 4 + 1)) }
    | 3 =>
      let fo := fieldBe win (cur + 6) 2
      let b := putBits (l3Marker b cur 1) 122 2 (fragOf (fo % 2 ^ 13) (bit fo 13))
      { g with bus := putBits b 104 8 (fieldBe win (cur + 9) 1), ipid := fieldBe win (cur + 4) 2 }
    | 4 => { g with bus := putBits (putBits (l3Marker b cur 2) 122 2 (fragOf 0 false)) 104 8 (fieldBe win (cur + 6) 1) }
    | 5 => { g with bus := putBits b 104 8 (fieldBe win cur 1) }
    | 6 =>
      let fo := fieldBe win (cur + 2) 2
      let b := putBits b 122 2 (fragOf (fo / 8) (bit fo 0))
      { g with bus := putBits b 104 8 (fieldBe win cur 1), ipid := fieldBe win (cur + 4) 4 }
    | 7 => { g with bus := if busTunnel b then layerAt b 168 5 cur else layerAt b 136 1 cur }
    | 8 => { g with bus := setBit (layerAt b 144 2 cur) 125 }
    | 9 => if busTunnel b then { g with bus := layerAt b 152 3 cur } else g
    | 10 => { g with bus := setBit b 124 }
    | _ => g

/-- Perform the extracts of a state in order (R69). -/
def extracts (g : List Byte) (e : Nat) (win : List Byte) (cur bus : Nat) : Nat :=
  (List.range (bits (fieldLe g (e + 0x0E) 1) 0 4)).foldl (fun b i =>
    let w := fieldLe g (e + 0x10 + 4 * i) 4
    putBits b (bits w 20 10) (bits w 12 8) (netField win (8 * cur + bits w 0 12) (bits w 12 8))) bus

/-- The furthest byte the extracts of a state read. -/
def extractReach (g : List Byte) (e cur : Nat) : Nat :=
  (List.range (bits (fieldLe g (e + 0x0E) 1) 0 4)).foldl (fun r i =>
    let w := fieldLe g (e + 0x10 + 4 * i) 4
    max r (reachOf cur (bits w 0 12) (bits w 12 8))) 0

/-- The lowest transition that matches a key: its END and NEXT. -/
def transition (g : List Byte) (e key : Nat) : Option (Bool × Nat) :=
  (List.range (bits (fieldLe g (e + 0x0D) 1) 0 4)).findSome? (fun j =>
    let o := e + 0x30 + 16 * j
    let m := fieldLe g (o + 4) 4
    if key &&& m = fieldLe g o 4 &&& m then some (bit (fieldLe g (o + 9) 1) 0, fieldLe g (o + 8) 1) else none)

/-- End parsing with PARSE_ERR. -/
def parseEnd (r : ParseS) (st err : Nat) : ParseS := { r with bus := putBits r.bus 78 2 err, last := st }

/-- The parser from state `st` at a cursor, at most `fuel` further visits (R71). `pad`: what the bytes behind the
window read as to a layer marker. -/
def parseFrom (g win pad : List Byte) : Nat → Nat → Nat → ParseS → ParseS
  | 0, st, _, r => { r with drop := true, last := st }
  | fuel + 1, st, cur, r =>
    let e := stEntry st
    let w := fieldLe g (e + 4) 2
    let lw := bits w 12 4
    let lreach := reachOf cur (bits w 0 12) lw
    if 0 < lw ∧ 512 < lreach then { r with drop := true, last := st }
    else if 0 < lw ∧ win.length < lreach then parseEnd r st 1
    else
      let len := if lw = 0 then fieldLe g (e + 2) 2
        else netField win (8 * cur + bits w 0 12) lw * 2 ^ bits (fieldLe g (e + 6) 1) 0 3 + fieldLe g (e + 7) 1
      if len < 2 then parseEnd r st 3
      else
        let acc := bit (fieldLe g (e + 1) 1) 4
        let kw := bits (fieldLe g (e + 0x0A) 1) 0 6
        let ko := bits (fieldLe g (e + 8) 2) 0 12
        let reach := max (max (cur + len) (extractReach g e cur)) (if !acc && 0 < kw then reachOf cur ko kw else 0)
        if 512 < reach then { r with drop := true, last := st }
        else if win.length < reach then parseEnd r st 1
        else
          let layer := bits (fieldLe g (e + 1) 1) 0 4
          let r := marker r (win ++ pad) layer cur
          let r := { r with bus := extracts g e win cur r.bus, last := st,
                            past := r.past || decide (win.length < cur + markerReach layer) }
          if acc then r
          else match (if 0 < kw then transition g e (netField win (8 * cur + ko) kw) else none) with
            | some (true, _) => r
            | some (false, n) => parseFrom g win pad fuel n (cur + len) r
            | none =>
              if bit (fieldLe g (e + 0x0C) 1) 0 then r
              else parseFrom g win pad fuel (fieldLe g (e + 0x0B) 1) (cur + len) r

/-- The start state of a port (R67). -/
def startState (g : List Byte) (p : Nat) : Nat :=
  if 512 ≤ p ∧ p < 544 then fieldLe g 4 1 else if 544 ≤ p ∧ p < 552 then fieldLe g 3 1 else fieldLe g 2 1

/-- Parse a window that entered on a port, from the bus the MAC has set (R71). -/
def parse (g win pad : List Byte) (port bus : Nat) : ParseS :=
  parseFrom g win pad 32 (startState g port) 0 ⟨bus, 0, 0, false, false⟩

/-- The parse window of the bytes that have come in: the last four may be the FCS, which does not belong to it
(R67; frames of 512 to 515 bytes: log 40). -/
def window (bytes : List Byte) : List Byte := (bytes.take (bytes.length - 4)).take 512

/-- The parser of a frame has every byte it needs: the window is whole, or nothing lies past what has come in. -/
def parseReady (r : ParseS) (ended : Bool) (bytes : List Byte) : Bool :=
  ended || decide (516 ≤ bytes.length) || (bits r.bus 78 2 != 1 && !r.past)

/-! ### Classifier stages (R78–R82) -/

/-- STAGE_COUNT, FLOW_AFTER, FLOW_EN of a stage program; an empty program has no stage. -/
def stageCount (b : List Byte) : Nat := fieldLe b 0 1
def flowAfter (b : List Byte) : Nat := fieldLe b 1 1
def flowEn (b : List Byte) : Bool := bit (fieldLe b 2 1) 0

/-- Concatenate key slices, slice 0 lowest (R80). -/
def sliceKey (bus : Nat) : List Nat → Nat × Nat → Nat
  | [], acc => acc.1
  | w :: ws, acc =>
    let n := bits w 10 8
    sliceKey bus ws (acc.1 + bits bus (bits w 0 10) n * 2 ^ acc.2, acc.2 + n)

/-- The key of a stage entry at byte `o`. -/
def stageKey (b : List Byte) (o bus : Nat) : Nat :=
  sliceKey bus ((List.range (bits (fieldLe b (o + 0x0E) 1) 0 5)).map (fun i => fieldLe b (o + 0x10 + 4 * i) 4)) (0, 0)

/-- One result write; once DISP is 1 later writes to it are ignored (R81), those of the same stage too (log 40). -/
def putResult (bus dst w v : Nat) : Nat :=
  let bus' := putBits bus dst w v
  if busDisp bus = 1 then putBits bus' 126 2 1 else bus'

/-- The result writes of a stage: all of a result, or those with ON_MISS writing zeros (R79, R82). -/
def stageWrites (b : List Byte) (o bus res : Nat) (miss : Bool) : Nat :=
  (List.range (bits (fieldLe b (o + 0x0F) 1) 0 4)).foldl (fun bus j =>
    let w := fieldLe b (o + 0x50 + 4 * j) 4
    if miss && !bit w 25 then bus
    else putResult bus (bits w 15 10) (bits w 7 8) (bits res (bits w 0 7) (bits w 7 8))) bus

/-- Set HIT of quadrant `q` and STAMP on the copies of a key that takes of parity `p` see (R137). -/
def touchEnt (s : State) (d : TblDecl) (q key p : Nat) : State :=
  let m := (candSlots d key).foldl (fun m sl =>
    match mget m sl with
    | some e => if e.key = key ∧ bit e.gen p then mset m sl { e with hit := setBit e.hit q, stamp := fwdSec s } else m
    | none => m) (bkt s d.num)
  let s := { s with tab := { s.tab with bkt := mset s.tab.bkt d.num m } }
  (banksOf s d.num 2 q).foldl (fun s b =>
    let bk := (bank s q b).map (fun c =>
      if c.2.value = key ∧ bit c.2.gen p then (c.1, { c.2 with hit := setBit c.2.hit q, stamp := fwdSec s }) else c)
    { s with tab := { s.tab with cms := mset s.tab.cms (32 * q + b) bk } }) s

/-- The searches of a table's overflow banks are counted as any bank's (R113). -/
def countOvf (s : State) (d : TblDecl) (q : Nat) : State :=
  countSearch s q ((banksOf s d.num 2 q).foldl setBit 0)

/-- The lookup of a stage: its 128-bit result, or a miss. -/
def stageLookup (s : State) (q kind tbl key sel p : Nat) : Option Nat × State :=
  match tblDecl s tbl with
  | some d =>
    match kind with
    | 1 =>
      let s := countOvf s d q
      match emLookup s d q key p with
      | some e => (some e.action, if d.learn then s else touchEnt s d q key p)
      | none => (none, s)
    | 2 =>
      let r := lpmLookup s d key p
      (r.1, if r.2 then wr s R.fwdStatFilterOver 1 else s)
    | 3 => (cmsSearch s q key sel p, countSearch s q sel)
    | 4 => (((mgetD (mgetD s.tab.dir tbl []) key []).find? (fun e => bit e.gen p)).map (·.action), s)
    | _ => (none, s)
  | none => (none, s)

/-- A packet of a retired take reaches a lookup (R95). -/
def takeOverrun (s : State) : State := bump (wr s R.stgTakeStatOverrun 1) R.stgTakeOverrunCntCount

/-- The packet's take is no longer live, and the packet meets a lookup. -/
def retiredAt (s : State) (bus : Nat) : Bool := takeRetired s (busTake bus)

/-- One classifier stage (R79–R82). -/
def runStage (q : Nat) (b : List Byte) (acc : Nat × State) (i : Nat) : Nat × State :=
  let bus := acc.1
  let s := acc.2
  let o := 0x10 + 128 * i
  let cond := fieldLe b (o + 0x0C) 2
  let kind := bits (fieldLe b (o + 1) 1) 0 4
  if busDisp bus = 1 ∨ kind = 0 ∨ (bit cond 11 ∧ bit bus (bits cond 0 10) ≠ bit cond 10) then acc
  else if retiredAt s bus then (busDrop bus 0x16, takeOverrun s)
  else
    let code := fieldLe b (o + 7) 1
    let r := stageLookup s q kind (fieldLe b (o + 2) 2) (stageKey b o bus) (fieldLe b (o + 8) 4) (bits bus 32 1)
    let bus := stageWrites b o bus (r.1.getD 0) r.1.isNone
    let bus := if busDisp bus = 1 then putBits bus 184 8 code else bus
    if r.1.isSome then (bus, r.2)
    else match bits (fieldLe b (o + 6) 1) 0 2 with
      | 1 => (busDrop bus code, r.2)
      | 2 => (if busDisp bus = 1 then bus else putBits bus 126 2 2, r.2)
      | _ => (bus, r.2)

/-! ### The learn probe (R132, R133) -/

/-- A request enters its arbiter's queue, or is discarded and counted (R133). -/
def pushRequest (s : State) (t : Nat) (r : LearnReq) : State :=
  let l := mgetD s.tab.queue t []
  if 4096 ≤ l.length then tblCnt s t 1
  else { s with tab := { s.tab with queue := mset s.tab.queue t (l ++ [r]) } }

/-- TIM_UPTIME at a packet's TS_IN. -/
def tsUptime (s : State) (ts : Nat) : Int := uptime s - sbits 32 (nsDiff (nowNs s) ts)

/-- The probe of one learning table (R132). A new address that the table has no room for floods its frame (R134). -/
def learnProbe (q : Nat) (acc : Nat × State) (d : TblDecl) : Nat × State :=
  let bus := acc.1
  let s := acc.2
  let lp := learnPort s (busPort bus)
  if busDisp bus = 1 ∨ (512 ≤ busPort bus ∧ busPort bus < 552) ∨ learnLimit s lp = 0 then acc
  else
    let key := sliceKey bus (if bits d.lk1 10 8 = 0 then [d.lk0] else [d.lk0, d.lk1]) (0, 0)
    let p := bits bus 32 1
    let s := countOvf s d q
    match emLookup s d q key p with
    | some e =>
      if e.action % 1024 = lp then (bus, touchEnt s d q key p)
      else (bus, pushRequest s d.num ⟨true, key, lp, busTs bus, q, tsUptime s (busTs bus)⟩)
    | none =>
      if learnLimit s lp ≤ learnedOn s lp then
        let s := tblCnt s d.num 2
        (if learnExcess s lp = 0 then busDrop bus 0x07 else putBits bus 126 2 3, s)
      else if (placeEnt s d (learnedEnt s d key lp) 2).isNone then (putBits bus 126 2 3, tblCnt s d.num 0)
      else (bus, pushRequest s d.num ⟨false, key, lp, busTs bus, q, tsUptime s (busTs bus)⟩)

/-- Some stage of a program names table `t`. -/
def stagesTable (b : List Byte) (t : Nat) : Bool :=
  (List.range (stageCount b)).any (fun i =>
    bits (fieldLe b (0x10 + 128 * i + 1) 1) 0 4 != 0 && fieldLe b (0x10 + 128 * i + 2) 2 == t)

/-- The learn probes that run after `i` stages. -/
def probesAt (q : Nat) (b : List Byte) (i : Nat) (acc : Nat × State) : Nat × State :=
  ((tblDecls (sec acc.2 5 0)).filter (fun d => d.learn && d.learnAfter == i && stagesTable b d.num)).foldl
    (learnProbe q) acc

/-- Stages `i`, `i + 1`, … of a program, `n` of them, each followed by the probes at its end. -/
def runStages (q : Nat) (b : List Byte) (i n : Nat) (acc : Nat × State) : Nat × State :=
  (upFrom i n).foldl (fun acc j => probesAt q b (j + 1) (runStage q b acc j)) acc

end Sys2Proof.Machine
end

