-- ==== Sys2Proof/Machine/IngressOps.lean ====
section
/-!
DEFINITION. The end of the ingress section (chapters 5 and 9): logical ports, replication, the checks of
enqueue, and the drop of a frame.
-/

namespace Sys2Proof.Machine

open Sys2Proof

/-! ### Frames and drops -/

/-- Drop a frame at or before the end of its ingress section (R40, R247). -/
def dropFrame (s : State) (head reason : Nat) : State :=
  match mget s.cel.frames head with
  | some f => freeChain (rxDiscard (sampleEnd (countDrop s reason f.inPort) head none reason) head) head 0
  | none => s

/-- Units of a frame's chain (R254). -/
def frameUnits (s : State) (head : Nat) : Nat :=
  (frameCells s head).foldl (fun n p => n + cellUnits (ptrPool p)) 0

/-- A front port's link is up (PWR_PORT.STATE). -/
def portUp (s : State) (p : Nat) : Bool := rd s (R.pwrPortState p) == 2

/-! ### Logical ports (R120) -/

/-- The front port a logical port stands for, and whether QUEUE is an offset behind its base queue;
none where the copy is dropped with 0x06. -/
def resolvePort (s : State) (bus p : Nat) : Option (Nat × Bool) :=
  if p < 552 then some (p, false)
  else match lportDecl s p with
    | some d =>
      if d.typ = 1 then
        let up := d.members.filter (portUp s)
        let w := fieldLe (sec s 5 0) 0x0A 1
        let h := crc32c 0xFFFFFFFF (toLe (cdiv w 8) (bits bus (fieldLe (sec s 5 0) 8 2 % 1024) w))
        if up.isEmpty then none
        else some (up.getD (if w = 0 then 0 else h % up.length) 0, true)
      else some (d.members.headD 0, false)
    | none => none

/-! ### The copies of a frame (R259) -/

/-- A copy to be made. -/
structure WantS where
  port : Nat
  queue : Nat
  mirror : Bool
  trunc : Nat

/-- REPL_POS, equal in every queue tree (R250, R251). -/
def replPos (s : State) : Nat := ((s.cel.treeHdr.head?).map (·.2.replPos)).getD 0

/-- The copy that goes to a port and queue, after R120; none where it is dropped with 0x06. -/
def wantTo (s : State) (bus port queue : Nat) : Option WantS :=
  (resolvePort s bus port).map (fun r =>
    ⟨r.1, if r.2 then portQbase s r.1 + queue else queue, false, 0⟩)

/-- The members of replication group `r`, in entry order (R258). -/
def groupMembers (s : State) (r : Nat) : List MemberS :=
  match mget s.cel.replGroup r with
  | some (first, count) => (upFrom first count).filterMap (mget s.cel.replMember)
  | none => []

/-- PRUNE removes a member: its port is the ingress port or the aggregate containing it. -/
def pruned (s : State) (port : Nat) (m : MemberS) : Bool :=
  m.prune && (m.port == port || ((lportDecl s m.port).map (fun d => d.typ == 1 && d.members.contains port)).getD false)

/-- The mirror copy of a bus, if any. -/
def mirrorWant (s : State) (bus : Nat) : List WantS :=
  let m := busMirror bus
  if m ≠ 0 ∧ rd s (R.queMirrorTrunc m) ≠ 0 then
    [⟨rd s (R.queMirrorPort m), rd s (R.queMirrorQueue m), true, rd s (R.queMirrorTrunc m)⟩]
  else []

/-- A copy of group member `m`. -/
def memberWant (s : State) (bus : Nat) (m : MemberS) : Option WantS :=
  (resolvePort s bus m.port).map (fun r => ⟨r.1, portQbase s r.1 + m.qoff, false, 0⟩)

/-- Count a drop with 0x06 of a copy that no port takes (R120). -/
def dropUnresolved (s : State) (inPort : Nat) (w : Option WantS) : State :=
  match w with
  | some _ => s
  | none => countDrop s 0x06 inPort

/-- The copies of a frame and the state after the drops their forming counts (R259). A punt that names no
host port goes to a host port the spec does not name (log 14). -/
def formCopies (s : State) (f : FrameS) (bus : Nat) : List WantS × State :=
  let mir := mirrorWant s bus
  let s := if mir.isEmpty then s else bump s (R.queCntCount f.quad 7)
  let r := bits bus (replPos s) 16
  if busDisp bus = 3 ∨ (r ≠ 0 ∧ busDisp bus = 0) then
    let ms := if r = 0 then [] else groupMembers s r
    let keep := ms.filter (fun m => !pruned s f.inPort m)
    let s := bumpBy s (R.queCntCount f.quad 6) (ms.length - keep.length)
    if keep.isEmpty then (mir, bump (countDrop s 0x06 f.inPort) (R.queCntCount f.quad 5))
    else
      let ws := keep.map (memberWant s bus)
      (mir ++ ws.filterMap id, ws.foldl (fun s w => dropUnresolved s f.inPort w) s)
  else if busDisp bus = 2 ∧ ¬ (544 ≤ busEgress bus ∧ busEgress bus < 552) then
    let x := freeVal s 3
    (mir ++ [⟨544 + x.1, portQbase x.2 (544 + x.1), false, 0⟩], x.2)
  else
    let w := wantTo s bus (busEgress bus) (busQueue bus)
    (mir ++ w.toList, dropUnresolved s f.inPort w)

/-! ### Enqueue (R254, R287, R499) -/

/-- Change a copy. -/
def updCopy (s : State) (cp : Nat) (f : CopyS → CopyS) : State :=
  { s with cel := { s.cel with copies := mmod s.cel.copies cp f } }

/-- The witness passes a scheduled copy (R425). -/
def witnessOk (s : State) (f : FrameS) (c : CopyS) : Bool :=
  match emLookup s (witnessDecl s) (portQuad c.port) (c.queue + f.fp * 2 ^ 21) 0 with
  | some e => e.action % 1024 == c.port
  | none => false

/-- Non-mirror copies of a frame. -/
def plainCopies (s : State) (f : FrameS) : Nat :=
  (f.copies.filter (fun cp => ((mget s.cel.copies cp).map (fun c => !c.mirror)).getD false)).length

/-- Best-effort traffic that SAFE stops at enqueue (R419). -/
def beStopped (s : State) (f : FrameS) (c : CopyS) : Bool :=
  rdB s R.safCfgBeSafe && decide (c.port < 512) && !((portDecl s c.port).map (·.bolvis)).getD false &&
    !(decide (544 ≤ f.inPort) && decide (f.inPort < 552))

/-- What the checks of R287 say: the reservation's new entry and window, or a drop and its counter. -/
inductive SchedAns where
  | pass
  | drop (cnt : Nat)
  | ok (r : RsvS) (win : Nat × Nat)

/-- The checks of R287 on a copy. -/
def admitSched (s : State) (f : FrameS) (c : CopyS) : SchedAns :=
  match mget s.tim.rsv c.queue, c.sched with
  | some _, false => .drop 7
  | none, false => .pass
  | none, true => .drop 4
  | some r, true =>
    let r := startWindow s r
    if !timeValid s || !listRuns s r.port then .drop 4
    else
      let s0 := cycleOf s r.port f.tsIn
      let ph := nsDiff f.tsIn s0
      if ph < r.admOff ∨ r.admOff + r.admLen ≤ ph then .drop 1
      else if r.used = r.frames then .drop 2
      else if f.ended ∧ r.maxLen < f.len then .drop 3
      else
        let w := s0 + r.admOff + r.admLen + rsvD r (operList s r.port).cycle
        .ok { r with used := r.used + 1 } (w % 2 ^ 32, (w + r.egrLen) % 2 ^ 32)

/-- Queue admission, and the copy's place at the queue's tail (R254). -/
def queueAdmit (s : State) (cp : Nat) (c : CopyS) : State :=
  let q := portQuad c.port
  let refuse := bump (dropCopy s cp 0x10) (R.queCntCount q 2)
  match (queueNode s c.queue).bind (fun k => (mget s.cel.nodes k).map (fun n => (k, n))) with
  | some (k, n) =>
    if (c.port < 512 ∧ rdB s (R.pwrPortPd c.port)) ∨ n.f10 % 2 ^ 27 ≤ n.units then refuse
    else
      let u := frameUnits s c.head + (if c.head = cp then 0 else 1)
      let s := updNode s k (fun n => { n with frames := n.frames ++ [cp], units := n.units + u })
      bump (updCopy s cp (fun c => { c with st := .queued, units := u, enqNs := nowNs s })) (R.queCntCount q 0)
  | none => refuse

/-- Step 4 and 5 of R499. -/
def enqueueSched (s : State) (cp : Nat) (f : FrameS) (c : CopyS) : State :=
  let q := portQuad c.port
  match admitSched s f c with
  | .pass => queueAdmit s cp c
  | .drop k => bump (dropCopy s cp 0x12) (R.shtCntCount q k)
  | .ok r w =>
    let s := bump { s with tim := { s.tim with rsv := mset s.tim.rsv c.queue r } } (R.shtCntCount q 0)
    let s := updCopy s cp (fun c => { c with win := some w })
    queueAdmit s cp { c with win := some w }

/-- The enqueue of a copy: the checks of R499 in order. `witErr`: the witness read is uncorrectable (R425). -/
def enqueue (witErr : Bool) (s : State) (cp : Nat) : State :=
  match mget s.cel.copies cp with
  | some c =>
    match mget s.cel.frames c.head with
    | some f =>
      if modeIn s [.safe] && (c.sched || beStopped s f c) then dropCopy s cp 0x17
      else if c.sched && !c.mirror then
        let s := bump s (R.safCntCount 0)
        if witErr then raiseFault (bump (dropCopy s cp 0x12) (R.safCntCount 1)) 3 (unitOf (portQuad c.port) 0) cp
        else if 1 < plainCopies s f || !witnessOk s f c then
          raiseFault (bump (dropCopy s cp 0x12) (R.safCntCount 1)) 2 (unitOf (portQuad c.port) 0) cp
        else if f.pool = 1 then bump (dropCopy s cp 0x12) (R.celCntCount f.quad 11)
        else enqueueSched s cp f c
      else if c.sched && f.pool == 1 then bump (dropCopy s cp 0x12) (R.celCntCount f.quad 11)
      else enqueueSched s cp f c
    | none => s
  | none => s

/-! ### Replication (R255, R258, R259, R498) -/

/-- A copy takes cut-through egress (R255). -/
def cutsThrough (s : State) (f : FrameS) (port : Nat) : Bool :=
  match portDecl s f.inPort, portDecl s port with
  | some a, some b => f.pool == 0 && a.cutThrough && b.cutThrough && decide (rateGbps b.speed ≤ rateGbps a.speed)
  | _, _ => false

/-- The copy a wanted copy becomes, named by `cp`. -/
def newCopy (f : FrameS) (head : Nat) (w : WantS) : CopyS :=
  { head := head, port := w.port, queue := w.queue, sched := busSched f.bus, mirror := w.mirror, trunc := w.trunc,
    bus := putBits (putBits f.bus 224 10 w.port) 234 21 w.queue, st := .pending, units := 0, enqNs := 0, selNs := 0,
    win := none, guarded := false, dropAs := 0 }

/-- Write one copy cell from the ingress quadrant's pool 0 (R498), or drop that copy. -/
def copyCell (head : Nat) (f : FrameS) (acc : List Nat × State) (w : WantS) : List Nat × State :=
  let s := acc.2
  if freeCount s 0 f.quad = 0 then (acc.1, bump (countDrop s 0x0F f.inPort) (R.celCntCount f.quad 3))
  else if !grants s f.quad 0 f.owner 1 then (acc.1, bump (countDrop s 0x10 f.inPort) (R.celCntCount f.quad 4))
  else
    let r := allocCell s 0 f.quad ⟨0, 3, true, true, 0, 0, false, f.oclass, f.owner, 0, []⟩
    let s := bump r.2 (R.queCntCount f.quad 1)
    (acc.1 ++ [r.1], { s with cel := { s.cel with copies := mset s.cel.copies r.1 (newCopy f head w) } })

/-- Make a frame's copies: one uses the frame's own first cell, two or more get copy cells and a shared
chain; none frees the frame (R247, R248, R259). -/
def makeCopies (s : State) (head : Nat) (f : FrameS) : List WantS → State
  | [] => freeChain (rxDiscard s head) head 0
  | [w] =>
    let s := { s with cel := { s.cel with copies := mset s.cel.copies head (newCopy f head w) } }
    updFrame s head (fun f => { f with copies := [head] })
  | ws =>
    let r := ws.foldl (copyCell head f) ([], s)
    let s := updFrame r.2 head (fun f => { f with copies := r.1 })
    let s := updCell s head (fun c => { c with st := 2, remain := r.1.length + b2n f.writer })
    if r.1 = [] ∧ !f.writer then freeChain s head 0 else s

/-- Enqueue the copies that may be enqueued now: all of an ended frame, the cut-through ones of another. -/
def enqueueReady (witErr : Bool) (s : State) (head : Nat) : State :=
  match mget s.cel.frames head with
  | some f =>
    (f.copies.filter (fun cp => ((mget s.cel.copies cp).map (fun c =>
      c.st == .pending && (f.ended || cutsThrough s f c.port))).getD false)).foldl (enqueue witErr) s
  | none => s

/-- The copies of a frame whose ingress section has ended are formed and enqueued. -/
def releaseFrame (witErr : Bool) (s : State) (head : Nat) : State :=
  match mget s.cel.frames head with
  | some f =>
    if f.abortUnsent ≠ 0 then dropFrame s head f.abortUnsent
    else
      let s := updFrame s head (fun f => { f with phase := .done, heldPg := none })
      let r := formCopies s f f.bus
      enqueueReady witErr (makeCopies r.2 head f r.1) head
  | none => s

/-- The port group whose end marker a frame must wait for: the spare has processed it during a handover (R28). -/
def waitsMarker (s : State) (f : FrameS) : Option Nat :=
  match mget s.pipe.hand f.quad with
  | some h =>
    let g := localPg s f.inPort
    if f.pipe = h.spare ∧ h.pgs.contains g ∧ !h.ended.contains g then some g else none
  | none => none

/-- The end of a frame's ingress section with its final bus (R81, R241, R259, R28). -/
def finishIngress (witErr : Bool) (s : State) (head bus : Nat) : State :=
  match mget s.cel.frames head with
  | some f =>
    if f.abortUnsent ≠ 0 then dropFrame s head f.abortUnsent
    else if busDisp bus = 1 then dropFrame (updFrame s head (fun f => { f with bus := bus })) head (busReason bus)
    else
      let s := updFrame s head (fun f => { f with bus := bus })
      match waitsMarker s f with
      | some g =>
        let s := updFrame s head (fun f => { f with phase := .held, heldPg := some g })
        { s with pipe := { s.pipe with hand := mmod s.pipe.hand f.quad (fun h => { h with waiting := h.waiting ++ [head] }) } }
      | none => releaseFrame witErr s head
  | none => s

/-- The rest of an ingress section behind the flow stage (R78, R82). -/
def ingressTail (witErr : Bool) (s : State) (head bus : Nat) : State :=
  match mget s.cel.frames head with
  | some f =>
    let b := (progOf s f.quad f.pipe).stages
    let i := flowAfter b
    let r := runStages f.quad b i (stageCount b - i) (bus, s)
    finishIngress witErr r.2 head r.1
  | none => s

end Sys2Proof.Machine
end

