-- ==== Sys2Proof/Machine/FlowOps.lean ====
section
/-!
DEFINITION. Shared operations of the flow table (chapter 6): records and keys, the record space and its
placement rules, the cache with its victim buffers, budgets, the fragment table, and connection tracking.
-/

namespace Sys2Proof.Machine

open Sys2Proof

/-! ### Records (R144–R148) -/

/-- The matched key of a record: bytes 0x00–0x27 with ORIG_B taken as 0. -/
def recKey (r : Nat) : Nat := clrBit (r % 2 ^ 320) 31
def recOrigB (r : Nat) : Bool := bit r 31
def recValid (r : Nat) : Bool := bit r 320
def recAlias (r : Nat) : Bool := bit r 321
def recState (r : Nat) : Nat := bits r 384 4
/-- PIN and SCHED; bytes 0x30–0x57 of an alias record are its primary's key, and it has neither (R145). -/
def recPin (r : Nat) : Bool := !recAlias r && bit r 388
def recSched (r : Nat) : Bool := !recAlias r && bit r 389
def recDeny (r : Nat) : Bool := bit r 390
def recXlate (r : Nat) : Bool := bit r 391
def recBal (r : Nat) : Bool := bit r 392
def recMask (r : Nat) : Nat := bits r 748 8
def recLast (r : Nat) : Nat := bits r 920 24

/-- Endpoint numbers of a key: address and port as a 144-bit integer (R147). -/
def keyEndA (k : Nat) : Nat := bits k 64 128 * 2 ^ 16 + bits k 32 16
def keyEndB (k : Nat) : Nat := bits k 192 128 * 2 ^ 16 + bits k 48 16

/-- The canonical key of a tuple, and whether its source is endpoint B (R147, R148). -/
def canonKey (vrf zone proto fam src dst : Nat) : Nat × Bool :=
  let fromB := decide (dst < src)
  let a := if fromB then dst else src
  let b := if fromB then src else dst
  (vrf + zone * 2 ^ 14 + proto * 2 ^ 22 + fam * 2 ^ 30 + a % 2 ^ 16 * 2 ^ 32 + b % 2 ^ 16 * 2 ^ 48 +
    a / 2 ^ 16 * 2 ^ 64 + b / 2 ^ 16 * 2 ^ 192, fromB)

/-- Layout section fields (R154). -/
def flowInner (s : State) : Bool := bit (fieldLe (sec s 7 0) 1 1) 0
def addrPos (s : State) : Nat := fieldLe (sec s 7 0) 2 2 % 1024
def resPos (s : State) : Nat := fieldLe (sec s 7 0) 4 2 % 1024
def flowSeed (s : State) (i : Nat) : Nat := fieldLe (sec s 7 0) (8 + 4 * i) 4

/-- PORTS_POS of the parser graph (R68). -/
def portsPos (g : List Byte) : Nat := fieldLe g 6 2 % 1024

/-- The relevant L3 type of a bus (R147). -/
def l3Type (s : State) (bus : Nat) : Nat := if flowInner s && busTunnel bus then bits bus 114 2 else bits bus 112 2

/-- The canonical key of a packet and whether it comes from B. -/
def busKey (s : State) (g : List Byte) (bus : Nat) : Nat × Bool :=
  let ports := bits bus (portsPos g) 32
  let sa := bits bus (addrPos s) 128
  let da := bits bus (addrPos s + 128) 128
  canonKey (busVrf bus) (busZone bus) (busProto bus) (l3Type s bus - 1)
    (sa * 2 ^ 16 + ports % 2 ^ 16) (da * 2 ^ 16 + ports / 2 ^ 16)

/-! ### Hashes and places (R149, R151, R153) -/

/-- Hash `i` of a key: 0 hQ, 1 h0, 2 h1, 3 h2. -/
def flowHash (s : State) (i k : Nat) : Nat := crc32c (flowSeed s i) (toLe 40 k)

/-- The home quadrant of a key. -/
def homeOfKey (s : State) (k : Nat) : Nat := flowHash s 0 k % 4

/-- Slots, main buckets and overflow buckets of a quadrant's record space. -/
def recSlots (s : State) : Nat := 2 ^ (flowLog2 s - 2)
def ovfSlots (s : State) : Nat := recSlots s / 64
def mainBuckets (s : State) : Nat := (recSlots s - ovfSlots s) / 4
def ovfBuckets (s : State) : Nat := ovfSlots s / 4

/-- The candidate buckets and the overflow bucket of a key. -/
def fb0 (s : State) (k : Nat) : Nat := flowHash s 1 k * mainBuckets s / 2 ^ 32
def fb1 (s : State) (k : Nat) : Nat := flowHash s 2 k * mainBuckets s / 2 ^ 32
def fbo (s : State) (k : Nat) : Nat :=
  mainBuckets s + (flowHash s 1 k ^^^ flowHash s 2 k) * ovfBuckets s / 2 ^ 32

/-- FC_UNITS of quadrant `q`, and its sets of 16 ways (R53, R153). -/
def cacheSets (s : State) (q : Nat) : Nat := fieldLe (sec s 2 0) (8 + 8 * q) 1 * 8192

/-- The cache set of a key in quadrant `q`. -/
def setOf (s : State) (q k : Nat) : Nat := flowHash s 3 k * cacheSets s q / 2 ^ 32

/-- Key of way `w` of a set. -/
def lineKey (q set w : Nat) : Nat := q * 2 ^ 24 + 16 * set + w
def lineQuad (l : Nat) : Nat := l / 2 ^ 24
def lineSet (l : Nat) : Nat := l % 2 ^ 24 / 16

/-! ### The record space in HBM (R151, R152, R164, R165) -/

/-- Logical address of a slot. -/
def slotAddr (s : State) (q slot : Nat) : Nat := hbmBase s q 4 + 128 * slot

/-- The 1,024 bits of a slot. -/
def slotRec (s : State) (q slot : Nat) : Nat := leNat (hbmPeek s q (slotAddr s q slot) 128)

/-- The byte budget now (R171): MISS_GBPS bytes a ns up to 1 µs of earnings. -/
def byteNow (s : State) (q : Nat) : Int :=
  let g := rd s (R.fltBudgetMissGbps q)
  let t := mgetD s.flo.byteTok q (1000 * g : Nat)
  min (1000 * g : Nat) (t + g * (uptime s - mgetD s.flo.byteAt q 0))

/-- Charge the byte budget; it goes no lower than −2,048 (R171). -/
def byteCharge (s : State) (q n : Nat) : State :=
  let t := max (-2048) (byteNow s q - n)
  { s with flo := { s.flo with byteTok := mset s.flo.byteTok q t, byteAt := mset s.flo.byteAt q (uptime s) } }

/-- The setup budget now, in thousandths of a setup (R171). -/
def setupNow (s : State) (q : Nat) : Int :=
  let m := rd s (R.fltBudgetSetupMps q)
  let t := mgetD s.flo.setTok q (1000 * m : Nat)
  min (1000 * m : Nat) (t + m * (uptime s - mgetD s.flo.setAt q 0))

/-- Charge one setup. -/
def setupCharge (s : State) (q : Nat) : State :=
  let t := setupNow s q - 1000
  { s with flo := { s.flo with setTok := mset s.flo.setTok q t, setAt := mset s.flo.setAt q (uptime s) } }

/-- Write a slot, granule 1 first and granule 0 last, the bucket header preserved (R144, R152). -/
def writeSlot (s : State) (q slot r : Nat) : State :=
  let old := slotRec s q slot
  let r := putBits r 352 32 (bits old 352 32)
  let b := toLe 128 r
  let a := slotAddr s q slot
  byteCharge (hbmWrite (hbmWrite s missPort q (a + 64) (b.drop 64) []) missPort q a (b.take 64) []) q 128

/-- Write granule 0 of a slot only. -/
def writeGran0 (s : State) (q slot r : Nat) : State :=
  byteCharge (hbmWrite s missPort q (slotAddr s q slot) ((toLe 128 r).take 64) []) q 128

/-- Clear VALID of a slot, preserving its bucket header. -/
def clearSlot (s : State) (q slot : Nat) : State := writeGran0 s q slot (clrBit (slotRec s q slot) 320)

/-- Change a 12-bit header count of main bucket `b` at bit `pos` (352 ALT_CNT, 364 OVF_CNT): it saturates at
4,095, and a saturated count is never decremented (R152). -/
def headCount (s : State) (q b pos : Nat) (up : Bool) : State :=
  let r := slotRec s q (4 * b)
  let c := bits r pos 12
  let c' := if c = 4095 then c else if up then c + 1 else c - 1
  writeGran0 s q (4 * b) (putBits r pos 12 c')

/-- ALT_CNT and OVF_CNT of a main bucket. -/
def altCnt (s : State) (q b : Nat) : Nat := bits (slotRec s q (4 * b)) 352 12
def ovfCnt (s : State) (q b : Nat) : Nat := bits (slotRec s q (4 * b)) 364 12

/-- The slots of a bucket. -/
def bucketOf (b : Nat) : List Nat := upFrom (4 * b) 4

/-- The first free slot of a bucket. -/
def freeSlotIn (s : State) (q b : Nat) : Option Nat := (bucketOf b).find? (fun x => !recValid (slotRec s q x))

/-- The slot of a bucket that holds a key. -/
def slotIn (s : State) (q b k : Nat) : Option Nat :=
  (bucketOf b).find? (fun x => let r := slotRec s q x; recValid r && recKey r == k)

/-- The slot that holds a key, wherever it may reside. -/
def findSlot (s : State) (q k : Nat) : Option Nat :=
  (slotIn s q (fb0 s k) k).or ((slotIn s q (fb1 s k) k).or (slotIn s q (fbo s k) k))

/-- The slot index of a cached line and of victims that name slot `x` becomes `y` (R165 step 4). -/
def retag (s : State) (q k y : Nat) : State :=
  let ln := s.flo.lines.map (fun e =>
    if lineQuad e.1 = q ∧ e.2.key = k ∧ e.2.st ≠ .filling then (e.1, { e.2 with slot := y }) else e)
  let vs := s.flo.victims.map (fun v => if v.quad = q ∧ v.key = k then { v with slot := y } else v)
  { s with flo := { s.flo with lines := ln, victims := vs } }

/-- Move the record of slot `x` to the free slot `y` of its other candidate bucket (R165). -/
def moveRec (s : State) (q : Nat) (m : Nat × Nat) : State :=
  let r := slotRec s q m.1
  let k := recKey r
  let s := writeSlot s q m.2 r
  let s := headCount s q (fb0 s k) 352 (m.2 / 4 != fb0 s k)
  clearSlot (retag s q k m.2) q m.1

/-- The other candidate bucket of the record in slot `x`, if it has one. -/
def otherCand (s : State) (q x : Nat) : Option Nat :=
  let k := recKey (slotRec s q x)
  let o := if x / 4 = fb0 s k then fb1 s k else fb0 s k
  if fb0 s k = fb1 s k then none else some o

/-! ### Bucket reads and quarantine (R170, R171) -/

/-- A bucket is in its quadrant's quarantine list (R170). -/
def quarantined (s : State) (q b : Nat) : Bool :=
  (List.range 64).any (fun i => rdB s (R.fltQuarValid q i) && rd s (R.fltQuarBucket q i) == b)

/-- The bucket enters the quarantine list, or FULL is set (R170). -/
def quarantineBucket (s : State) (q b : Nat) : State :=
  let s := bump s (R.fltCntCount q 10)
  let s := journal s 0x0050 2 (unitOf q 0) (.num 0) (slotAddr s q (4 * b)) 0
  if quarantined s q b then s
  else match (List.range 64).find? (fun i => !rdB s (R.fltQuarValid q i)) with
    | some i => wrs s [(R.fltQuarBucket q i, b), (R.fltQuarValid q i, 1)]
    | none => wr s (R.fltQuarStatFull q) 1

/-- The miss engine reads a bucket, 512 bytes with the close hint. The read was charged when it was issued; a re-read
by the device CRC charges as much again (R160, R171). -/
def bucketAns (s : State) (q b : Nat) (errs : HbmErrs) : HbmAns :=
  let a := slotAddr s q (4 * b)
  hbmRead (if rereads s q a 512 errs then byteCharge s q 512 else s) missPort q a 512 errs

/-- The buckets a placement has read, and whether one of them is quarantined or has become so. -/
structure PlaceS where
  st : State
  seen : List Nat
  bad : Bool

/-- A placement reads a bucket, once; a quarantined one is not read, and ends it (R170). -/
def seeBucket (q : Nat) (p : PlaceS) (b : Nat) : PlaceS :=
  if p.bad || p.seen.contains b then p
  else if quarantined p.st q b then { p with bad := true }
  else
    let r := bucketAns (byteCharge p.st q 512) q b []
    if r.bad then ⟨quarantineBucket r.st q b, p.seen, true⟩ else ⟨r.st, b :: p.seen, false⟩

/-- A search for moves: what it has found, and what it has read. -/
abbrev KickS := Option (List (Nat × Nat)) × PlaceS

/-- The search has ended. -/
def kickDone (a : KickS) : Bool := a.1.isSome || a.2.bad

/-- A move of slot `x` to a free slot of its other candidate bucket, followed by the moves `ms`; bucket `no` is left
out. -/
def kickFrom (q : Nat) (no : Option Nat) (ms : List (Nat × Nat)) (a : KickS) (x : Nat) : KickS :=
  if kickDone a then a
  else match otherCand a.2.st q x with
    | none => a
    | some o =>
      if some o = no then a
      else
        let p := seeBucket q a.2 o
        if p.bad then (none, p) else ((freeSlotIn p.st q o).map (fun y => (x, y) :: ms), p)

/-- A move that frees a slot of one of the buckets at once. -/
def oneMove (q : Nat) (p : PlaceS) (bs : List Nat) : KickS :=
  (bs.flatMap bucketOf).foldl (kickFrom q none []) (none, p)

/-- Two moves: a record of an adjacent bucket moves first and leaves its slot. -/
def twoMoves (q : Nat) (p : PlaceS) (bs : List Nat) : KickS :=
  (bs.flatMap (fun b => (bucketOf b).map (fun x => (b, x)))).foldl (fun a e =>
    if kickDone a then a
    else match otherCand a.2.st q e.2 with
      | none => a
      | some o => (bucketOf o).foldl (fun a y => kickFrom q (some e.1) [(e.2, y)] a y) a) (none, p)

/-! ### Placement (R164) -/

/-- Where a record was put; a full table or a quarantined bucket leaves the reads made. -/
inductive PlaceAns where
  | at (slot : Nat) (s : State)
  | full (s : State)
  | quarantine (s : State)

/-- The free slot of b0 or of b1, and the record put there. -/
def placeMain (s : State) (q r : Nat) : Option PlaceAns :=
  let k := recKey r
  match freeSlotIn s q (fb0 s k) with
  | some x => some (.at x (writeSlot s q x r))
  | none => (freeSlotIn s q (fb1 s k)).map (fun x => .at x (headCount (writeSlot s q x r) q (fb0 s k) 352 true))

/-- The kick search to KICK_DEPTH: one move, then two. -/
def kickSearchRec (s : State) (q : Nat) (p : PlaceS) (bs : List Nat) : KickS :=
  let depth := rd s (R.fltCfgKickDepth q)
  let a := if 1 ≤ depth then oneMove q p bs else (none, p)
  if !kickDone a && decide (2 ≤ depth) then twoMoves q a.2 bs else a

/-- The overflow bucket's free slot. -/
def placeOver (q r : Nat) (p : PlaceS) : PlaceAns :=
  let k := recKey r
  let p := seeBucket q p (fbo p.st k)
  if p.bad then .quarantine p.st
  else match freeSlotIn p.st q (fbo p.st k) with
    | some x => .at x (headCount (writeSlot p.st q x r) q (fb0 p.st k) 364 true)
    | none => .full p.st

/-- Place a record (R164): b0, b1, the moves of the kick search, the overflow bucket. A quarantined bucket ends it
(R170); b1 is read when b0 has no free slot. -/
def placeRec (s : State) (q r : Nat) : PlaceAns :=
  let k := recKey r
  let b0 := fb0 s k
  let b1 := fb1 s k
  let p := seeBucket q ⟨s, [], false⟩ b0
  let p := if (freeSlotIn p.st q b0).isSome then p else seeBucket q p b1
  if p.bad then .quarantine p.st
  else match placeMain p.st q r with
    | some a => a
    | none =>
      let m := kickSearchRec s q p [b0, b1]
      if m.2.bad then .quarantine m.2.st
      else match m.1 with
        | none => placeOver q r m.2
        | some ms =>
          let t := ms.foldl (fun s m => moveRec s q m) m.2.st
          match placeMain t q r with
          | some a => a
          | none => .full t

/-- Clear the HBM copy of a key and its header count (R168). -/
def removeSlot (s : State) (q k : Nat) : State :=
  match findSlot s q k with
  | some x =>
    let b0 := fb0 s k
    let s := clearSlot s q x
    if x / 4 = b0 then s
    else if mainBuckets s ≤ x / 4 then headCount s q b0 364 false
    else headCount s q b0 352 false
  | none => s

/-! ### The flow cache (R153, R166) -/

/-- The line of a key in quadrant `q`. -/
def findLine (s : State) (q k : Nat) : Option (Nat × LineS) :=
  let st := setOf s q k
  s.flo.lines.find? (fun e => lineQuad e.1 == q && lineSet e.1 == st && e.2.key == k)

/-- The victim-buffer entry of a key in quadrant `q`. -/
def findVictim (s : State) (q k : Nat) : Option VictimS := s.flo.victims.find? (fun v => v.quad == q && v.key == k)

/-- Write a line. -/
def setLine (s : State) (l : Nat) (x : LineS) : State :=
  { s with flo := { s.flo with lines := mset s.flo.lines l x } }

/-- A line becomes INVALID. -/
def delLine (s : State) (l : Nat) : State := { s with flo := { s.flo with lines := mdel s.flo.lines l } }

/-- Change a line. -/
def updLine (s : State) (l : Nat) (f : LineS → LineS) : State :=
  { s with flo := { s.flo with lines := mmod s.flo.lines l f } }

/-- The LRU clock advances and stamps a line. -/
def useLine (s : State) (l : Nat) : State :=
  let c := s.flo.clock + 1
  updLine { s with flo := { s.flo with clock := c } } l (fun x => { x with used := c })

/-- A way is evictable (R166). -/
def evictable (x : LineS) : Bool := x.st != .filling && !x.pinned

/-- The way a miss takes in a set: an INVALID one, or the evictable one of lowest LRU rank (R160, R166). -/
def wayFor (s : State) (q set : Nat) : Option Nat :=
  match (List.range 16).find? (fun w => (mget s.flo.lines (lineKey q set w)).isNone) with
  | some w => some (lineKey q set w)
  | none =>
    let c := (List.range 16).filterMap (fun w =>
      (mget s.flo.lines (lineKey q set w)).bind (fun x => if evictable x then some (lineKey q set w, x.used) else none))
    match c with
    | [] => none
    | e :: es => some (es.foldl (fun m x => if x.2 < m.2 then x else m) e).1

/-- Victims of a quadrant: those in its buffer of 256 entries, and those that wait for one (R166). -/
def victimCount (s : State) (q : Nat) : Nat := (s.flo.victims.filter (fun v => v.quad == q)).length

/-- A writeback of 128 bytes is issued (R166, R171). -/
def issueWriteback (s : State) (q : Nat) : State := byteCharge (bump s (R.fltCntCount q 6)) q 128

/-- Evict what a way holds (R166). A DIRTY victim enters the victim buffer and its writeback is issued; behind 256
others it waits, and the answer says that the miss waits with it. -/
def evict (s : State) (l : Nat) : State × Bool :=
  match mget s.flo.lines l with
  | some x =>
    let q := lineQuad l
    let s := bump s (R.fltCntCount q 5)
    match x.st with
    | .dirty =>
      let full := decide (256 ≤ victimCount s q)
      let s := if full then s else issueWriteback s q
      let v : VictimS := ⟨q, x.slot, x.key, x.content⟩
      (delLine { s with flo := { s.flo with victims := s.flo.victims ++ [v] } } l, full)
    | _ => (delLine s l, false)
  | none => (s, false)

/-- Pinned lines of a quadrant and of a set. -/
def pinnedIn (s : State) (q : Nat) : Nat := (s.flo.lines.filter (fun e => lineQuad e.1 == q && e.2.pinned)).length
def pinnedSet (s : State) (q set : Nat) : Nat :=
  (s.flo.lines.filter (fun e => lineQuad e.1 == q && lineSet e.1 == set && e.2.pinned)).length

/-- A pin fits the limits of R33 and R167. -/
def pinRoom (s : State) (q set : Nat) : Bool :=
  decide (pinnedIn s q < rd s (R.fltPinStatPinLimit q)) && decide (pinnedSet s q set < 8)

/-- FILLING lines of a quadrant, and its held packets (R161). -/
def fillingIn (s : State) (q : Nat) : Nat := (s.flo.lines.filter (fun e => lineQuad e.1 == q && e.2.st == .filling)).length
def heldIn (s : State) (q : Nat) : Nat :=
  (s.flo.lines.filter (fun e => lineQuad e.1 == q)).foldl (fun n e => n + e.2.hold.length) 0

/-! ### Flow results and default actions (R157, R171) -/

/-- FLT_TICK (R168). -/
def flowTick (s : State) : Nat := uptime s / 2 ^ 20 % 2 ^ 24

/-- The flow result of a record for one direction (R157). -/
def flowResult (r : Nat) (rev via : Bool) : Nat :=
  let o := if rev then 608 else 512
  bits r o 32 + bits r (o + 32) 32 * 2 ^ 32 + bits r (o + 64) 16 * 2 ^ 64 + bits r (o + 80) 16 * 2 ^ 80 +
  bits r (if rev then 752 else 748) 4 * 2 ^ 96 + b2n rev * 2 ^ 100 + b2n (recDeny r) * 2 ^ 101 +
  recState r * 2 ^ 102 + bits r 720 12 * 2 ^ 106 + b2n (recPin r) * 2 ^ 118 + b2n via * 2 ^ 119

/-- Write the flow result and FLOW_STAT. -/
def putFlow (s : State) (bus stat res : Nat) : Nat := putBits (putBits bus (resPos s) 128 res) 94 2 stat

/-- The image's flow default action on a bus, with the reason a drop gets (R56, R171). -/
def flowDefaultBus (s : State) (bus reason : Nat) : Nat :=
  let b := putFlow s bus 3 0
  match flowDefault s with
  | 1 => busDrop b reason
  | 2 => putBits b 126 2 2
  | _ => b

/-! ### The fragment table (R83–R87) -/

/-- The key of a fragment. -/
def fragKey (s : State) (bus ipid : Nat) : Nat :=
  busVrf bus + bits bus (addrPos s) 128 * 2 ^ 14 + bits bus (addrPos s + 128) 128 * 2 ^ 142 + ipid * 2 ^ 270 +
    busProto bus * 2 ^ 302

/-- Home quadrant and set of a fragment key; the spec names no hash (log 10). -/
def fragSetKey (k : Nat) : Nat := Config.fragHash k % 4 * 2 ^ 14 + Config.fragHash k / 4 % 4096 * 4
def fragQuad (k : Nat) : Nat := Config.fragHash k % 4

/-- The entry is expired at counter value `t` (R86). -/
def fragExpired (s : State) (e : FragS) : Bool := decide (fragAgeUs s * 1000 ≤ nsDiff (nowNs s) e.stamp)

/-- The unexpired entry of a key. -/
def fragFind (s : State) (k : Nat) : Option (Nat × FragS) :=
  (upFrom (fragSetKey k) 4).findSome? (fun i =>
    (mget s.flo.frag i).bind (fun e => if e.key = k ∧ !fragExpired s e then some (i, e) else none))

/-- Write a fragment entry. -/
def setFrag (s : State) (i : Nat) (e : FragS) : State := { s with flo := { s.flo with frag := mset s.flo.frag i e } }

/-- A first fragment inserts or replaces its entry, pending (R84). -/
def fragInsert (s : State) (g : List Byte) (bus ipid : Nat) : State :=
  let k := fragKey s bus ipid
  let e : FragS := ⟨k, bits bus (portsPos g) 32, .pending, 0, busTs bus⟩
  match fragFind s k with
  | some (i, _) => setFrag s i e
  | none =>
    match (upFrom (fragSetKey k) 4).find? (fun i => match mget s.flo.frag i with
        | some x => fragExpired s x
        | none => true) with
    | some i => setFrag s i e
    | none => bump s (R.fltFragFailCntCount (fragQuad k))

/-- A first fragment's flow decision is known: its entry receives the flow handle or the default mark (R84). -/
def fragDecide (s : State) (bus ipid : Nat) (d : FragSt) (handle : Nat) : State :=
  if busFrag bus = 1 then
    match fragFind s (fragKey s bus ipid) with
    | some (i, e) => if e.st = .pending then setFrag s i { e with st := d, handle := handle } else s
    | none => s
  else s

/-! ### Connection tracking (R194, R195) -/

/-- What the flow stage reads of a TCP segment. -/
structure TcpS where
  seq : Nat
  ack : Nat
  flags : Nat
  pay : Nat
  ws : Option Nat

/-- The window-scale option among `fuel` option bytes. -/
def wsOption : Nat → List Byte → Option Nat
  | 0, _ => none
  | fuel + 1, bs =>
    match bs with
    | [] => none
    | k :: rest =>
      if k = 0 then none
      else if k = 1 then wsOption fuel rest
      else if k = 3 then some ((rest.getD 1 0).toNat % 16)
      else wsOption fuel (bs.drop (max 2 (rest.getD 0 0).toNat))

/-- The TCP header at the L4 offset of the key's headers (R194). -/
def readTcp (s : State) (bus : Nat) (b : List Byte) : TcpS :=
  let inner := flowInner s && busTunnel bus
  let l4 := 2 * (if inner then bits bus 168 8 else bits bus 136 8)
  let l3 := 2 * (if inner then bits bus 160 8 else bits bus 128 8)
  let doff := fieldBe b (l4 + 12) 1 / 16 * 4
  let pay := if l3Type s bus = 2 then fieldBe b (l3 + 4) 2 + 40 - (l4 - l3) - doff
    else fieldBe b (l3 + 2) 2 - (l4 - l3) - doff
  ⟨fieldBe b (l4 + 4) 4, fieldBe b (l4 + 8) 4, fieldBe b (l4 + 13) 1, pay,
   wsOption 40 (slice b (l4 + 20) (min 40 (doff - 20)))⟩

/-- Flags of a segment. -/
def tFin (t : TcpS) : Bool := bit t.flags 0
def tSyn (t : TcpS) : Bool := bit t.flags 1
def tRst (t : TcpS) : Bool := bit t.flags 2
def tAck (t : TcpS) : Bool := bit t.flags 4

/-- L of R194. -/
def segLen (t : TcpS) : Nat := t.pay + b2n (tSyn t) + b2n (tFin t)

/-- END and WS of a direction. -/
def recEnd (r : Nat) (rev : Bool) : Nat := bits r (if rev then 480 else 448) 32
def recWs (r : Nat) (rev : Bool) : Nat := bits r (if rev then 397 else 393) 4
def putEnd (r : Nat) (rev : Bool) (v : Nat) : Nat := putBits r (if rev then 480 else 448) 32 v
def putWs (r : Nat) (rev : Bool) (v : Nat) : Nat := putBits r (if rev then 397 else 393) 4 v

/-- |signed(a − b)| of 32-bit values. -/
def serialGap (a b : Nat) : Nat := (sbits 32 (a + 2 ^ 32 - b % 2 ^ 32)).natAbs

/-- The sequence check and the whole check of a segment of a direction (R194). -/
def seqOk (r : Nat) (rev : Bool) (t : TcpS) : Bool :=
  decide (serialGap (t.seq + segLen t) (recEnd r rev) ≤ 65535 * 2 ^ recWs r (!rev))
def checksOk (r : Nat) (rev : Bool) (t : TcpS) : Bool :=
  seqOk r rev t && (!tAck t || decide (serialGap t.ack (recEnd r (!rev)) ≤ 65535 * 2 ^ recWs r rev))

/-- A segment that passes moves its direction's END forward (R194). -/
def advanceEnd (r : Nat) (rev : Bool) (t : TcpS) : Nat :=
  let e := (t.seq + segLen t) % 2 ^ 32
  if serialNewer 32 e (recEnd r rev) then putEnd r rev e else r

/-- What a state row decides. -/
inductive ConnAns where
  | accept (r : Nat)
  | reject (failedCheck : Bool)

/-- WS after a SYN+ACK: in use only when both SYNs carried the option (R194). -/
def wsAgree (r : Nat) (t : TcpS) : Nat :=
  match t.ws with
  | some w => putWs r true w
  | none => putWs (putWs r false 0) true 0

/-- Write STATE. -/
def putState (r st : Nat) : Nat := putBits r 384 4 st

/-- The state table for tracked records, states 2–8 (R195). A segment that fails a check is dropped and counted in
states 2–7, and moves no END (R194); the reverse SYN+ACK of SYN_SENT has no END_REV to be checked against (DEDUCED, log
45). `chk`: WIN_CHECK. -/
def tcpStep (r : Nat) (rev chk : Bool) (t : TcpS) : ConnAns :=
  let st := recState r
  let ok := !chk || checksOk r rev t
  let sok := !chk || seqOk r rev t
  let adv := if ok then advanceEnd r rev t else r
  let moved := recEnd adv rev != recEnd r rev
  if tRst t then
    if st = 8 then .accept r
    else if sok then .accept (putState adv 8) else .reject true
  else match st with
    | 2 =>
      if rev && tSyn t && tAck t && t.ack == recEnd r false then
        .accept (putState (wsAgree (putEnd r true (t.seq + 1)) t) 3)
      else if !rev && tSyn t && !tAck t && ok then .accept adv
      else .reject (!ok)
    | 3 =>
      if rev && tSyn t && tAck t && ok then .accept adv
      else if !rev && tAck t && !tSyn t && t.ack == recEnd r true && ok then .accept (putState adv 4)
      else .reject (!ok)
    | 4 => if ok then .accept (if tFin t then putState adv 5 else adv) else .reject true
    | 5 => if ok then .accept (if tFin t && moved then putState adv 6 else adv) else .reject true
    | 6 =>
      if !ok then .reject true
      else if tAck t && !tFin t && t.ack == recEnd r (!rev) then .accept (putState adv 7)
      else .accept adv
    | _ =>
      if !rev && tSyn t && !tAck t then
        let r := putBits (putState r 2) 408 8 0
        .accept (putWs (putWs (putEnd (putEnd r true 0) false (t.seq + 1)) true 0) false (t.ws.getD 0))
      else .reject (st == 7 && !ok)

/-- The state of any record after a packet (R195). -/
def connStep (s : State) (r : Nat) (rev : Bool) (t : TcpS) : ConnAns :=
  let st := recState r
  if 2 ≤ st ∧ st ≤ 8 then tcpStep r rev (rdB s R.fltCtCfgWinCheck) t
  else if st = 0 ∧ rev then .accept (putState r 1)
  else .accept r

/-- LAST_SEEN and FLAGS of a record after a packet (R156). -/
def touchPkt (s : State) (r flags : Nat) : Nat :=
  putBits (putBits r 408 8 (bits r 408 8 ||| flags)) 920 24 (flowTick s)

/-- The counters of a direction, LAST_SEEN and FLAGS of a record after a packet (R146, R156). -/
def countPkt (s : State) (r : Nat) (rev : Bool) (len flags : Nat) : Nat :=
  let p := if rev then 832 else 768
  let r := putBits r p 28 (bits r p 28 + 1)
  touchPkt s (putBits r (p + 28) 36 (bits r (p + 28) 36 + len)) flags

/-- Packets of a direction. -/
def pktCount (r : Nat) (rev : Bool) : Nat := bits r (if rev then 832 else 768) 28

/-! ### Latency samples (R197) -/

/-- The lowest free sample slot of a quadrant. -/
def freeSample (s : State) (q : Nat) : Option Nat :=
  (List.range 4096).find? (fun i => (mget s.flo.samples (q * 4096 + i)).isNone)

/-- Mark a packet that LAT_RATIO selects (R197, R198). -/
def sampleMark (s : State) (q k head count : Nat) : State :=
  let ratio := rd s R.fltTelCfgLatRatio
  if ratio = 0 ∨ rd s R.fltTelCfgHistBaseNs = 0 ∨ count % 2 ^ (ratio - 1) ≠ 0 then s
  else match freeSample s q with
    | some i =>
      let s := { s with flo := { s.flo with samples := mset s.flo.samples (q * 4096 + i) ⟨k, uptime s, none⟩ } }
      updFrame s head (fun f => { f with smp := some (q * 4096 + i) })
    | none => bump s (R.fltSvcCntCount q 12)

/-! ### Applying a record (R156) -/

/-- Apply a record to a packet of frame `head`: its new content, the bus, the state. -/
def applyRec (s : State) (q r : Nat) (head bus : Nat) (fromB via : Bool) (stat handle : Nat) : Nat × Nat × State :=
  let b := frameBytes s head
  let t := if busProto bus = 6 then readTcp s bus b else ⟨0, 0, 0, 0, none⟩
  let rev := via || (fromB != recOrigB r)
  match connStep s r rev t with
  | .accept r' =>
    if recDeny r then
      let r' := touchPkt s r' t.flags
      (r', busDrop (putBits (putFlow s bus stat (flowResult r' rev via)) 192 29 handle) 0x08, s)
    else
      let r' := countPkt s r' rev (busLen bus) t.flags
      let s := sampleMark s q (recKey r) head (pktCount r' rev)
      (r', putBits (putFlow s bus stat (flowResult r' rev via)) 192 29 handle, s)
  | .reject chk =>
    let s := if chk then bump s (R.fltSvcCntCount q 9) else s
    (r, busDrop (putBits (putFlow s bus stat (flowResult r rev via)) 192 29 handle) 0x09, s)

end Sys2Proof.Machine
end

