-- ==== Sys2Proof/Machine/FlowStage.lean ====
section
/-!
DEFINITION. The flow stage (R156–R163): lookups, holds, misses, installs, setups and their outcomes.
-/

namespace Sys2Proof.Machine

open Sys2Proof

/-! ### Tasks (R223, R226) -/

/-- The dispatcher's mode that MOD_STAT.MODE gives: 0 stopped, 1 priority, 2 flags (R226). -/
def dispMode (s : State) : Nat :=
  match mode s with
  | .sync | .serve | .splice => 1
  | .load | .test | .safe => 2
  | .reset | .freeze => 0

/-- The serving groups of a class in a quadrant, in ascending index (R223). -/
def servingGroups (s : State) (q cls : Nat) : List Nat :=
  (List.range 8).filter (fun k => rd s (R.engGrpStatState q k) == 1 && rd s (R.engUcodeVerClass q k) == cls)

/-- The engine microcode section of a class (R220). -/
def ucode (s : State) (cls : Nat) : List Byte := sec s 8 cls

/-- The class that runs hardware kind `k` (R223). -/
def kindClass (s : State) (k : Nat) : Option Nat :=
  (List.range 8).find? (fun c => ucode s c != [] && bit (fieldLe (ucode s c) 3 1) k)

/-- A task is created and waits at its quadrant's dispatcher input. -/
def newTask (s : State) (t : TaskS) : Nat × State :=
  let i := s.eng.nextTask
  let l := mgetD s.eng.inq t.quad [] ++ [i]
  (i, { s with eng := { s.eng with tasks := mset s.eng.tasks i t, inq := mset s.eng.inq t.quad l, nextTask := i + 1 } })

/-- The payload of a setup task (R225). -/
def setupPayload (s : State) (bus key : Nat) (origB : Bool) (l : Nat) : List Byte :=
  toLe 128 bus ++ toLe 40 key ++ toLe 4 (b2n origB) ++
  ((List.range 4).map (fun i => toLe 4 (flowHash s i key))).flatten ++ toLe 2 l ++ [0, 0]

/-! ### Decisions about held packets -/

/-- A packet goes on behind the flow stage with a bus. -/
def flowOn (s : State) (head bus : Nat) : State := ingressTail false s head bus

/-- The IP identification a frame carries. -/
def frameIpid (s : State) (head : Nat) : Nat := ((mget s.cel.frames head).map (·.ipid)).getD 0
def frameBus (s : State) (head : Nat) : Nat := ((mget s.cel.frames head).map (·.bus)).getD 0

/-- The parser graph a frame's pipe runs. -/
def frameGraph (s : State) (head : Nat) : List Byte :=
  match mget s.cel.frames head with
  | some f => (progOf s f.quad f.pipe).parser
  | none => []

/-- The flow default action on a packet (R171). -/
def takeDefault (s : State) (head bus reason : Nat) : State :=
  let s := fragDecide s bus (frameIpid s head) .default 0
  flowOn s head (flowDefaultBus s bus reason)

/-- A packet is dropped by the flow stage. -/
def flowDrop (s : State) (head bus reason : Nat) : State :=
  let s := fragDecide s bus (frameIpid s head) .flow 0
  flowOn s head (busDrop (putFlow s bus 0 0) reason)

/-- The hold list of a line, which then holds none. -/
def takeHold (s : State) (l : Nat) : List (Nat × Bool) × State :=
  (((mget s.flo.lines l).map (·.hold)).getD [], updLine s l (fun x => { x with hold := [] }))

/-- A miss or setup ends without a record: the line is freed and every held packet takes the default action. -/
def endDefault (s : State) (l reason : Nat) : State :=
  let h := takeHold s l
  let s := delLine h.2 l
  h.1.foldl (fun s e => takeDefault s e.1 (frameBus s e.1) reason) s

/-- A setup is rejected: the line is freed and every held packet is dropped with its reason (R162). -/
def endReject (s : State) (l reason : Nat) : State :=
  let h := takeHold s l
  let s := delLine h.2 l
  h.1.foldl (fun s e => flowDrop s e.1 (frameBus s e.1) reason) s

/-- Apply the record of a valid line or victim entry to a packet. -/
def hitRecord (s : State) (q key head bus : Nat) (fromB via : Bool) : State :=
  match findLine s q key, findVictim s q key with
  | some (l, x), _ =>
    let a := applyRec s q x.content head bus fromB via 1 (q * 2 ^ 27 + x.slot)
    let s := bump (useLine a.2.2 l) (R.fltCntCount q 0)
    let s := if a.1 = x.content then s else updLine s l (fun x => { x with content := a.1, st := .dirty })
    flowOn (fragDecide s bus (frameIpid s head) .flow (q * 2 ^ 27 + x.slot)) head a.2.1
  | none, some v =>
    let a := applyRec s q v.content head bus fromB via 1 (q * 2 ^ 27 + v.slot)
    let s := bump a.2.2 (R.fltCntCount q 0)
    let vs := s.flo.victims.map (fun w => if w.quad = q ∧ w.key = key then { w with content := a.1 } else w)
    let s := { s with flo := { s.flo with victims := vs } }
    flowOn (fragDecide s bus (frameIpid s head) .flow (q * 2 ^ 27 + v.slot)) head a.2.1
  | none, none => s

/-! ### Holds and misses (R160, R161) -/

/-- A packet joins the hold list of a FILLING line, or takes the default action at the limit (R161). -/
def holdBehind (s : State) (l : Nat) (head bus : Nat) (via : Bool) : State :=
  let q := lineQuad l
  if 131072 ≤ heldIn s q then
    let s := bump s (R.fltCntCount q 3)
    let s := if ((mget s.flo.lines l).map (fun x => x.hold.isEmpty)).getD true then s else bump s (R.fltCntCount q 9)
    takeDefault s head bus 0x0A
  else
    let s := updFrame s head (fun f => { f with bus := bus, phase := .held })
    updLine s l (fun x => { x with hold := x.hold ++ [(head, via)] })

/-- The b0 read of a line is issued. -/
def issueB0 (s : State) (l : Nat) : State :=
  byteCharge (updLine s l (fun x => { x with miss := .b0 })) (lineQuad l) 512

/-- A miss starts, or takes the flow default action (R160, R161, R166, R170, R171). -/
def missStart (s : State) (q key head bus : Nat) (via : Bool) : State :=
  let s := bump s (R.fltCntCount q 1)
  if !memServes s q || decide (byteNow s q < 640) || decide (65536 ≤ fillingIn s q) || decide (131072 ≤ heldIn s q) then
    takeDefault (bump s (R.fltCntCount q 3)) head bus 0x0A
  else if quarantined s q (fb0 s key) then takeDefault s head bus 0x0A
  else match wayFor s q (setOf s q key) with
    | none => takeDefault (bump s (R.fltCntCount q 12)) head bus 0x0A
    | some l =>
      let e := evict s l
      let s := setLine e.1 l ⟨key, .filling, 0, false, e.1.flo.clock, 0, [], if e.2 then .victim else .none, 0⟩
      let s := { s with flo := { s.flo with clock := s.flo.clock + 1 } }
      let s := updFrame s head (fun f => { f with bus := bus, phase := .held })
      let s := updLine s l (fun x => { x with hold := [(head, via)] })
      if e.2 then s else issueB0 s l

/-- A valid record of a key in the cache or the victim buffer of its home quadrant. -/
def cached (s : State) (q key : Nat) : Option Nat :=
  match findLine s q key with
  | some (_, x) => if x.st = .filling then none else some x.content
  | none => (findVictim s q key).map (·.content)

/-- The lookup of a key at its home quadrant (R156, R159); behind an alias the primary's key is looked up,
at most `fuel` times. -/
def flowLookup : Nat → State → Nat → Nat → Nat → Bool → Bool → State
  | 0, s, head, bus, _, _, _ => takeDefault s head bus 0x0A
  | fuel + 1, s, head, bus, key, fromB, via =>
    let q := homeOfKey s key
    let r := cached s q key
    if busSched bus && !((r.map (fun c => recPin c && recSched c)).getD false) then
      flowDrop (bump s (R.fltCntCount q 11)) head bus 0x12
    else match r with
      | some c =>
        if recAlias c then
          let p := clrBit (bits c 384 320) 31
          let s := match findLine s q key with
            | some (l, _) => useLine s l
            | none => s
          flowLookup fuel s head bus p fromB true
        else hitRecord s q key head bus fromB via
      | none =>
        match findLine s q key with
        | some (l, _) => holdBehind s l head bus via
        | none => missStart s q key head bus via

/-- The flow stage's key lookup for a packet (R147, R156). -/
def flowStage (s : State) (g : List Byte) (head bus : Nat) : State :=
  if l3Type s bus = 0 then flowOn s head (putFlow s bus 0 0)
  else
    let k := busKey s g bus
    flowLookup 2 s head bus k.1 k.2 false

/-- The image's fragment default action (R56, R85). -/
def takeFragDefault (s : State) (head bus ipid : Nat) : State :=
  let s := bump s (R.fltFragDefaultCntCount (fragQuad (fragKey s bus ipid)))
  let b := putFlow s bus 0 0
  flowOn s head (match fragDefault s with
    | 1 => busDrop b 0x0E
    | 2 => putBits b 126 2 2
    | _ => b)

/-- A packet enters the flow stage of its pipe (R83–R86, R95, R156). -/
def flowEnter (s : State) (head bus : Nat) : State :=
  let g := frameGraph s head
  let ipid := frameIpid s head
  if retiredAt s bus then flowOn (takeOverrun s) head (busDrop bus 0x16)
  else match busFrag bus with
    | 1 => flowStage (if fragAgeUs s = 0 then s else fragInsert s g bus ipid) g head bus
    | 2 =>
      if fragAgeUs s = 0 then takeFragDefault s head bus ipid
      else match fragFind s (fragKey s bus ipid) with
        | some (i, e) =>
          let s := setFrag s i { e with stamp := busTs bus }
          let bus := putBits bus (portsPos g) 32 e.ports
          if e.st = .default then flowOn s head (flowDefaultBus s bus 0x0A)
          else flowStage s g head bus
        | none => takeFragDefault s head bus ipid
    | _ => flowStage s g head bus

/-! ### Cache errors (R166) -/

/-- A record fetched from HBM as a cache line holds it: without the bucket header. -/
def cacheForm (r : Nat) : Nat := putBits r 352 32 0

/-- An error in the cache line a lookup reads: 1 corrected, 2 uncorrectable. -/
def cacheEcc (s : State) (l err : Nat) : State :=
  match mget s.flo.lines l with
  | some x =>
    let q := lineQuad l
    if err = 1 then bump s (R.fltCntCount q 13)
    else if err = 2 ∧ x.st ≠ .filling then
      let s := journal s 0x0050 2 (unitOf q 0) (.num 0) (slotAddr s q x.slot) 0
      let s := if x.pinned && recSched x.content then raiseFault s 10 (unitOf q 0) x.slot else s
      if x.pinned then
        updLine s l (fun x => { x with content := setBit (cacheForm (slotRec s q x.slot)) 388, st := .clean })
      else delLine s l
    else s
  | none => s

/-- The line a packet's key reads, if any. -/
def lineOfBus (s : State) (g : List Byte) (bus : Nat) : Option Nat :=
  let k := (busKey s g bus).1
  (findLine s (homeOfKey s k) k).map (·.1)

/-! ### Installs and setups (R160, R162, R163) -/

/-- A held packet is released on the state its line has: a record is applied, an alias leads on. -/
def releaseHeld (s : State) (key : Nat) (e : Nat × Bool) : State :=
  let bus := frameBus s e.1
  let k := busKey s (frameGraph s e.1) bus
  flowLookup 2 s e.1 bus key k.2 e.2

/-- Install a record found in HBM as CLEAN and release the hold list in order (R160 step 7). -/
def install (s : State) (l slot r : Nat) : State :=
  let h := takeHold s l
  let s := updLine h.2 l (fun x =>
    { x with st := .clean, content := cacheForm r, slot := slot, miss := .none, task := 0, pinned := x.pinned || recPin r })
  let key := ((mget s.flo.lines l).map (·.key)).getD 0
  h.1.foldl (fun s e => releaseHeld s key e) (useLine s l)

/-- An absent key becomes a setup task, or its packets take the default action (R162, R163, R171). In flags mode the
task is cancelled at the dispatcher's input (R229). -/
def setupCreate (s : State) (l : Nat) : State :=
  match mget s.flo.lines l with
  | some x =>
    let q := lineQuad l
    let head := (x.hold.headD (0, false)).1
    let bus := frameBus s head
    let fromB := (busKey s (frameGraph s head) bus).2
    if rd s (R.fltSetupCfgLimitUs q) = 0 then endDefault s l 0x0A
    else if !memServes s q || decide (setupNow s q < 1000) then endDefault (bump s (R.fltCntCount q 3)) l 0x0A
    else match kindClass s 0 with
      | none => endDefault (bump s (R.fltCntCount q 8)) l 0x0A
      | some cls =>
        if dispMode s = 0 ∨ (dispMode s = 1 ∧ servingGroups s q cls = []) then endDefault (bump s (R.fltCntCount q 8)) l 0x0A
        else
          let u := ucode s cls
          let t : TaskS := ⟨0, q, cls, 8, fieldLe u 0x0C 2, fieldLe u 0x12 1 % 8, true,
            flowHash s 1 x.key % 2 ^ 16, 0, [0, 0, 0], setupPayload s bus x.key fromB (l % 2 ^ 16),
            some l, none, none, false, false, uptime s, [], none, false, none⟩
          let r := newTask (setupCharge s q) t
          updLine r.2 l (fun x => { x with miss := .setup, task := r.1 })
  | none => s

/-- The next bucket a miss reads, or its end as a setup (R160 steps 4 and 5). -/
def missNext (s : State) (l : Nat) (x : LineS) : State :=
  let q := lineQuad l
  let b0 := fb0 s x.key
  let b1 := fb1 s x.key
  let goB1 := x.miss == .b0 && altCnt s q b0 != 0 && b1 != b0
  let goOvf := ovfCnt s q b0 != 0 && x.miss != .ovf
  if goB1 then
    if quarantined s q b1 then endDefault s l 0x0A
    else byteCharge (updLine s l (fun x => { x with miss := .b1 })) q 512
  else if goOvf then
    if quarantined s q (fbo s x.key) then endDefault s l 0x0A
    else byteCharge (updLine s l (fun x => { x with miss := .ovf })) q 512
  else setupCreate s l

/-- A bucket read of a line returns (R160, R170); a re-read is charged to the byte budget (R171). -/
def bucketRead (s : State) (l : Nat) (errs : HbmErrs) : State :=
  match mget s.flo.lines l with
  | some x =>
    let q := lineQuad l
    let b := match x.miss with
      | .b1 => fb1 s x.key
      | .ovf => fbo s x.key
      | _ => fb0 s x.key
    if x.st = .filling ∧ (x.miss = .b0 ∨ x.miss = .b1 ∨ x.miss = .ovf) then
      let r := bucketAns s q b errs
      if r.bad then endDefault (quarantineBucket r.st q b) l 0x0A
      else match slotIn r.st q b x.key with
        | some sl => install r.st l sl (slotRec r.st q sl)
        | none => missNext r.st l x
    else s
  | none => s

/-- The outcome of a setup is applied (R162, R225). -/
def setupOutcome (s : State) (t : TaskS) (outcome : Nat) : State :=
  match t.line with
  | none => s
  | some l =>
    let q := t.quad
    match outcome % 4, t.placed.bind (findSlot s q) with
    | 0, some sl =>
      let r := cacheForm (slotRec s q sl)
      let h := takeHold s l
      let s := bump h.2 (R.fltCntCount q 2)
      let s := updLine s l (fun x => { x with st := .clean, content := r, slot := sl, miss := .none, task := 0, pinned := recPin r })
      let s := useLine s l
      if recDeny r then h.1.foldl (fun s e => flowDrop s e.1 (frameBus s e.1) 0x08) s
      else match h.1 with
        | [] => s
        | e :: es =>
          let bus := frameBus s e.1
          let rev := e.2 || ((busKey s (frameGraph s e.1) bus).2 != recOrigB r)
          let flags := if busProto bus = 6 then (readTcp s bus (frameBytes s e.1)).flags else 0
          let r := countPkt s r rev (busLen bus) flags
          let s := sampleMark s q (recKey r) e.1 (pktCount r rev)
          let s := updLine s l (fun x => { x with st := .dirty, content := r })
          let b := putBits (putFlow s bus 2 (flowResult r rev e.2)) 192 29 (q * 2 ^ 27 + sl)
          let s := flowOn (fragDecide s bus (frameIpid s e.1) .flow (q * 2 ^ 27 + sl)) e.1 b
          es.foldl (fun s e => releaseHeld s (recKey r) e) s
    | 1, _ =>
      let c := bits outcome 8 8
      if [0x08, 0x09, 0x0C, 0x0D].contains c then endReject s l c
      else endDefault (bump s (R.fltCntCount q 8)) l 0x0A
    | 2, _ => endDefault (bump s (R.fltCntCount q 4)) l 0x0B
    | _, _ => endDefault (bump s (R.fltCntCount q 8)) l 0x0A

end Sys2Proof.Machine
end

