-- ==== Sys2Proof/Machine/EgressOps.lean ====
section
/-!
DEFINITION. Shared operations of the MACs and of the egress (chapters 1, 9, 10): frames as they arrive,
aborts, the scheduler, header rewrites and the bytes that leave.
-/

namespace Sys2Proof.Machine

open Sys2Proof

/-! ### Cells in HBM (R238, R298, R305, R316) -/

/-- The cell manager writes `n` bytes of a pool 1 cell from offset `o` of its data on, and its descriptor. -/
def cellOut (s : State) (p o n : Nat) : State :=
  if ptrPool p = 0 then s
  else match mget s.cel.cells p with
    | some c =>
      let s := hbmWrite s cellPort (ptrQuad p) (cellDataAt s p + dataAt c + o) (slice c.data o n) []
      hbmWrite s cellPort (ptrQuad p) (cellDescAt s p) (descBytes (some c)) []
    | none => s

/-- The egress reads pool 1 cells in turn, descriptor and data, up to one that answers poisoned: its place. -/
def cellsIn (s : State) : List Nat → Nat → Option Nat × State
  | [], _ => (none, s)
  | p :: ps, i =>
    let d := hbmRead s cellPort (ptrQuad p) (cellDescAt s p) 16 []
    let n := ((mget s.cel.cells p).map (fun c => dataAt c + c.len)).getD 0
    if d.bad then (some i, d.st)
    else
      let r := hbmRead d.st cellPort (ptrQuad p) (cellDataAt s p) n []
      if r.bad then (some i, r.st) else cellsIn r.st ps (i + 1)

/-- The frame header of a queued copy lies in HBM and cannot be read (R262). -/
def headerLost (s : State) (cp : Nat) : Bool := ptrPool cp == 1 && badRange s (ptrQuad cp) (cellDataAt s cp) 64

/-! ### Frames as they arrive (R243, R246, R263, R272–R275, R424) -/

/-- The Ethernet FCS of a frame's bytes: the CRC-32 of IEEE 802.3, least significant byte first. PRESUMED (log 12). -/
def fcsOf (b : List Byte) : List Byte := toLe 4 ((crcReg 0xEDB88320 0xFFFF_FFFF b) ^^^ 0xFFFF_FFFF)

/-- The last four bytes of a frame are its FCS. -/
def fcsGood (b : List Byte) : Bool := decide (b.drop (b.length - 4) = fcsOf (b.take (b.length - 4)))

/-- A frame without its FCS. -/
def body (b : List Byte) : List Byte := b.take (b.length - 4)

/-- The mode carries traffic (R41). -/
def carries (s : State) : Bool := modeIn s [.sync, .serve, .splice, .safe]

/-- The owner class of a frame on a front port, from its first bytes (R243). -/
def ownerClass (s : State) (p : Nat) (b : List Byte) : Nat :=
  let tpid := fieldBe b 12 2
  if tpid = 0x8100 ∨ tpid = 0x88A8 then
    bits (rd s (R.celPcpMapClass (macQ p) (macM p))) (2 * (fieldBe b 14 1 / 32)) 2
  else rd s (R.celPcpMapUntagged (macQ p) (macM p))

/-- FP_MASK of the safety scope section (R413). -/
def fpMask (s : State) : List Byte := slice (sec s 0xB 0) 0x30 64

/-- The fingerprint of R424. -/
def fingerprint (s : State) (p : Nat) (b : List Byte) : Nat :=
  crc32c 0xFFFF_FFFF (toLe 2 p ++ List.zipWith (fun x y => x &&& y) (slice b 0 64) (fpMask s))

/-- The counter in units of 2^-16 ns, modulo 2^48. -/
def time48 (s : State) : Nat := nowNs s * 2 ^ 16 + rd s R.timNowFrac / 2 ^ 16

/-- `t` moved by `ps` picoseconds, in units of 2^-16 ns, rounded down (DESIGN CHOICE, log 13). -/
def movePs (t : Nat) (ps : Int) : Nat := ibits 48 ((t : Int) + ps * 65536 / 1000)

/-- The receive record of a frame of a front port (R272, R274). -/
def rxRecord (s : State) (p align : Nat) : TsRec :=
  let sp := ((portDecl s p).map (·.speed)).getD 1
  let t := movePs (time48 s) (-(sbits 20 (rd s (R.macTsCorrRxPs (macQ p) (macM p) sp))) - (align % 2 ^ 20 : Nat))
  ⟨t / 2 ^ 16, t % 2 ^ 16, 0, align % 2 ^ 20, 0, false, true, p⟩

/-- The transmit record of a frame of a front port (R272, R274, R276). -/
def txRecord (s : State) (p align tag : Nat) (ptp : Bool) : TsRec :=
  let sp := ((portDecl s p).map (·.speed)).getD 1
  let asym : Int := if ptp then sbits 24 (rd s (R.macTsAsymAsymPs (macQ p) (macM p))) else 0
  let t := movePs (time48 s) (sbits 20 (rd s (R.macTsCorrTxPs (macQ p) (macM p) sp)) + (align % 2 ^ 20 : Nat) - asym)
  ⟨t / 2 ^ 16, t % 2 ^ 16, tag, align % 2 ^ 20, 1, ptp, true, p⟩

/-- A receive record with the asymmetry term of a PTP event frame (R272). -/
def asymRecord (s : State) (r : TsRec) : TsRec :=
  let p := r.port
  let t := movePs (r.ns * 2 ^ 16 + r.subns) (-(sbits 24 (rd s (R.macTsAsymAsymPs (macQ p) (macM p)))))
  { r with ns := t / 2 ^ 16, subns := t % 2 ^ 16, asym := true }

/-- The receive state of a port's MAC. -/
def rxOf (s : State) (p : Nat) : RxS := mgetD s.cel.rx p ⟨none, false, 0, false⟩

/-- Write it. -/
def setRx (s : State) (p : Nat) (r : RxS) : State := { s with cel := { s.cel with rx := mset s.cel.rx p r } }

/-- The data bytes a cell of a pool may carry. -/
def cellRoom (pool : Nat) (first : Bool) : Nat :=
  if pool = 0 then (if first then 192 else 256) else (if first then 960 else 1024)

/-- TS_IN: a corrected time rounded to the nearest ns (R265). -/
def nearestNs (t : TsRec) : Nat := (t.ns + t.subns / 2 ^ 15) % 2 ^ 32

/-- A frame's entry as its first cell is written. -/
def newFrame (s : State) (p q pool c o : Nat) (ts : TsRec) (fp len head : Nat) : FrameS :=
  { inPort := p, quad := q, pipe := 15, pool := pool, oclass := c, owner := o, tsIn := nearestNs ts, tsRec := ts, fp := fp,
    bus := nearestNs ts + rd s R.stgTakeStatCur * 2 ^ 32, ipid := 0, lastState := 0, len := len, last := head,
    ended := false, writer := true, phase := .arriving, abortUnsent := 0, abortStomp := 0, copies := [],
    heldPg := none, smp := none, sel := none }

/-- A new cell of a frame, with its CRC (R240). -/
def newCell (c o : Nat) (sof : Bool) (b : List Byte) : CellS :=
  ⟨0, 1, sof, false, crc32c 0xFFFF_FFFF b, b.length, false, c, o, 0, b⟩

/-- The stamp a frame takes: the current take; the older one while it drains for a frame that arrived before
the switch (R90, R91). -/
def takeStamp (s : State) (ts : Nat) : Nat :=
  if rdB s R.stgTakeStatOldLive && !atOrAfter ts (rd s R.stgTakeDoneDoneTime) then rd s R.stgTakeStatOld
  else rd s R.stgTakeStatCur

/-- Count a drop at the first cell with its cell counter. -/
def dropFirst (s : State) (q p reason : Nat) : State :=
  bump (countDrop s reason p) (R.celCntCount q (if reason = 0x0F then 3 else 4))

/-- Begin a frame: pool, admission, first cell (R243, R246). The answer is its head, or the drop's reason. -/
def beginFrame (s : State) (p q c o : Nat) (ts : TsRec) (fp : Nat) (b : List Byte) : Option Nat × State :=
  match choosePool s q c with
  | none => (none, dropFirst s q p 0x0F)
  | some pool =>
    if !grants s q pool o (cellUnits pool) then (none, dropFirst s q p 0x10)
    else
      let r := allocCell s pool q (newCell c o true b)
      let s := cellOut (if pool = 1 then bump r.2 (R.celCntCount q 2) else r.2) r.1 0 b.length
      let s := activateDue s (fun t => t)
      let f := newFrame s p q pool c o ts fp b.length r.1
      let f := { f with bus := f.tsIn + takeStamp s f.tsIn * 2 ^ 32 }
      (some r.1, { s with cel := { s.cel with frames := mset s.cel.frames r.1 f } })

/-- Abort with the drop's cell counter, if the cause is 0x0F or 0x10 (R243, R246, R261). -/
def refuseLater (s : State) (q head reason : Nat) : State :=
  abortFrame (bump s (R.celCntCount q (if reason = 0x0F then 3 else 4))) head reason reason

/-- The copies of a frame that wait in queues count a new cell (R254). -/
def growCopies (s : State) (f : FrameS) (u : Nat) : State :=
  f.copies.foldl (fun s cp =>
    match mget s.cel.copies cp with
    | some c =>
      if c.st = .queued then
        let s := updCopy s cp (fun c => { c with units := c.units + u })
        match queueNode s c.queue with
        | some k => updNode s k (fun n => { n with units := n.units + u })
        | none => s
      else s
    | none => s) s

/-- Append up to 256 bytes to a frame: packed into its last cell, or a new one (R240, R243, R246). -/
def addCell (s : State) (head : Nat) (b : List Byte) : State :=
  match mget s.cel.frames head with
  | some f =>
    match mget s.cel.cells f.last with
    | some c =>
      if f.pool = 1 ∧ c.len + b.length ≤ cellRoom 1 c.sof then
        let d := c.data ++ b
        let s := updCell s f.last (fun c => { c with data := d, len := d.length, crc := crc32c 0xFFFF_FFFF d })
        cellOut (updFrame s head (fun f => { f with len := f.len + b.length })) f.last c.len b.length
      else if freeCount s f.pool f.quad = 0 then refuseLater s f.quad head 0x0F
      else if !grants s f.quad f.pool f.owner (cellUnits f.pool) then refuseLater s f.quad head 0x10
      else
        let r := allocCell s f.pool f.quad (newCell f.oclass f.owner false b)
        let s := updCell r.2 f.last (fun c => { c with next := r.1 })
        let s := growCopies s f (cellUnits f.pool)
        cellOut (updFrame s head (fun f => { f with last := r.1, len := f.len + b.length })) r.1 0 b.length
    | none => s
  | none => s

/-- Cut bytes into MAC cells of 256, `fuel` at most. -/
def cutCells : Nat → List Byte → List (List Byte)
  | 0, _ => []
  | fuel + 1, b => if b = [] then [] else b.take 256 :: cutCells fuel (b.drop 256)

/-- The last byte of a frame has been written: EOF, and the writer's release (R247, R248). -/
def endFrame (s : State) (head : Nat) : State :=
  match mget s.cel.frames head with
  | some f =>
    let s := updCell s f.last (fun c => { c with eof := true })
    let s := updFrame s head (fun f => { f with ended := true })
    if f.phase = .arriving then updFrame s head (fun f => { f with writer := false }) else writerRelease s head
  | none => s

/-- A whole frame enters at port `p` of quadrant `q` (host, recirculation and injected frames); one above 9,216 bytes
is dropped with 0x03 (R42). -/
def wholeFrame (s : State) (p q o : Nat) (b : List Byte) : Option Nat × State :=
  let t := time48 s
  let ts : TsRec := ⟨t / 2 ^ 16, t % 2 ^ 16, 0, 0, 0, false, true, p⟩
  let s := if p < 552 then bumpBy (bump s (R.ctrPortCount p 0)) (R.ctrPortCount p 1) b.length else s
  let r := if 9216 < b.length then (none, countDrop s 0x03 p) else beginFrame s p q 0 o ts 0 (b.take 192)
  match r.1 with
  | some h =>
    let s := (cutCells b.length (b.drop 192)).foldl (fun s x =>
      if ((mget s.cel.frames h).map (fun f => f.abortUnsent == 0)).getD false then addCell s h x else s) r.2
    (if (mget s.cel.frames h).isSome then some h else none, endFrame s h)
  | none => (none, r.2)

/-- Abort a frame whose FCS, length or size fails at the MAC: as R261, and CEL_CNT[7] counts only the frames
R261 aborts (`counted`). -/
def macAbort (s : State) (head reason : Nat) (counted : Bool) : State :=
  match mget s.cel.frames head with
  | some f =>
    let n := rd s (R.celCntCount f.quad 7)
    let s := abortFrame s head reason reason
    if counted then s else wr s (R.celCntCount f.quad 7) n
  | none => s

/-- Cut-through scheduled copies that have grown past MAX_LEN are aborted with 0x12 (R287). -/
def recheckSched (s : State) (head : Nat) : State :=
  match mget s.cel.frames head with
  | some f =>
    f.copies.foldl (fun s cp =>
      match mget s.cel.copies cp with
      | some c =>
        match mget s.tim.rsv c.queue with
        | some r =>
          if c.sched && c.win.isSome && c.dropAs == 0 && decide (r.maxLen < f.len) then
            let s := bump s (R.shtCntCount (portQuad c.port) 3)
            updCopy s cp (fun c => { c with dropAs := 0x12 })
          else s
        | none => s
      | none => s) s
  | none => s

/-! ### The scheduler (R252, R256, R257, R285, R288) -/

/-- L of R285 for the head copy of a queue. -/
def guardLen (s : State) (c : CopyS) : Nat :=
  match mget s.tim.rsv c.queue with
  | some r => r.maxLen
  | none =>
    match mget s.cel.frames c.head with
    | some f => if f.ended then (if c.mirror then min f.len (max 64 (c.trunc + 4)) else f.len)
      else rd s (R.macFrameMaxMax (macQ c.port) (macM c.port))
    | none => 0

/-- The gate of a queue's class on its port is open. -/
def gateOpen (s : State) (p tc : Nat) : Bool :=
  decide (512 ≤ p) || bit (gatesNow s p) tc

/-- The guard of R285 lets a copy go. -/
def guardOk (s : State) (p tc : Nat) (c : CopyS) : Bool :=
  decide (512 ≤ p) ||
  match nextClose s p tc with
  | some t => fitsIn (((portDecl s p).map (·.speed)).getD 0) (guardLen s c) t
  | none => true

/-- The counter lies inside a reserved copy's egress window (R288). -/
def windowOpen (s : State) (c : CopyS) : Bool :=
  match c.win with
  | some (o, e) => atOrAfter (nowNs s) o && !atOrAfter (nowNs s) e
  | none => true

/-- The head copy of a queue node. -/
def headCopy (s : State) (n : NodeS) : Option (Nat × CopyS) :=
  n.frames.head?.bind (fun cp => (mget s.cel.copies cp).map (fun c => (cp, c)))

/-- Entries of a ring; 0 while it is disabled (R323), and so is a receive ring whose BUF_KIB is not 9–15 (R325). -/
def ringSize (s : State) (r : Nat) : Nat :=
  let k := rd s (R.hifRingCfgSizeLog2 r)
  let b := rd s (R.hifRingCfgBufKib r)
  if k = 0 ∨ (64 ≤ r ∧ r < 128 ∧ (b < 9 ∨ 15 < b)) then 0 else 2 ^ k

/-- Descriptors posted on a ring and not yet processed. -/
def ringPosted (s : State) (r : Nat) : Nat :=
  let n := ringSize s r
  (mgetD s.host.ringTail r 0 % n + n - rd s (R.hifRingCfgHead r) % n) % n

/-- The receive ring of a queue of host port `p` (R325). -/
def rxRing (s : State) (p qn : Nat) : Nat := 64 + 8 * (p - 544) + (qn - portQbase s p) % 8

/-- A queue of port `p` may send: on a host port its receive ring has a posted buffer (R325). -/
def ringReady (s : State) (p qn : Nat) : Bool :=
  decide (p < 544) || decide (0 < ringPosted s (rxRing s p qn))

/-- The queue nodes of port `p` whose head may be selected now. -/
def eligible (s : State) (p : Nat) : List Nat :=
  (portQueues s p).filterMap (fun q =>
    (queueNode s q).bind (fun k => (mget s.cel.nodes k).bind (fun n => (headCopy s n).bind (fun h =>
      if ringReady s p q && gateOpen s p (queueTc s q) && windowOpen s h.2 && guardOk s p (queueTc s q) h.2 then some k else none))))

/-- Heads that the guard holds are counted once each (R285). -/
def countHeld (s : State) (p : Nat) : State :=
  (portQueues s p).foldl (fun s q =>
    match ((queueNode s q).bind (fun k => mget s.cel.nodes k)).bind (headCopy s) with
    | some (cp, c) =>
      if gateOpen s p (queueTc s q) && windowOpen s c && !c.guarded && !guardOk s p (queueTc s q) c then
        bump (updCopy s cp (fun c => { c with guarded := true })) (R.shtCntCount (portQuad p) 6)
      else s
    | none => s) s

/-- A shaped node's tokens at a selection (R256). -/
def earn (now : Nat) (n : NodeS) : NodeS :=
  if n.shaped then
    let t := n.tokens + ((n.rateKbps * 125 * nsDiff now n.tupd / 10 ^ 9 : Nat) : Int)
    { n with tokens := min (n.burst : Int) t, tupd := now }
  else n

/-- The nodes of a port: its level-0 node and what lies below it. -/
def portNodes (s : State) (p : Nat) : List Nat :=
  match portNode s p with
  | some r => (s.cel.nodes.filter (fun e => (nodePath s 4 e.1).contains r)).map (·.1)
  | none => []

/-- Every shaped node of a port earns. -/
def earnAll (s : State) (p : Nat) : State :=
  (portNodes s p).foldl (fun s k => updNode s k (earn (nowNs s))) s

/-- A node is shaped out. -/
def shapedOut (n : NodeS) : Bool := n.shaped && decide (n.tokens ≤ 0)

/-- The children of `k` in C of R256, in rising entry: `el` are the queue nodes that may be selected. -/
def candidates (s : State) (el : List Nat) (k : Nat) : List (Nat × NodeS) :=
  match mget s.cel.nodes k with
  | some p =>
    s.cel.nodes.filter (fun e => nodePg e.1 == nodePg k && e.2.level == p.level + 1 && e.2.parent == nodeEntry k &&
      decide (0 < e.2.weight) && !shapedOut e.2 && el.any (fun x => (nodePath s 4 x).contains e.1))
  | none => []

/-- Top-ups a member needs before its deficit is above 0. -/
def topUps (n : NodeS) : Nat := if 0 < n.deficit then 0 else n.deficit.natAbs / (64 * n.weight) + 1

/-- The members of D in turn order: from the turn-holder on, or from the next one behind the node that held
the turn. -/
def turnOrder (s : State) (d : List (Nat × NodeS)) : List (Nat × NodeS) :=
  match d.head? with
  | none => []
  | some e =>
    let sib := s.cel.nodes.find? (fun x => nodePg x.1 == nodePg e.1 && x.2.level == e.2.level &&
      x.2.parent == e.2.parent && x.2.prio == e.2.prio && x.2.turn)
    match sib with
    | some (k, _) => d.filter (fun x => decide (k ≤ x.1)) ++ d.filter (fun x => decide (x.1 < k))
    | none => d

/-- The place in turn order of the member that takes the turn: the first with the fewest top-ups. -/
def winner : List (Nat × NodeS) → Nat → Nat × Nat → Nat × Nat
  | [], _, best => best
  | e :: es, i, best => winner es (i + 1) (if topUps e.2 < best.2 then (i, topUps e.2) else best)

/-- Pass the turn among D (R256): the turn-holder, and the state with the deficits it took. -/
def takeTurn (s : State) (d : List (Nat × NodeS)) : Option Nat × State :=
  match turnOrder s d with
  | [] => (none, s)
  | e :: es =>
    let o := e :: es
    let w := winner es 1 (0, topUps e.2)
    let s := o.foldl (fun s x =>
      let i := o.findIdx (fun y => y.1 == x.1)
      let k := if i < w.1 then w.2 + 1 else w.2
      updNode s x.1 (fun n => { n with deficit := n.deficit + (k * n.weight * 64 : Nat), turn := i == w.1 })) s
    let h := (o[w.1]?).map (·.1)
    let sibs := (s.cel.nodes.filter (fun x => nodePg x.1 == nodePg e.1 && x.2.level == e.2.level &&
      x.2.parent == e.2.parent && x.2.prio == e.2.prio && some x.1 != h && x.2.turn)).map (·.1)
    (h, sibs.foldl (fun s k => updNode s k (fun n => { n with turn := false })) s)

/-- Descend from a node to a queue node (R256). -/
def descend (el : List Nat) : Nat → State → Nat → Option Nat × State
  | 0, s, _ => (none, s)
  | fuel + 1, s, k =>
    match mget s.cel.nodes k with
    | none => (none, s)
    | some n =>
      if n.level = 3 then (some k, s)
      else
        let c := candidates s el k
        match c with
        | [] => (none, s)
        | e :: es =>
          let p := es.foldl (fun m x => min m x.2.prio) e.2.prio
          let r := takeTurn s (c.filter (fun x => x.2.prio == p))
          match r.1 with
          | some h => descend el fuel r.2 h
          | none => (none, r.2)

/-- The sojourn check of R257. -/
def expired (s : State) (n : NodeS) (c : CopyS) : Bool :=
  let ts := ((mget s.cel.frames c.head).map (·.tsIn)).getD 0
  n.f14 % 2 ^ 27 != 0 && decide (n.f14 % 2 ^ 27 * 1000 < nsDiff (nowNs s) ts)

/-- Drop the head of a queue with 0x11 (R257), unless it was aborted before (R40). -/
def dropExpired (s : State) (cp : Nat) (c : CopyS) : State :=
  if abortCode s c ≠ 0 then dropQueued s cp 0x11
  else bump (dropQueued s cp 0x11) (R.queCntCount (portQuad c.port) 3)

/-- Select a frame of port `p` (R256, R257), dropping heads that the checks refuse; `hurt` disturbs the bytes of the
first header read, which its HCRC shows (R241). -/
def selectHead (p : Nat) : Nat → List Byte → State → Option Nat × State
  | 0, _, s => (none, s)
  | fuel + 1, hurt, s =>
    let s := countHeld s p
    match portNode s p with
    | none => (none, s)
    | some r =>
      if ((mget s.cel.nodes r).map shapedOut).getD true then (none, s)
      else
        let d := descend (eligible s p) 4 s r
        let s := d.2
        match d.1.bind (fun k => (mget s.cel.nodes k).bind (fun n => (headCopy s n).map (fun h => (n, h)))) with
        | none => (none, s)
        | some (n, cp, c) =>
          if headerLost s cp then selectHead p fuel hurt (dropQueued s cp 0x14)
          else if !hcrcGood s cp hurt then
            selectHead p fuel [] (bump (dropQueued s cp 0x13) (R.celCntCount (portQuad c.port) 10))
          else if abortCode s c ≠ 0 then selectHead p fuel [] (dropQueued s cp (abortCode s c))
          else if expired s n c then selectHead p fuel [] (dropExpired s cp c)
          else (some cp, s)

/-- Charge a sent copy to every node on its path (R256). -/
def chargePath (s : State) (qn len : Nat) : State :=
  match queueNode s qn with
  | some k =>
    (nodePath s 4 k).foldl (fun s a =>
      updNode s a (fun n => { n with deficit := n.deficit - ((len + 20 : Nat) : Int), tokens := n.tokens - ((len + 20 : Nat) : Int) })) s
  | none => s

/-! ### Queue trees (R250, R253) -/

/-- The header of a queue tree section. -/
def treeHdrOf (b : List Byte) : TreeHdr :=
  ⟨fieldLe b 2 3, fieldLe b 8 3 % 2 ^ 21, fieldLe b 0x0C 3 % 2 ^ 22, fieldLe b 0x10 2 % 1024, fieldLe b 0x12 2 % 1024⟩

/-- The node of entry `i` of a section, its state empty. -/
def nodeOf (b : List Byte) (now i : Nat) : NodeS :=
  let o := 0x20 + 32 * i
  let w := fieldLe b o 1
  { level := bits w 0 2, tc := bits w 2 4, shaped := bit w 6, prio := fieldLe b (o + 1) 1 % 8,
    weight := fieldLe b (o + 2) 2, parent := fieldLe b (o + 4) 3, rateKbps := fieldLe b (o + 8) 4,
    burst := fieldLe b (o + 0x0C) 4, f10 := fieldLe b (o + 0x10) 4 % 2 ^ 27, f14 := fieldLe b (o + 0x14) 4 % 2 ^ 27,
    f18 := fieldLe b (o + 0x18) 4 % 2 ^ 27, units := 0, deficit := 0, tokens := 0, tupd := now, turn := false,
    frames := [] }

/-- All nodes of a section. -/
def nodesOf (b : List Byte) (now : Nat) : List NodeS := (List.range (treeHdrOf b).nodeCount).map (nodeOf b now)

/-- Two nodes have the same configuration. -/
def sameConf (a b : NodeS) : Bool :=
  a.level == b.level && a.tc == b.tc && a.shaped == b.shaped && a.prio == b.prio && a.weight == b.weight &&
  a.parent == b.parent && a.rateKbps == b.rateKbps && a.burst == b.burst && a.f10 == b.f10 && a.f14 == b.f14 &&
  a.f18 == b.f18

/-- Put a tree into a bank. -/
def putTree (s : State) (bank : Nat) (h : TreeHdr) (l : List NodeS) : State :=
  let m := (List.range l.length).foldl (fun m i =>
    match l[i]? with
    | some n => mset m (nodeKey bank i) n
    | none => m) s.cel.nodes
  { s with cel := { s.cel with nodes := m, treeHdr := mset s.cel.treeHdr bank h } }

/-- The level-0 ancestor's port of entry `i` of a list of nodes. -/
def listPort (l : List NodeS) : Nat → Nat → Option Nat
  | 0, _ => none
  | fuel + 1, i =>
    match l[i]? with
    | some n => if n.level = 0 then some (n.f10 % 1024) else listPort l fuel n.parent
    | none => none

/-- What a new node keeps of the old bank (R253): queued frames by queue number; DEFICIT and TOKENS where its
configuration is unchanged. -/
def carryNode (s : State) (x : ShadowS) (i : Nat) (n : NodeS) : NodeS :=
  let qn := x.hdr.qbase + (i - (x.hdr.nodeCount - x.hdr.qcount))
  let old := if n.level = 3 then (queueNode s qn).bind (mget s.cel.nodes) else mget s.cel.nodes (nodeKey x.old i)
  match old with
  | some o =>
    let n := if n.level = 3 then { n with frames := o.frames, units := o.units } else n
    if sameConf o n then { n with deficit := o.deficit, tokens := o.tokens, tupd := o.tupd, turn := o.turn } else n
  | none => n

/-- Port `p` moves to the new tree of its group. A queue that the new tree gives to a port yet to switch stays in the
old bank, with its frames, until that port takes it (R253). -/
def switchPort (s : State) (x : ShadowS) (p : Nat) : State :=
  let new := (List.range x.nodes.length).filterMap (fun i =>
    (x.nodes[i]?).bind (fun n => if listPort x.nodes 4 i = some p then
      some (nodeKey x.bank i, carryNode s x i { n with tupd := nowNs s }) else none))
  let oldHdr := (mget s.cel.treeHdr x.old).getD x.hdr
  let left := mgetD s.cel.toSwitch (x.bank % 64) []
  let moved := new.filterMap (fun e => if e.2.level = 3 then some (queueKey x.old oldHdr (x.hdr.qbase +
    (nodeEntry e.1 - (x.hdr.nodeCount - x.hdr.qcount)))) else none)
  let waits := fun k => ((mget s.cel.nodes k).map (fun n => n.level == 3)).getD false &&
    ((listPort x.nodes 4 (nodeEntry (queueKey x.bank x.hdr (nodeQueue s k)))).map (fun r => r != p && left.contains r)).getD false
  let gone := (portNodes s p).filter (fun k => !waits k) ++ moved
  let m := s.cel.nodes.filter (fun e => !gone.contains e.1)
  { s with cel := { s.cel with nodes := new.foldl (fun m e => mset m e.1 e.2) m } }

/-! ### Rewrites (R184, R276, R277) -/

/-- One's complement sum of two 16-bit words. -/
def ones (a b : Nat) : Nat := let x := a + b; x % 65536 + x / 65536

/-- Replace words of a packet in an internet checksum, old ones out and new ones in. -/
def ckMove (ck : Nat) (old new : List Nat) : Nat :=
  let a := old.foldl (fun c m => ones c (65535 - m)) (65535 - ck)
  65535 - new.foldl ones a

/-- The 16-bit words of a value of `n` words. -/
def wordsOf : Nat → Nat → List Nat
  | 0, _ => []
  | n + 1, v => v / 2 ^ (16 * n) % 65536 :: wordsOf n v

/-- Adjust a checksum at `o` for a field of `n` words; a UDP checksum of 0 stays 0 (`keep0`). -/
def ckAdjust (b : List Byte) (o n old new : Nat) (keep0 : Bool) : List Byte :=
  let ck := fieldBe b o 2
  if keep0 && ck == 0 then b
  else
    let c := ckMove ck (wordsOf n old) (wordsOf n new)
    putBytes b o (toBe 2 (if keep0 && c == 0 then 65535 else c))

/-- Rewrite a field of `n` words at `o`, with the IPv4 header checksum at `hck` and the L4 checksum at `lck`
kept right. -/
def rewriteAt (b : List Byte) (o n v : Nat) (hck lck : Option Nat) (udp4 : Bool) : List Byte :=
  let old := fieldBe b o (2 * n)
  let b := putBytes b o (toBe (2 * n) v)
  let b := match hck with
    | some h => ckAdjust b h n old v false
    | none => b
  match lck with
  | some l => ckAdjust b l n old v udp4
  | none => b

/-- The rewrites of a flow result (R157, R184) on a frame's bytes, with checksums as the default image's egress
programs keep them: `res` is the result, the offsets come from the frame's metadata. -/
def natRewrite (s : State) (bus res : Nat) (b : List Byte) : List Byte :=
  let rw := bits res 96 4
  if rw = 0 then b
  else
    let inner := flowInner s && busTunnel bus
    let l3 := 2 * (if inner then bits bus 160 8 else bits bus 128 8)
    let l4 := 2 * (if inner then bits bus 168 8 else bits bus 136 8)
    let v6 := l3Type s bus == 2
    let proto := busProto bus
    let hasL4 := bit bus (if inner then 181 else 177)
    let hck := if v6 then none else some (l3 + 10)
    let lck := if !hasL4 then none else if proto = 6 then some (l4 + 16) else if proto = 17 then some (l4 + 6) else none
    let udp4 := !v6 && proto == 17
    let addr := fun v => if v6 then mgetD s.flo.rewrite (v % 2 ^ 20) 0 else v
    let n := if v6 then 8 else 2
    let src := if v6 then l3 + 8 else l3 + 12
    let dst := if v6 then l3 + 24 else l3 + 16
    let b := if bit rw 0 then rewriteAt b src n (addr (bits res 0 32)) hck lck udp4 else b
    let b := if bit rw 1 then rewriteAt b dst n (addr (bits res 32 32)) hck lck udp4 else b
    let b := if bit rw 2 && hasL4 then rewriteAt b l4 1 (bits res 64 16) none lck udp4 else b
    if bit rw 3 && hasL4 then rewriteAt b (l4 + 2) 1 (bits res 80 16) none lck udp4 else b

/-- The EGR field of a copy's header: 128 bits of the bus at EGR_POS (R241). -/
def egrField (s : State) (c : CopyS) : Nat := bits c.bus (egrPos s) 128

/-- What the egress section writes: the bytes its image program gives (`out`), else the flow result's rewrites
where EGR carries it. -/
def egressBody (s : State) (c : CopyS) (out : Option (List Byte)) (b : List Byte) : List Byte :=
  match out with
  | some x => x
  | none => if egrPos s = resPos s ∧ resPos s ≠ 0 then natRewrite s c.bus (egrField s c) b else b

/-- R277: the correctionField and the UDP checksum of a frame, from its directive; T_tx − T_rx is a signed difference on
the 32-bit counter. -/
def correct (s : State) (c : CopyS) (dir tx rx : Nat) (b : List Byte) : List Byte :=
  if bit dir 1 then
    let off := bits dir 8 9
    let old := fieldBe b off 8
    let d := sbits 48 ((tx + 2 ^ 48 - rx % 2 ^ 48) % 2 ^ 48)
    let new := ibits 64 ((old : Int) + d)
    let b := putBytes b off (toBe 8 new)
    if bit dir 2 then ckAdjust b (bits dir 16 9) 4 old new (l3Type s c.bus == 1) else b
  else b

/-- The mirror form of a frame: at most TRUNC bytes as received, padded, with a new FCS (R259). -/
def mirrorForm (trunc : Nat) (b : List Byte) : List Byte := let x := b.take trunc; x ++ List.replicate (60 - x.length) 0

/-- A transmit record enters a port's FIFO of 16, or is discarded (R276). -/
def captureTx (s : State) (p : Nat) (t : TsRec) : State :=
  let l := mgetD s.tim.txFifo p []
  if 16 ≤ l.length then bump s (R.macTsCntCount (macQ p) (macM p) 1)
  else { s with tim := { s.tim with txFifo := mset s.tim.txFifo p (l ++ [t]) } }

/-- The egress MAC measures a marked packet's latency (R197). -/
def measure (s : State) (f : FrameS) (tx : Nat) : State :=
  match f.smp with
  | some i => { s with flo := { s.flo with samples := mmod s.flo.samples i (fun x =>
      if x.lat.isSome then x else { x with lat := some (nsDiff tx f.tsIn) }) } }
  | none => s

/-- A copy leaves the device complete: counters, charges, sampler, release. -/
def sentCopy (s : State) (cp : Nat) (c : CopyS) (len : Nat) : State :=
  let s := bump s (R.queCntCount (portQuad c.port) 4)
  let s := bumpBy (bump s (R.ctrPortCount c.port 2)) (R.ctrPortCount c.port 3) len
  let s := chargePath s c.queue len
  releaseCopy (sampleEnd s c.head (some c) 0) cp

/-- A copy whose egress has begun is stomped under a code (R39, R261). -/
def stompCopy (s : State) (p cp : Nat) (c : CopyS) (code : Nat) (b : List Byte) : State :=
  let s := emit (bump s (R.celCntCount (portQuad p) 8)) (.frame p b true)
  dropCopy (chargePath s c.queue b.length) cp code

/-- The port sends nothing now. -/
def txDone (s : State) (p : Nat) : State := { s with cel := { s.cel with tx := mdel s.cel.tx p } }

end Sys2Proof.Machine
end

