-- ==== Sys2Proof/Machine/SvcOps.lean ====
section
/-!
DEFINITION. Shared operations of the flow services (chapter 7): services, backends and rings, pools and
subscribers, admission, export records, and the removal of a record with its alias.
-/

namespace Sys2Proof.Machine

open Sys2Proof

/-! ### Stores in HBM (R176, R186, R187) -/

/-- A little-endian value of `n` bytes at an address of a stack. -/
def svcVal (s : State) (st a n : Nat) : Nat := leNat (hbmPeek s st a n)

/-- The ranges a setup reads, in turn, by the share for other uses (R176): `false`, and no further read, once a
response is poisoned (R305). A range: stack, address, bytes. -/
def storeReads (s : State) : List (Nat × Nat × Nat) → Bool × State
  | [] => (true, s)
  | (st, a, n) :: l =>
    let r := hbmRead s otherPort st a n []
    if r.bad then (false, r.st) else storeReads r.st l

/-- Firmware rewrites a granule from its own copy, and the device journals the rewrite (R305). -/
def rewriteGranule (s : State) (st g : Nat) : State :=
  if marked s st g then
    memJournal (hbmWrite s otherPort st (64 * g) (hbmPeek s st (64 * g) 64) []) st (physPc s st (64 * g)) 1 0 (64 * g) 0
  else s

/-- Firmware reads a range of its stores; a poisoned granule is rewritten. -/
def fwRead (s : State) (st a n : Nat) : State :=
  let r := hbmRead s otherPort st a n []
  if r.bad then (upFrom (a / 64) (cdiv (a % 64 + n) 64)).foldl (fun s g => rewriteGranule s st g) r.st else r.st

/-- Write one by the share for other uses. -/
def svcPut (s : State) (st a n v : Nat) : State := hbmWrite s otherPort st a (toLe n v) []

/-- Home and address of a service entry, of backend-table entry `i`, and of ring slot `x` of a service. -/
def svcHome (sv : Nat) : Nat := sv % 4
def svcAddr (s : State) (sv : Nat) : Nat := hbmBase s (svcHome sv) 2 + 32 * sv
def bkAddr (s : State) (sv i : Nat) : Nat := hbmBase s (svcHome sv) 2 + 2 * 2 ^ 20 + 32 * i
def ringBase (s : State) (sv : Nat) : Nat := hbmBase s (svcHome sv) 1 + 131072 * (sv / 4)

/-- A service entry (R177) and its fields. -/
def svcEnt (s : State) (sv : Nat) : Nat := svcVal s (svcHome sv) (svcAddr s sv) 32
def svcDefined (e : Nat) : Bool := bit e 0
def svcPolicy (e : Nat) : Nat := bits e 1 2
def svcHpEn (e : Nat) : Bool := bit e 3
def svcHpPool (e : Nat) : Nat := bits e 4 12
def svcMax (e : Nat) : Nat := bits e 16 13
def svcSeed (e : Nat) : Nat := bits e 32 32
def svcBase (e : Nat) : Nat := bits e 64 20

/-- Backend `i` of a service (R178) and its fields. -/
def bkEnt (s : State) (sv i : Nat) : Nat := svcVal s (svcHome sv) (bkAddr s sv (svcBase (svcEnt s sv) + i)) 32
def putBk (s : State) (sv i v : Nat) : State := svcPut s (svcHome sv) (bkAddr s sv (svcBase (svcEnt s sv) + i)) 32 v
def bkAddress (b : Nat) : Nat := bits b 0 128
def bkPort (b : Nat) : Nat := bits b 128 16
def bkState (b : Nat) : Nat := bits b 144 2
def bkV6 (b : Nat) : Bool := bit b 146
def bkZone (b : Nat) : Nat := bits b 152 8
def bkWeight (b : Nat) : Nat := bits b 160 16
def bkRw (b : Nat) : Nat := bits b 192 20
def bkBound (b : Nat) : Nat := bits b 224 32

/-! ### Rings (R179, R180) -/

/-- The 16 bits of ring slot `x`. -/
def ringSlot (s : State) (sv x : Nat) : Nat := svcVal s (svcHome sv) (ringBase s sv + 2 * x) 2

/-- A backend of a ring being built: index, quota, offset, skip, probes made, slots taken. -/
structure RingB where
  idx : Nat
  quota : Nat
  off : Nat
  skip : Nat
  n : Nat
  taken : Nat

/-- The active backends of a service with weight, in rising index, and their weights. -/
def ringActive (s : State) (sv : Nat) : List (Nat × Nat) :=
  (List.range (svcMax (svcEnt s sv))).filterMap (fun i =>
    let b := bkEnt s sv i
    if bkState b = 1 ∧ 0 < bkWeight b then some (i, bkWeight b) else none)

/-- Ranks of the remainders: how many backends have a larger one, or an equal one at a lower index. -/
def remRank (l : List (Nat × Nat)) (w : Nat) (e : Nat × Nat) : Nat :=
  let r := fun (x : Nat × Nat) => 65536 * x.2 % w
  (l.filter (fun x => decide (r e < r x) || (r x == r e && decide (x.1 < e.1)))).length

/-- The quotas of R180. -/
def quotas (l : List (Nat × Nat)) : List (Nat × Nat) :=
  let w := (l.map (·.2)).sum
  let q := l.map (fun e => (e.1, 65536 * e.2 / w))
  let left := 65536 - (q.map (·.2)).sum
  l.map (fun e => (e.1, 65536 * e.2 / w + (if remRank l w e < left then 1 else 0)))

/-- ADDR ‖ PORT of a backend, as the ring hash reads it. -/
def bkKey (b : Nat) : List Byte := toLe 16 (bkAddress b) ++ toLe 2 (bkPort b)

/-- The first empty slot of a backend's sequence from probe `n` on. -/
def ringProbe (m : NMap Nat) (off skip : Nat) : Nat → Nat → Nat × Nat
  | 0, n => (0, n)
  | fuel + 1, n =>
    let x := (off + n * skip) % 65536
    if (mget m x).isNone then (x, n + 1) else ringProbe m off skip fuel (n + 1)

/-- One turn of one backend. -/
def ringTake (acc : NMap Nat × List RingB) (b : RingB) : NMap Nat × List RingB :=
  if b.taken < b.quota then
    let r := ringProbe acc.1 b.off b.skip 65536 b.n
    (mset acc.1 r.1 b.idx, acc.2 ++ [{ b with n := r.2, taken := b.taken + 1 }])
  else (acc.1, acc.2 ++ [b])

/-- Rounds over the backends until every slot is filled. -/
def ringRounds : Nat → NMap Nat × List RingB → NMap Nat
  | 0, acc => acc.1
  | fuel + 1, acc =>
    if acc.2.all (fun b => decide (b.quota ≤ b.taken)) then acc.1
    else ringRounds fuel (acc.2.foldl ringTake (acc.1, []))

/-- The new ring of a service: its slots with their backends; none where no backend can be chosen (R180). -/
def newRing (s : State) (sv : Nat) : NMap Nat :=
  let e := svcEnt s sv
  let bs := (quotas (ringActive s sv)).map (fun p =>
    let b := bkEnt s sv p.1
    (⟨p.1, p.2, crc32c (svcSeed e) (bkKey b) % 65536,
      setBit (crc32c (svcSeed e ^^^ 0xFFFF_FFFF) (bkKey b) % 65536) 0, 0, 0⟩ : RingB))
  ringRounds 65537 ([], bs)

/-- The slots of a ring that hold anything but zeros. -/
def ringListed (s : State) (sv : Nat) : List Nat :=
  let a := hkey (svcHome sv) (ringBase s sv)
  ((s.hbm.mem.filter (fun e => decide (a ≤ e.1) && decide (e.1 < a + 131072))).map (fun e => (e.1 - a) / 2)).eraseDups

/-- What firmware reads to rebuild a ring: the entry, its backends and the ring as it stands. -/
def ringReads (s : State) (sv : Nat) : State :=
  let h := svcHome sv
  let e := svcEnt s sv
  let s := fwRead s h (svcAddr s sv) 32
  let s := if svcMax e = 0 then s else fwRead s h (bkAddr s sv (svcBase e)) (32 * svcMax e)
  fwRead s h (ringBase s sv) 131072

/-- Firmware rebuilds a ring and writes the slots that differ; ACTIVE follows (R177, R180). -/
def buildRing (s : State) (sv : Nat) : State :=
  let s := ringReads s sv
  let new := newRing s sv
  let want := fun x => match mget new x with
    | some b => b + 2 ^ 15
    | none => 0
  let xs := (new.map (·.1) ++ (ringListed s sv).filter (fun x => (mget new x).isNone))
  let s := xs.foldl (fun s x =>
    if ringSlot s sv x = want x then s else svcPut s (svcHome sv) (ringBase s sv + 2 * x) 2 (want x)) s
  let e := svcEnt s sv
  svcPut s (svcHome sv) (svcAddr s sv) 32 (putBits e 96 13 (ringActive s sv).length)

/-- The probe of a balanced setup (R181): the slot taken and the slots passed. -/
def chooseSlot (s : State) (sv x : Nat) : Nat → Nat → Option Nat × Nat
  | 0, past => (none, past)
  | fuel + 1, past =>
    let y := (x + past) % 65536
    let v := ringSlot s sv y
    if bit v 15 && bkState (bkEnt s sv (v % 4096)) == 1 then (some y, past) else chooseSlot s sv x fuel (past + 1)

/-! ### The rewrite array and pools (R184, R185) -/

/-- Fields of a pool entry (R185). -/
def poolFirst (p : Nat) : Nat := bits p 32 20
def poolCount (p : Nat) : Nat := bits p 64 21
def poolPaired (p : Nat) : Bool := bit p 2
def poolCoded (p : Nat) : Bool := bit p 3
def poolLow (p : Nat) : Bool := bit p 4
def poolMax (p : Nat) : Nat := bits p 8 4
def poolSize (p : Nat) : Nat := bits p 16 13
def poolVrf (p : Nat) : Nat := bits p 96 14
def poolZone (p : Nat) : Nat := bits p 112 8
def poolHold (p : Nat) : Nat := bits p 128 16

/-- A pool's entry; an absent pool is all zeros. -/
def poolEnt (s : State) (p : Nat) : Nat := mgetD s.flo.pools p 0

/-- The lowest run of `n` free rewrite-array entries. -/
def rwRun (s : State) (n : Nat) : Option Nat :=
  let used := s.flo.rewrite.map (·.1)
  (0 :: used.map (· + 1)).find? (fun a => decide (a + n ≤ 2 ^ 20) &&
    used.all (fun u => decide (u < a) || decide (a + n ≤ u)))

/-- Write a rewrite-array entry. -/
def putRw (s : State) (i v : Nat) : State := { s with flo := { s.flo with rewrite := mset s.flo.rewrite i v } }

/-- The address entry of public address `i` (R186). -/
def addrEnt (s : State) (i : Nat) : Nat := svcVal s (i % 4) (hbmBase s (i % 4) 3 + 256 * (i / 4)) 256
def putAddr (s : State) (i v : Nat) : State := svcPut s (i % 4) (hbmBase s (i % 4) 3 + 256 * (i / 4)) 256 v

/-- The pool that owns the public address a record translates to, if any. -/
def poolOfAddr (s : State) (v6 : Bool) (a : Nat) : Option Nat :=
  (s.flo.pools.find? (fun e => bit e.2 0 && bit e.2 1 == v6 &&
    (if v6 then decide (poolFirst e.2 ≤ a) && decide (a < poolFirst e.2 + poolCount e.2)
     else s.flo.rewrite.any (fun r => decide (poolFirst e.2 ≤ r.1) && decide (r.1 < poolFirst e.2 + poolCount e.2) &&
       r.2 == a)))).map (·.1)

/-! ### Subscribers (R187–R190) -/

/-- A subscriber: VRF, family, inside address. -/
structure SubId where
  vrf : Nat
  v6 : Bool
  addr : Nat

/-- h of R187. -/
def subHash (u : SubId) : Nat := crc32c 0xFFFF_FFFF (toLe 2 u.vrf ++ toLe 16 u.addr)

/-- Subscriber home, and the address of record `w` of its set. -/
def subHome (u : SubId) : Nat := subHash u % 4
def subAddr (s : State) (q i : Nat) : Nat := hbmBase s q 3 + 64 * 2 ^ 20 + 256 * i
def subSlots (u : SubId) : List Nat := upFrom (subHash u / 2 ^ 17 * 8) 8

/-- A subscriber record, and its fields. -/
def subRec (s : State) (q i : Nat) : Nat := svcVal s q (subAddr s q i) 256
def putSub (s : State) (q i v : Nat) : State := svcPut s q (subAddr s q i) 256 v
def subBlocks (r : Nat) : Nat := bits r 160 4
def subPool (r : Nat) : Nat := bits r 144 12
def subBlk (j : Nat) : Nat := 256 + 128 * j

/-- The record of a subscriber, or a free one of its set. -/
def subFind (s : State) (u : SubId) : Option Nat :=
  (subSlots u).find? (fun i =>
    let r := subRec s (subHome u) i
    bit r 142 && bits r 0 128 == u.addr && bits r 128 14 == u.vrf && bit r 143 == u.v6)
def subFree (s : State) (u : SubId) : Option Nat :=
  (subSlots u).find? (fun i => !bit (subRec s (subHome u) i) 142)

/-- Address of a port-bitmap slot, and its bits. -/
def mapAddr (s : State) (q m : Nat) : Nat := hbmBase s q 3 + 128 * 2 ^ 20 + 512 * m
def mapBits (s : State) (q m : Nat) : Nat := svcVal s q (mapAddr s q m) 512
def putMap (s : State) (q m v : Nat) : State := svcPut s q (mapAddr s q m) 512 v

/-- The device's identity in its cluster. -/
def deviceId (s : State) : Nat := rd s R.cluStatDeviceId

/-- First port of block `k` of a pool. -/
def blockPort (s : State) (p k : Nat) : Nat := (if poolCoded p then deviceId s * 1024 else 0) + k * poolSize p

/-- Blocks an address of a pool has, and those that may be allocated (R186). -/
def blockCount (p : Nat) : Nat := (if poolCoded p then 1024 else 65536) / poolSize p
def blockOk (s : State) (p k : Nat) : Bool := poolLow p || decide (1024 ≤ blockPort s p k)

/-- The offset an allocation takes behind CURSOR, wrapping; port 0 is never allocated. -/
def nextOffset (s : State) (p k bm cur : Nat) : Option Nat :=
  ((List.range (poolSize p)).map (fun i => (cur + 1 + i) % poolSize p)).find? (fun o =>
    !bit bm o && blockPort s p k + o != 0)

/-- The event of R193. -/
def svcEvent (s : State) (q typ cause pool : Nat) (u : SubId) (first idx : Nat) : State :=
  postEvent s 3 q false
    (toLe 1 (typ + 16 * cause) ++ toLe 1 (deviceId s % 64) ++ toLe 2 pool ++ toLe 4 (nowNs s) ++ toLe 16 u.addr ++
     toLe 2 u.vrf ++ toLe 2 first ++ toLe 4 idx) (some (R.fltSvcCntCount q 15))

/-- An exhaustion: counted, and posted at most once per pool per 100 ms (R193). -/
def exhausted (s : State) (u : SubId) (pool cause : Nat) : State :=
  let q := subHome u
  let s := bump s (R.fltSvcCntCount q 7)
  let due := match mget s.flo.exhaustedAt pool with
    | some t => decide (t + 10 ^ 8 ≤ uptime s)
    | none => true
  if due then
    svcEvent { s with flo := { s.flo with exhaustedAt := mset s.flo.exhaustedAt pool (uptime s) } } q 2 cause pool u 0 0
  else s

/-- The answer of an allocation: address index and port. -/
structure PortAns where
  got : Option (Nat × Nat)
  st : State

/-- A free port of a block the subscriber holds (R189). -/
def heldPort (s : State) (p q r : Nat) : Option (Nat × Nat) :=
  (List.range (subBlocks r)).findSome? (fun j =>
    (nextOffset s p (bits r (subBlk j + 20) 10) (mapBits s q (bits r (subBlk j + 32) 20)) (bits r (subBlk j + 52) 12)).map
      (fun o => (j, o)))

/-- Take offset `o` of block `j`. -/
def takePort (s : State) (u : SubId) (p i r j o task : Nat) : PortAns :=
  let q := subHome u
  let b := subBlk j
  let m := bits r (b + 32) 20
  let s := putMap s q m (setBit (mapBits s q m) o)
  let r := putBits (putBits (clrBit r (b + 77)) (b + 52) 12 o) (b + 64) 13 (bits r (b + 64) 13 + 1)
  let s := bump (putSub s q i r) (R.fltSvcCntCount q 3)
  let port := blockPort s p (bits r (b + 20) 10) + o
  let t : TentS := ⟨q, i, bits r b 20, port, uptime s, task⟩
  ⟨some (bits r b 20, port), { s with flo := { s.flo with tentative := s.flo.tentative ++ [t] } }⟩

/-- The addresses an allocation tries for a new block (R189). -/
def candidateAddrs (p r h : Nat) : List Nat :=
  let n := poolCount p
  let i0 := h % n
  if 0 < subBlocks r ∧ poolPaired p then [bits r (subBlk 0) 20]
  else if poolPaired p then [poolFirst p + i0]
  else (List.range (min 16 n)).map (fun i => poolFirst p + (i0 + i) % n)

/-- The lowest allocatable clear block of an address. -/
def freeBlock (s : State) (p a : Nat) : Option Nat :=
  let e := addrEnt s a
  (List.range (blockCount p)).find? (fun k => !bit e (256 + k) && blockOk s p k)

/-- The lowest free port-bitmap slot of a quadrant (DESIGN CHOICE, log 15). -/
def freeMap (s : State) (q : Nat) : Nat :=
  let used := s.flo.maps
  ((0 :: used.map (fun m => m % 2 ^ 20 + 1)).filter (fun i => !used.contains (q * 2 ^ 20 + i))).foldl min (2 ^ 20)

/-- Add block `k` of address `a` to a subscriber (R189); a new record is written with it. -/
def addBlock (s : State) (u : SubId) (pool p i r a k : Nat) : State :=
  let q := subHome u
  let e := addrEnt s a
  let s := putAddr s a (putBits (setBit e (256 + k)) 144 11 (bits e 144 11 + 1))
  let m := freeMap s q
  let s := putMap { s with flo := { s.flo with maps := s.flo.maps ++ [q * 2 ^ 20 + m] } } q m 0
  let j := subBlocks r
  let blk := a + k * 2 ^ 20 + m * 2 ^ 32 + (poolSize p - 1) * 2 ^ 52
  let r := putBits (putBits r (subBlk j) 128 blk) 160 4 (j + 1)
  let r := putBits (putBits (putBits (putBits (setBit r 142) 0 128 u.addr) 128 14 u.vrf) 143 1 (b2n u.v6)) 144 12 pool
  let s := bump (putSub s q i r) (R.fltSvcCntCount q 5)
  svcEvent s q 0 0 pool u (blockPort s p k) a

/-- Allocate a port of a pool for a subscriber whose record, or free place, is `i` (R189). -/
def allocIn (s : State) (u : SubId) (pool p i task : Nat) : Nat → PortAns
  | 0 => ⟨none, exhausted s u pool 1⟩
  | fuel + 1 =>
    let q := subHome u
    let r := subRec s q i
    match heldPort s p q r with
    | some (j, o) => takePort s u p i r j o task
    | none =>
      if poolSize p = 0 ∨ poolMax p = 0 then ⟨none, exhausted s u pool 5⟩
      else if subBlocks r = poolMax p then ⟨none, exhausted s u pool 3⟩
      else if poolCount p = 0 then ⟨none, exhausted s u pool 1⟩
      else
        let c := (candidateAddrs p r (subHash u)).filter (fun a => bit (addrEnt s a) 141)
        match c.findSome? (fun a => (freeBlock s p a).map (fun k => (a, k))) with
        | some (a, k) => allocIn (addBlock s u pool p i r a k) u pool p i task fuel
        | none => ⟨none, exhausted s u pool (if c = [] then 4 else if poolPaired p then 0 else 1)⟩

/-- Allocate a tentative port of pool `pool` for a subscriber (R187–R189). -/
def allocPort (s : State) (u : SubId) (pool task : Nat) : PortAns :=
  let p := poolEnt s pool
  match subFind s u with
  | some i =>
    let r := subRec s (subHome u) i
    if 0 < subBlocks r ∧ subPool r ≠ pool then ⟨none, exhausted s u pool 6⟩ else allocIn s u pool p i task 3
  | none =>
    match subFree s u with
    | some i => allocIn (putSub s (subHome u) i 0) u pool p i task 3
    | none => ⟨none, exhausted s u pool 2⟩

/-- Remove block `j` of a record: the last block takes its place. -/
def dropBlock (s : State) (q i j : Nat) : State :=
  let r := subRec s q i
  let b := subBlk j
  let a := bits r b 20
  let k := bits r (b + 20) 10
  let m := bits r (b + 32) 20
  let e := addrEnt s a
  let s := putAddr s a (putBits (clrBit e (256 + k)) 144 11 (bits e 144 11 - 1))
  let s := { s with flo := { s.flo with maps := s.flo.maps.filter (· != q * 2 ^ 20 + m) } }
  let n := subBlocks r
  let r := (List.range (n - 1 - j)).foldl (fun r x => putBits r (subBlk (j + x)) 128 (bits r (subBlk (j + x + 1)) 128)) r
  let r := putBits (putBits r (subBlk (n - 1)) 128 0) 160 4 (n - 1)
  let r := if n - 1 = 0 then clrBit r 142 else r
  let u : SubId := ⟨bits r 128 14, bit r 143, bits r 0 128⟩
  let s := bump (putSub s q i r) (R.fltSvcCntCount q 6)
  svcEvent s q 1 0 (subPool r) u (blockPort s (poolEnt s (subPool r)) k) a

/-- Release a port of a record at its home; a block left empty is held, or released at once with HOLD_S = 0
(R185, R190). -/
def releaseAt (s : State) (q i a port : Nat) : State :=
  let r := subRec s q i
  let p := poolEnt s (subPool r)
  match (List.range (subBlocks r)).find? (fun j => bits r (subBlk j) 20 == a &&
      decide (blockPort s p (bits r (subBlk j + 20) 10) ≤ port) &&
      decide (port < blockPort s p (bits r (subBlk j + 20) 10) + poolSize p)) with
  | some j =>
    let b := subBlk j
    let o := port - blockPort s p (bits r (b + 20) 10)
    let m := bits r (b + 32) 20
    let bm := mapBits s q m
    if bit bm o then
      let s := putMap s q m (clrBit bm o)
      let n := bits r (b + 64) 13 - 1
      let r := putBits r (b + 64) 13 n
      let r := if n = 0 then putBits (setBit r (b + 77)) (b + 96) 24 (flowTick s) else r
      let s := bump (putSub s q i r) (R.fltSvcCntCount q 4)
      if n = 0 ∧ poolHold p = 0 then dropBlock s q i j else s
    else s
  | none => s

/-- Release a port of a subscriber. -/
def releasePort (s : State) (u : SubId) (a port : Nat) : State :=
  match subFind s u with
  | some i => releaseAt s (subHome u) i a port
  | none => s

/-! ### Tuples of a record (R145, R184) -/

/-- Source and destination of the forward direction, as 144-bit endpoints (R147). -/
def fwdSrc (r : Nat) : Nat := if recOrigB r then keyEndB (recKey r) else keyEndA (recKey r)
def fwdDst (r : Nat) : Nat := if recOrigB r then keyEndA (recKey r) else keyEndB (recKey r)
def recV6 (r : Nat) : Bool := bit r 30

/-- An address a record writes: inline, or through the rewrite array. -/
def recAddr (s : State) (r a : Nat) : Nat := if recV6 r then mgetD s.flo.rewrite (a % 2 ^ 20) 0 else a

/-- The forward direction's endpoints after translation. -/
def newSrc (s : State) (r : Nat) : Nat :=
  let m := recMask r
  let e := fwdSrc r
  (if bit m 0 then recAddr s r (bits r 512 32) else e / 2 ^ 16) * 2 ^ 16 + (if bit m 2 then bits r 576 16 else e % 2 ^ 16)
def newDst (s : State) (r : Nat) : Nat :=
  let m := recMask r
  let e := fwdDst r
  (if bit m 1 then recAddr s r (bits r 544 32) else e / 2 ^ 16) * 2 ^ 16 + (if bit m 3 then bits r 592 16 else e % 2 ^ 16)

/-- The subscriber of a source-translated record. -/
def recSub (r : Nat) : SubId := ⟨bits r 0 14, recV6 r, fwdSrc r / 2 ^ 16⟩

/-- The public address of which its subscriber holds the block with the record's port, as an index (R187, R189). -/
def recIndex (s : State) (r i : Nat) : Option Nat :=
  let u := subRec s (subHome (recSub r)) i
  let p := poolEnt s (subPool u)
  ((List.range (subBlocks u)).find? (fun j =>
    let a := bits u (subBlk j) 20
    let f := blockPort s p (bits u (subBlk j + 20) 10)
    (if recV6 r then a == bits r 512 32 else bits (addrEnt s a) 0 128 == bits r 512 32) &&
      decide (f ≤ bits r 576 16) && decide (bits r 576 16 < f + poolSize p))).map (fun j => bits u (subBlk j) 20)

/-- The pool of a source-translated record: the one its subscriber's blocks are of, all of them of one (R188); for
a port no subscriber holds, the pool of the address. -/
def recPool (s : State) (r : Nat) : Option Nat :=
  if bit (recMask r) 0 then
    match (subFind s (recSub r)).filter (fun i => (recIndex s r i).isSome) with
    | some i => some (subPool (subRec s (subHome (recSub r)) i))
    | none => poolOfAddr s (recV6 r) (bits r 512 32)
  else none

/-- The canonical key of a translated record's return traffic; none where it is the record's own (R145). -/
def aliasKey (s : State) (r : Nat) : Option Nat :=
  if recXlate r then
    let vz := match recPool s r with
      | some p => (poolVrf (poolEnt s p), poolZone (poolEnt s p))
      | none => (bits r 0 14, bits r 14 8)
    let k := (canonKey vz.1 vz.2 (bits r 22 8) (bits r 30 1) (newDst s r) (newSrc s r)).1
    if k = recKey r then none else some k
  else none

/-- An alias record (R145). -/
def aliasRec (k r handle : Nat) : Nat :=
  k + 2 ^ 320 + 2 ^ 321 + recKey r * 2 ^ 384 + handle % 2 ^ 29 * 2 ^ 704

/-! ### IPFIX export (R199–R202) -/

/-- Uptime in ms at a record tick (R200). -/
def tickMs (s : State) (t : Nat) : Nat :=
  let d := (flowTick s + 2 ^ 24 - t % 2 ^ 24) % 2 ^ 24
  (uptime s - d * 1048576) / 10 ^ 6

/-- An address of a data record: 4 or 16 bytes in network order. -/
def ipBytes (r a : Nat) : List Byte := if recV6 r then toBe 16 a else toBe 4 a

/-- The data record of one direction of a record (R200). -/
def exportRec (s : State) (r : Nat) (rev : Bool) (reason : Nat) : List Byte :=
  let pre := if rev then (newDst s r, newSrc s r) else (fwdSrc r, fwdDst r)
  let post := if rev then (fwdDst r, fwdSrc r) else (newSrc s r, newDst s r)
  let c := if rev then 832 else 768
  ipBytes r (pre.1 / 2 ^ 16) ++ ipBytes r (pre.2 / 2 ^ 16) ++ toBe 2 (pre.1 % 2 ^ 16) ++ toBe 2 (pre.2 % 2 ^ 16) ++
  ipBytes r (post.1 / 2 ^ 16) ++ ipBytes r (post.2 / 2 ^ 16) ++ toBe 2 (post.1 % 2 ^ 16) ++ toBe 2 (post.2 % 2 ^ 16) ++
  toBe 1 (bits r 22 8) ++ toBe 2 (bits r 408 8) ++ toBe 1 reason ++ toBe 1 (if rev then 2 else 1) ++
  toBe 4 (bits r 0 14) ++ toBe 8 (bits r c 28) ++ toBe 8 (bits r (c + 28) 36) ++
  toBe 4 (tickMs s (bits r 896 24)) ++ toBe 4 (tickMs s (recLast r))

/-- Export is on (R199, R202). -/
def exportOn (s : State) : Bool :=
  rdB s R.fltTelCfgExportEn && rd s R.fltTelHdrCfgHdrLen != 0 && rd s R.fltTelPortMtu != 0

/-- Bytes in a quadrant's export buffer. -/
def expBytes (s : State) (q : Nat) : Nat := (mgetD s.flo.expBuf q []).foldl (fun n e => n + e.2.2.length) 0

/-- A data record enters the export buffer of 256 KiB, or is discarded (R202). -/
def pushExport (s : State) (q : Nat) (v6 : Bool) (b : List Byte) : State :=
  if 262144 < expBytes s q + b.length then bump s (R.fltSvcCntCount q 14)
  else
    let l := mgetD s.flo.expBuf q []
    { s with flo := { s.flo with expBuf := mset s.flo.expBuf q (l ++ [(uptime s, v6, b)]) } }

/-- Export a primary record with a flowEndReason (R200, R201). -/
def exportFlow (s : State) (q r reason : Nat) : State :=
  if !exportOn s || recAlias r then s
  else
    let s := if pktCount r false = 0 then s else pushExport s q (recV6 r) (exportRec s r false reason)
    if pktCount r true = 0 then s else pushExport s q (recV6 r) (exportRec s r true reason)

/-! ### Removal (R168, R169, R183, R190) -/

/-- The record of a key as it stands: cached, in the victim buffer, or in HBM. -/
def recordNow (s : State) (q k : Nat) : Option Nat :=
  match cached s q k with
  | some r => some r
  | none => (findSlot s q k).map (slotRec s q)

/-- Take a key out of the cache, the victim buffer and HBM, without writeback. -/
def eraseKey (s : State) (q k : Nat) : State :=
  let s := match findLine s q k with
    | some (l, x) => if x.st = LineSt.filling then s else delLine s l
    | none => s
  let s := { s with flo := { s.flo with victims := s.flo.victims.filter (fun v => !(v.quad == q && v.key == k)) } }
  removeSlot s q k

/-- The alias of a record is removed: the entry at its alias key that names it. -/
def eraseAlias (s : State) (r : Nat) : State :=
  match aliasKey s r with
  | some k =>
    let q := homeOfKey s k
    match recordNow s q k with
    | some a => if recAlias a && clrBit (bits a 384 320) 31 == recKey r then eraseKey s q k else s
    | none => s
  | none => s

/-- The translation port and backend binding of a record are released. -/
def releaseFlow (s : State) (r : Nat) : State :=
  let s := if bit (recMask r) 0 then
      match (subFind s (recSub r)).bind (recIndex s r) with
      | some a => releasePort s (recSub r) a (bits r 576 16)
      | none => s
    else s
  if recBal r then
    let sv := bits r 704 16
    let b := bkEnt s sv (bits r 720 12)
    putBk s sv (bits r 720 12) (putBits b 224 32 (bkBound b - 1))
  else s

/-- Remove a primary record with its alias, releasing what it holds and exporting it. -/
def removeFlow (s : State) (q r reason : Nat) : State :=
  let s := exportFlow s q r reason
  let s := eraseAlias s r
  releaseFlow (eraseKey s q (recKey r)) r

/-- A record is idle (R168). -/
def idleNow (s : State) (q r : Nat) : Bool :=
  let t := rd s (R.fltTimeoutTicks q (recState r))
  t != 0 && decide (t ≤ (flowTick s + 2 ^ 24 - recLast r) % 2 ^ 24)

end Sys2Proof.Machine
end

