-- ==== Sys2Proof/Machine/SetupOps.lean ====
section
/-!
DEFINITION. The standard setup (R174, R175, R181, R183, R192, R195, R196): what the setup microcode of every
Naurn-supplied image decides for the first packet of a new flow.
-/

namespace Sys2Proof.Machine

open Sys2Proof

/-! ### Outcomes (R225) -/

/-- Outcome words: created, rejected with a reason, table full, abandoned. -/
def outCreated : Nat := 0
def outReject (reason : Nat) : Nat := 1 + 256 * reason
def outFull : Nat := 2
def outAbandon : Nat := 3

/-! ### The directive (R174) -/

/-- The setup directive on a bus. -/
def directive (s : State) (bus : Nat) : Nat := bits bus (resPos s) 128
def dirService (d : Nat) : Nat := bits d 0 16
def dirPool (d : Nat) : Nat := bits d 16 12
def dirBal (d : Nat) : Bool := bit d 32
def dirSnat (d : Nat) : Bool := bit d 33
def dirDnat (d : Nat) : Bool := bit d 34
def dirTrack (d : Nat) : Bool := bit d 35
def dirVerdict (d : Nat) : Nat := bits d 36 2
def dirPin (d : Nat) : Bool := bit d 38
def dirAdm (d : Nat) : Bool := bit d 39
def dirRule (d : Nat) : Nat := bits d 48 16
def dirClass (d : Nat) : Nat := bits d 64 16
def dirDport (d : Nat) : Nat := bits d 80 16
def dirDaddr (d : Nat) : Nat := bits d 96 32

/-! ### Admission (R196) -/

/-- Depth of a class's bucket, in 10⁻⁹ tokens. -/
def admDepth (s : State) (c : Nat) : Nat := cdiv (mgetD s.flo.adm c (0, 0)).2 4 * 10 ^ 9

/-- The bucket of class `c` in quadrant `q` now. -/
def admNow (s : State) (q c : Nat) : Int :=
  let k := q * 65536 + c
  min (admDepth s c) (mgetD s.flo.admTok k (admDepth s c) +
    (mgetD s.flo.adm c (0, 0)).1 / 4 * (uptime s - mgetD s.flo.admAt k 0 : Nat))

/-- Write a bucket. -/
def putAdm (s : State) (q c : Nat) (v : Int) : State :=
  let k := q * 65536 + c
  { s with flo := { s.flo with admTok := mset s.flo.admTok k v, admAt := mset s.flo.admAt k (uptime s) } }

/-- Take one token of a class, if RATE and BURST are not 0 and one is there. -/
def admit1 (s : State) (q c : Nat) : Bool × State :=
  let a := mgetD s.flo.adm c (0, 0)
  if a.1 ≠ 0 ∧ a.2 ≠ 0 ∧ (10 ^ 9 : Int) ≤ admNow s q c then (true, putAdm s q c (admNow s q c - 10 ^ 9))
  else (false, bump s (R.fltSvcCntCount q 8))

/-! ### The record (R144, R162) -/

/-- A new record of a key: VALID, OWNER, TAKE_BORN, RULE, FLAGS, FIRST_SEEN and LAST_SEEN. -/
def freshRec (s : State) (key : Nat) (origB : Bool) (d bus flags : Nat) : Nat :=
  key + b2n origB * 2 ^ 31 + 2 ^ 320 + deviceId s % 64 * 2 ^ 401 + flags % 256 * 2 ^ 408 + busTake bus * 2 ^ 416 +
    dirRule d * 2 ^ 432 + flowTick s * 2 ^ 896 + flowTick s * 2 ^ 920

/-- Rewrite the destination to an address (inline or index) and a port; 0 keeps the port (R178, R184). An IPv6
reverse address is a rewrite-array index that the spec does not name. -/
def toDest (s : State) (r a port : Nat) : Nat × State :=
  let e := fwdDst r
  let x := if recV6 r then freeVal s 20 else (e / 2 ^ 16 % 2 ^ 32, s)
  let r := putBits (putBits (setBit (setBit (setBit r 391) 749) 752) 544 32 a) 608 32 x.1
  (if port = 0 then r
   else putBits (putBits (setBit (setBit r 751) 754) 592 16 port) 672 16 (e % 2 ^ 16), x.2)

/-- Rewrite the source to an address (inline or index) and a port (R184). -/
def toSource (s : State) (r a port : Nat) : Nat × State :=
  let e := fwdSrc r
  let x := if recV6 r then freeVal s 20 else (e / 2 ^ 16 % 2 ^ 32, s)
  let r := putBits (putBits (setBit (setBit (setBit r 391) 748) 753) 512 32 a) 640 32 x.1
  (putBits (putBits (setBit (setBit r 750) 755) 576 16 port) 688 16 (e % 2 ^ 16), x.2)

/-! ### The reset of a balanced segment (R183) -/

/-- One's complement sum of a byte string in 16-bit words. -/
def inetSum : List Byte → Nat → Nat
  | [], a => a
  | [x], a => ones a (x.toNat * 256)
  | x :: y :: bs, a => inetSum bs (ones a (x.toNat * 256 + y.toNat))

/-- An RST that answers a segment: SEQ is the segment's ACK number, addressed back to its sender, without FCS.
The TTL or hop limit, the window, the IPv4 type of service and identification, and the IPv6 traffic class and flow label
are free. -/
def resetFrame (s : State) (bus : Nat) (b : List Byte) : List Byte × State :=
  let inner := flowInner s && busTunnel bus
  let l2 := 2 * bits bus 128 8
  let l3 := 2 * (if inner then bits bus 160 8 else bits bus 128 8)
  let l4 := 2 * (if inner then bits bus 168 8 else bits bus 136 8)
  let v6 := decide (l3Type s bus = 2)
  let t := freeVal s 8
  let w := freeVal t.2 16
  let k := freeVal w.2 28
  let hop := t.1
  let eth := slice b 6 6 ++ slice b 0 6 ++ slice b 12 (l2 - 14) ++ (if v6 then [0x86, 0xDD] else [0x08, 0x00])
  let src := if v6 then slice b (l3 + 24) 16 else slice b (l3 + 16) 4
  let dst := if v6 then slice b (l3 + 8) 16 else slice b (l3 + 12) 4
  let tcp0 := slice b (l4 + 2) 2 ++ slice b l4 2 ++ slice b (l4 + 8) 4 ++ [0, 0, 0, 0, 0x50, 0x04] ++ toBe 2 w.1
  let ck := 65535 - inetSum (src ++ dst ++ toBe 4 6 ++ toBe 4 20 ++ tcp0) 0
  let tcp := tcp0 ++ toBe 2 ck ++ [0, 0]
  let ip4 := [0x45] ++ toBe 1 k.1 ++ toBe 2 40 ++ toBe 2 (k.1 / 2 ^ 8) ++ [0, 0] ++ toBe 1 hop ++ [6]
  let ip := if v6 then toBe 4 (6 * 2 ^ 28 + k.1) ++ toBe 2 20 ++ [6] ++ toBe 1 hop ++ src ++ dst
    else ip4 ++ toBe 2 (65535 - inetSum (ip4 ++ src ++ dst) 0) ++ src ++ dst
  let f := eth ++ ip ++ tcp
  (f ++ List.replicate (60 - f.length) 0, k.2)

/-- A frame an engine injects at recirculation port `p` (R216): its FCS is added and it enters whole. -/
def injectFrame (s : State) (q p : Nat) (b : List Byte) : State :=
  if 512 ≤ p ∧ p < 544 then (wholeFrame s p (portQuad p) (2208 + q) (b ++ fcsOf b)).2 else s

/-- The pipe slot of an ingress port (R21, R23). -/
def portSlot (p : Nat) : Nat := if p < 512 then p / 16 % 8 else if p < 544 then p % 8 else 0

/-- Inject the reset at the recirculation port of the ingress slot. -/
def sendReset (s : State) (q bus : Nat) (b : List Byte) : State :=
  let r := resetFrame s bus b
  injectFrame r.2 q (512 + 8 * portQuad (busPort bus) + portSlot (busPort bus)) r.1

/-! ### Placing a record and its alias (R145, R162, R164) -/

/-- A record just placed is taken back from HBM, since its alias finds no place (R162). -/
def takeBack (s : State) (q r : Nat) : State := removeSlot s q (recKey r)

/-- Place a primary and its alias, both or neither. The answer is the primary's slot. -/
def placeBoth (s : State) (q r : Nat) (al : Option (Nat → Nat)) : PlaceAns :=
  match placeRec s q r, al with
  | .at x s1, some mk =>
    let a := mk (q * 2 ^ 27 + x)
    match placeRec s1 (homeOfKey s (recKey a)) a with
    | .at _ s2 => .at ((findSlot s2 q (recKey r)).getD x) s2
    | .full s2 => .full (takeBack s2 q r)
    | .quarantine s2 => .quarantine (takeBack s2 q r)
  | p, _ => p

/-- Place a record with the alias its translation needs. -/
def placePair (s : State) (q r : Nat) : PlaceAns :=
  placeBoth s q r ((aliasKey s r).map (fun k h => aliasRec k r h))

/-- The record of a key that a place put, and its alias, are taken back (R234): no export, and no release of
ports, which return as tentative ones. -/
def unplace (s : State) (q key : Nat) : State :=
  match recordNow s q key with
  | some r =>
    let s := eraseKey (eraseAlias s r) q key
    if recBal r then
      let b := bkEnt s (bits r 704 16) (bits r 720 12)
      putBk s (bits r 704 16) (bits r 720 12) (putBits b 224 32 (bkBound b - 1))
    else s
  | none => s

/-! ### Setup (R175) -/

/-- What a setup has decided: the outcome, and the key it has placed. -/
structure SetAns where
  out : Nat
  placed : Option Nat
  st : State

def setReject (s : State) (reason : Nat) : SetAns := ⟨outReject reason, none, s⟩

/-- The first packet of a setup: its bus, directive, key, ORIG_B, quadrant, bytes, and TCP fields. -/
structure SetIn where
  q : Nat
  bus : Nat
  d : Nat
  key : Nat
  origB : Bool
  bytes : List Byte
  tcp : TcpS
  task : Nat

/-- A rejection with 0x0D. -/
def reject0D (s : State) (q : Nat) : SetAns := setReject (bump s (R.fltSvcCntCount q 1)) 0x0D

/-- A record asked to be pinned where there is room (R33, R167): its FILLING line counts as pinned from here on;
without room it is created unpinned, and FLT_CNT[14] advances. -/
def grantPin (s : State) (q key r : Nat) : Nat × State :=
  if pinRoom s q (setOf s q key) then
    (setBit r 388, match findLine s q key with
      | some (l, _) => updLine s l (fun x => { x with pinned := true })
      | none => s)
  else (clrBit r 388, bump s (R.fltCntCount q 14))

/-- Create the record, pinned if asked for and if there is room (R167, R175). -/
def setCreate (s : State) (i : SetIn) (r : Nat) : SetAns :=
  let g := if dirPin i.d then grantPin s i.q i.key r else (r, s)
  let r := g.1
  let s := g.2
  match placePair s i.q r with
  | .at _ s =>
    let s := if recBal r then
        let sv := bits r 704 16
        let b := bkEnt s sv (bits r 720 12)
        bump (putBk s sv (bits r 720 12) (putBits b 224 32 (bkBound b + 1))) (R.fltSvcCntCount i.q 0)
      else s
    ⟨outCreated, some i.key, s⟩
  | .full s => ⟨outFull, none, s⟩
  | .quarantine s => ⟨outAbandon, none, s⟩

/-- The setup goes on once it has read some ranges; a poisoned response ends it undecided (R305). -/
def withReads (s : State) (l : List (Nat × Nat × Nat)) (f : State → SetAns) : SetAns :=
  let r := storeReads s l
  if r.1 then f r.2 else ⟨outAbandon, none, r.2⟩

/-- Records of a subscriber's set, up to its own (R187). -/
def subReads (s : State) (u : SubId) : List (Nat × Nat × Nat) :=
  let l := match subFind s u with
    | some i => (subSlots u).filter (· ≤ i)
    | none => subSlots u
  l.map (fun i => (subHome u, subAddr s (subHome u) i, 256))

/-- What an allocation reads next (R189): the bitmaps of the blocks held, up to one with a free port; without one, the
candidates' address entries, up to one with a free block. -/
def portReads (s : State) (u : SubId) (pool : Nat) : List (Nat × Nat × Nat) :=
  let p := poolEnt s pool
  let q := subHome u
  let r := (subFind s u).elim 0 (subRec s q)
  if 0 < subBlocks r ∧ subPool r ≠ pool then []
  else
    let held := heldPort s p q r
    let maps := (List.range (held.elim (subBlocks r) (fun x => x.1 + 1))).map
      (fun j => (q, mapAddr s q (bits r (subBlk j + 32) 20), 512))
    if held.isSome || poolSize p == 0 || poolMax p == 0 || subBlocks r == poolMax p || poolCount p == 0 then maps
    else
      let c := candidateAddrs p r (subHash u)
      let n := (c.findIdx? (fun a => bit (addrEnt s a) 141 && (freeBlock s p a).isSome)).elim c.length (· + 1)
      maps ++ (c.take n).map (fun a => (a % 4, hbmBase s (a % 4) 3 + 256 * (a / 4), 256))

/-- Source translation from a pool, or none, and the creation. -/
def setSource (s : State) (i : SetIn) (r : Nat) (pool : Option Nat) : SetAns :=
  match pool with
  | none => setCreate s i r
  | some p =>
    let u : SubId := ⟨bits r 0 14, recV6 r, fwdSrc r / 2 ^ 16⟩
    withReads s (subReads s u ++ portReads s u p) (fun s =>
      match (allocPort s u p i.task) with
      | ⟨none, s⟩ => setReject s 0x0C
      | ⟨some (a, port), s⟩ =>
        let x := toSource s r (if recV6 r then a else mgetD s.flo.rewrite a 0 % 2 ^ 32) port
        setCreate x.2 i x.1)

/-- What the probe of a ring reads: each granule of slots once, and the backend each valid slot names (R179, R181). -/
def probeReads (s : State) (sv x n : Nat) : List (Nat × Nat × Nat) :=
  ((List.range n).flatMap (fun k =>
    let y := (x + k) % 65536
    let v := ringSlot s sv y
    (svcHome sv, ringBase s sv + y / 32 * 64, 64) ::
      (if bit v 15 then [(svcHome sv, bkAddr s sv (svcBase (svcEnt s sv) + v % 4096), 32)] else []))).eraseDups

/-- A balanced setup: the probe of the ring, the destination, and a hairpin (R181, R192). An undefined service
rejects every one (R177). -/
def setBalance (s : State) (i : SetIn) (r : Nat) : SetAns :=
  let sv := dirService i.d
  let e := svcEnt s sv
  let x := crc32c (svcSeed e) (toLe 40 i.key) % 65536
  let c := chooseSlot s sv x 8 0
  if !svcDefined e then reject0D s i.q
  else withReads s (probeReads s sv x (if c.1.isSome then c.2 + 1 else 8)) (fun s =>
    let s := bumpBy s (R.fltSvcCntCount i.q 2) c.2
    match c.1 with
    | none => reject0D s i.q
    | some y =>
      let n := ringSlot s sv y % 4096
      let b := bkEnt s sv n
      let r := putBits (putBits (putBits (setBit r 392) 704 16 sv) 720 12 n) 732 16 y
      let z := toDest s r (if recV6 r then bkRw b else bkAddress b) (bkPort b)
      let hair := svcHpEn e && bkZone b == bits r 14 8
      setSource z.2 i z.1 (if hair then some (svcHpPool e) else if dirSnat i.d then some (dirPool i.d) else none))

/-- From the initial state on: destination, source, creation. -/
def setDest (s : State) (i : SetIn) (r : Nat) : SetAns :=
  if dirBal i.d then setBalance s i r
  else
    let z := if dirDnat i.d then toDest s r (dirDaddr i.d) (dirDport i.d) else (r, s)
    setSource z.2 i z.1 (if dirSnat i.d then some (dirPool i.d) else none)

/-- A pickup or a re-bind: ESTABLISHED at once. END_FWD is the segment's end; the spec states no END_REV. -/
def setPickup (s : State) (i : SetIn) (r : Nat) : SetAns :=
  let x := freeVal (bump s (R.fltSvcCntCount i.q 10)) 32
  setDest x.2 i (putState (putEnd (putEnd r false (i.tcp.seq + segLen i.tcp)) true x.1) 4)

/-- The initial state of a tracked segment other than a SYN (R183, R195). -/
def setOther (s : State) (i : SetIn) (r : Nat) : SetAns :=
  if dirBal i.d then
    let e := svcEnt s (dirService i.d)
    if !svcDefined e then reject0D s i.q
    else if svcPolicy e = 1 then setPickup s i r
    else if svcPolicy e = 0 then reject0D (sendReset s i.q i.bus i.bytes) i.q
    else reject0D s i.q
  else if rdB s R.fltCtCfgPickup then setPickup s i r
  else setReject s 0x09

/-- Steps of R175 behind the verdict. -/
def setState (s : State) (i : SetIn) : SetAns :=
  let r := freshRec s i.key i.origB i.d i.bus i.tcp.flags
  if dirTrack i.d && busProto i.bus == 6 then
    if tSyn i.tcp && !tAck i.tcp then
      setDest s i (putWs (putEnd (putState r 2) false (i.tcp.seq + 1)) false (i.tcp.ws.getD 0))
    else setOther s i r
  else setDest s i r

/-- Setup of the first packet (R175). -/
def setupOf (s : State) (i : SetIn) : SetAns :=
  if 2 ≤ dirVerdict i.d then setReject s 0x08
  else
    let a := if dirAdm i.d then admit1 s i.q (dirClass i.d) else (true, s)
    let s := a.2
    if !a.1 then setReject s 0x08
    else if dirVerdict i.d = 1 then
      let r := freshRec s i.key i.origB i.d i.bus i.tcp.flags
      setCreate s { i with d := clrBit i.d 38 } (setBit (putState r 9) 390)
    else
      let sv := dirService i.d
      withReads s (if dirBal i.d then [(svcHome sv, svcAddr s sv, 32)] else []) (fun s => setState s i)

/-- The input of setup task `n`: the payload's bus and key, and the first held packet's bytes. -/
def setupIn (s : State) (n : Nat) (t : TaskS) : SetIn :=
  let bus := leNat (slice t.payload 0 128)
  let key := leNat (slice t.payload 0x80 40)
  let head := (t.line.bind (fun l => (mget s.flo.lines l).bind (fun x => x.hold.head?.map (·.1)))).getD 0
  let b := frameBytes s head
  let tcp := if busProto bus = 6 then readTcp s bus b else ⟨0, 0, 0, 0, none⟩
  ⟨t.quad, bus, directive s bus, key, bit (leNat (slice t.payload 0xA8 4)) 0, b, tcp, n⟩

/-- The standard setup of task `n`: its outcome is decided and the task remembers what it placed. -/
def setupRun (s : State) (n : Nat) (t : TaskS) : State :=
  let a := setupOf s (setupIn s n t)
  let s := a.st
  { s with eng := { s.eng with tasks := mmod s.eng.tasks n (fun t => { t with placed := a.placed, decided := some a.out }) } }

end Sys2Proof.Machine
end

