-- ==== Sys2Proof/Machine/ClusterOps.lean ====
section
/-!
DEFINITION. Shared operations of the cluster agent (chapter 14): Bolvis messages sent and checked, roles and
terms, ring copies, leases and cluster commits.
-/

namespace Sys2Proof.Machine

open Sys2Proof

/-! ### Identity and peers (R367, R368, R55) -/

/-- The cluster role section, BOLVIS_UDP and LOCAL_ADDR. -/
def cluSec (s : State) : List Byte := sec s 0xD 0
def bolvisUdp (s : State) : Nat := fieldLe (cluSec s) 4 2
def localAddr (s : State) : Nat := fieldLe (cluSec s) 0x18 16

/-- The device runs the cluster agent: its image role is not standalone, and its mode is SYNC, SERVE, SPLICE or
SAFE. -/
def inCluster (s : State) : Bool := rd s R.cluStatRole != 0 && carries s

/-- The device acts as Director, or as Crew. -/
def actsDirector (s : State) : Bool := inCluster s && rd s R.cluStatActing == 1
def actsCrew (s : State) : Bool := inCluster s && rd s R.cluStatActing == 2

/-- A front port with BOLVIS = 1. -/
def isBolvis (s : State) (p : Nat) : Bool := ((portDecl s p).map (·.bolvis)).getD false

/-- The address of peer `i`, and the valid peers. -/
def peerAddr (s : State) (i : Nat) : Nat := rd s (R.cluPeerAddrAddr i 0) + 2 ^ 64 * rd s (R.cluPeerAddrAddr i 1)
def validPeers (s : State) : List Nat := (List.range 64).filter (fun i => rdB s (R.cluPeerValid i))

/-- A peer never heard, and what the device keeps of a peer. -/
def noPeer : PeerS := ⟨0, 0, 0, none, 0, 0, 0, 0, 0, none⟩
def peerOf (s : State) (i : Nat) : PeerS := mgetD s.clu.peers i noPeer
def putPeer (s : State) (i : Nat) (p : PeerS) : State := { s with clu := { s.clu with peers := mset s.clu.peers i p } }

/-- Peer `i` is live; the live peers. -/
def peerLive (s : State) (i : Nat) : Bool := rdB s (R.cluPeerValid i) && rd s (R.cluPeerState i) == 1
def livePeers (s : State) : List Nat := (List.range 64).filter (peerLive s)

/-! ### Sending (R370–R372, R374) -/

/-- The slot of an epoch, and whether it is loaded. -/
def cluSlot (epoch : Nat) : Nat := 5 + epoch % 2
def slotLoaded (s : State) (k : Nat) : Bool := rd s (R.keySlotState k) == 2

/-- The highest term the device knows (R371). -/
def knownTerm (s : State) : Nat := max (rd s R.cluStatTerm) s.clu.seenTerm

/-- A Bolvis header of this device (R371). -/
def bolvisHdr (s : State) (typ dst : Nat) (all : Bool) (len seq : Nat) : List Byte :=
  [1] ++ toBe 1 typ ++ toBe 1 (deviceId s) ++ toBe 1 (dst % 64 + 64 * b2n all) ++
  toBe 1 (rd s R.cluStatClusterId) ++ toBe 1 (rd s R.cluKeyEpoch) ++ toBe 2 len ++ toBe 8 seq ++
  toBe 8 (rd s R.imgLineageLineage) ++ toBe 4 (knownTerm s) ++ toBe 4 (rd s R.timBootBoot)

/-- The UDP header and data of a datagram over IPv6, with its checksum; 0 is sent as 0xFFFF (RFC 768, RFC 8200). -/
def udp6 (src dst port : Nat) (data : List Byte) : List Byte :=
  let n := 8 + data.length
  let h := toBe 2 port ++ toBe 2 port ++ toBe 2 n
  let ck := 65535 - inetSum (toBe 16 src ++ toBe 16 dst ++ toBe 4 n ++ toBe 4 17 ++ h ++ [0, 0] ++ data) 0
  h ++ toBe 2 (if ck = 0 then 0xFFFF else ck) ++ data

/-- The frame that carries a Bolvis message to peer `i`, without FCS (R370). The source MAC address, the traffic
class and flow label, and the hop limit are free. -/
def bolvisFrame (s : State) (i : Nat) (msg : List Byte) : List Byte × State :=
  let mac := freeVal s 48
  let cls := freeVal mac.2 28
  let hop := freeVal cls.2 8
  (toBe 6 (rd s (R.cluPeerMac i)) ++ toBe 6 mac.1 ++ [0x86, 0xDD] ++
   toBe 4 (6 * 2 ^ 28 + cls.1) ++ toBe 2 (8 + msg.length) ++ [17] ++ toBe 1 hop.1 ++
   toBe 16 (localAddr s) ++ toBe 16 (peerAddr s i) ++ udp6 (localAddr s) (peerAddr s i) (bolvisUdp s) msg,
   hop.2)

/-- One copy of a message leaves on its peer's port, with its FCS, or waits for that port's gates (R370). -/
def sendCopyTo (msg : List Byte) (s : State) (i : Nat) : State :=
  let r := bolvisFrame s i msg
  let p := rd s (R.cluPeerPort i)
  bolvisFlush { r.2 with clu := { r.2.clu with outq := r.2.clu.outq ++ [(i, p, r.1 ++ fcsOf r.1)] } }

/-- Send a message to peers: nothing while the send epoch's slot is not loaded (R374). -/
def bolvisSend (s : State) (dst : List Nat) (all : Bool) (typ : Nat) (payload : List Byte) : State :=
  if dst = [] ∨ !slotLoaded s (cluSlot (rd s R.cluKeyEpoch)) then s
  else
    let x := freeVal s 6
    let s := if all then x.2 else s
    let h := bolvisHdr s typ (if all then x.1 else dst.headD 0) all payload.length (s.clu.seqOut + 1)
    let tag := cmacBytes (slotKey s (cluSlot (rd s R.cluKeyEpoch))) (h ++ payload)
    let s := { s with clu := { s.clu with seqOut := s.clu.seqOut + 1 } }
    dst.foldl (sendCopyTo (h ++ payload ++ tag)) (bump s (R.cluCntCount 0))

/-- To one valid peer, and to every valid peer. -/
def sendTo (s : State) (i typ : Nat) (payload : List Byte) : State :=
  bolvisSend s ((validPeers s).filter (· == i)) false typ payload
def sendAll (s : State) (typ : Nat) (payload : List Byte) : State := bolvisSend s (validPeers s) true typ payload

/-! ### Receiving (R372, R381) -/

/-- A received message past its checks: sender, TERM, BOOT, payload. -/
structure BMsg where
  src : Nat
  term : Nat
  boot : Nat
  payload : List Byte

/-- The frame is an IPv6 UDP frame to LOCAL_ADDR and BOLVIS_UDP on a Bolvis port's MAC (R381). -/
def toAgent (s : State) (b : List Byte) : Bool :=
  fieldBe b 12 2 == 0x86DD && fieldBe b 20 1 == 17 && fieldBe b 38 16 == localAddr s && fieldBe b 56 2 == bolvisUdp s

/-- A frame on a Bolvis port that the MAC diverts from the parser (R381): a standalone device diverts none. -/
def diverted (s : State) (p : Nat) (b : List Byte) : Bool := rd s R.cluStatRole != 0 && isBolvis s p && toAgent s b

/-- The TYPE values of R373 but STEER. -/
def bolvisType (t : Nat) : Bool := decide (1 ≤ t) && decide (t ≤ 0x0F)

/-- The Bolvis header's fields in a frame. -/
def bhVer (b : List Byte) : Nat := fieldBe b 62 1
def bhType (b : List Byte) : Nat := fieldBe b 63 1
def bhSrc (b : List Byte) : Nat := fieldBe b 64 1 % 64
def bhDst (b : List Byte) : Nat := fieldBe b 65 1 % 64
def bhAll (b : List Byte) : Bool := bit (fieldBe b 65 1) 6
def bhCluster (b : List Byte) : Nat := fieldBe b 66 1 % 16
def bhEpoch (b : List Byte) : Nat := fieldBe b 67 1
def bhLen (b : List Byte) : Nat := fieldBe b 68 2
def bhSeq (b : List Byte) : Nat := fieldBe b 70 8
def bhLineage (b : List Byte) : Nat := fieldBe b 78 8
def bhTerm (b : List Byte) : Nat := fieldBe b 86 4
def bhBoot (b : List Byte) : Nat := fieldBe b 90 4

/-- Step 2 of R372, with step 3's port: DST, SRC, the IPv6 source and BOLVIS. -/
def bolvisFrom (s : State) (p : Nat) (b : List Byte) : Bool :=
  (bhAll b || bhDst b == deviceId s) && rdB s (R.cluPeerValid (bhSrc b)) &&
  fieldBe b 22 16 == peerAddr s (bhSrc b) && isBolvis s p

/-- A message with BOOT `boot` and SEQ `q` from a peer is a replay. -/
def isReplay (x : PeerS) (boot q : Nat) : Bool :=
  decide (boot < x.boot) ||
    (boot == x.boot && (decide (q + 64 ≤ x.seq) || (decide (q ≤ x.seq) && bit x.mask (x.seq - q))))

/-- The window with that message marked. -/
def markSeq (x : PeerS) (boot q : Nat) : PeerS :=
  if x.boot < boot ∨ x.mask = 0 then { x with boot := boot, seq := q, mask := 1 }
  else if x.seq < q then { x with seq := q, mask := (x.mask * 2 ^ (q - x.seq) + 1) % 2 ^ 64 }
  else { x with mask := setBit x.mask (x.seq - q) }

/-- A message of type `typ` arrives on port `p`: the checks of R372 in order. `frame` has no FCS. -/
def bolvisCheck (s : State) (typ p : Nat) (frame : List Byte) : Option BMsg × State :=
  if !inCluster s || decide (512 ≤ p) || !toAgent s frame || (bolvisType (bhType frame) && bhType frame != typ) then
    (none, s)
  else
    let s := bumpBy (bump s (R.ctrPortCount p 0)) (R.ctrPortCount p 1) (frame.length + 4)
    let i := bhSrc frame
    let n := bhLen frame
    if bhVer frame ≠ 1 ∨ !bolvisType (bhType frame) ∨ bhCluster frame ≠ rd s R.cluStatClusterId ∨ 1024 < n ∨
        frame.length < 94 + n + 16 ∨ !bolvisFrom s p frame then (none, bump s (R.cluCntCount 4))
    else
      let k := cluSlot (bhEpoch frame)
      if !slotLoaded s k ∨ slice frame (94 + n) 16 ≠ cmacBytes (slotKey s k) (slice frame 62 (32 + n)) then
        (none, bump s (R.cluCntCount 2))
      else if isReplay (peerOf s i) (bhBoot frame) (bhSeq frame) then (none, bump s (R.cluCntCount 3))
      else
        let s := putPeer s i (markSeq (peerOf s i) (bhBoot frame) (bhSeq frame))
        if bhLineage frame ≠ rd s R.imgLineageLineage then (none, bump s (R.cluCntCount 5))
        else
          let s := wr s (R.cluPeerBootBoot i) (bhBoot frame)
          let s := { s with clu := { s.clu with seenTerm := max s.clu.seenTerm (bhTerm frame) } }
          (some ⟨i, bhTerm frame, bhBoot frame, slice frame 94 n⟩, bump s (R.cluCntCount 1))

/-- Carry out the effect of an accepted message. -/
def onBolvis (s : State) (typ p : Nat) (frame : List Byte) (f : State → BMsg → State) : State :=
  match bolvisCheck s typ p frame with
  | (some m, s) => f s m
  | (none, s) => s

/-- The sender is the device this one knows as acting Director (the From column of R373). -/
def fromDirector (s : State) (m : BMsg) : Bool := actsCrew s && rd s R.cluStatDirectorId == m.src

/-- A CLUSTER journal record (R434): device, event, LAST_ID. -/
def cluJournal (s : State) (device event : Nat) : State :=
  journalFull s 0x0031 1 0 0 (.num 0) device event (rd s R.cluCommitActLastId)

/-! ### Roles and terms (R384, R385) -/

/-- A Crew of an acting Director: DIRECTOR_ID; JOINED falls if the Director is another. -/
def followDirector (s : State) (i term : Nat) : State :=
  let same := rd s R.cluStatDirectorId = i ∧ rd s R.cluStatActing = 2 ∧ rd s R.cluStatDirLost = 0
  let s := if same then s else wr s R.cluStatJoined 0
  wrs s [(R.cluStatTerm, term), (R.cluStatActing, 2), (R.cluStatDirectorId, i), (R.cluStatDirLost, 0),
    (R.cluStatOrphan, 0)]

/-- The other acting Director stays: it has the same TERM, and its image role is Director, or neither's is and its
DEVICE_ID is lower. An image Director is the device whose acting role a deputy's never is. -/
def otherStays (s : State) (i : Nat) : Bool :=
  rd s R.cluStatRole != 1 && (i != rd s R.cluStatDeputyId || decide (i < deviceId s))

/-- A HEARTBEAT of an acting Director with a TERM (R385). -/
def termAdopt (s : State) (i term : Nat) : State :=
  let own := rd s R.cluStatTerm
  if own < term then followDirector s i term
  else if term < own then s
  else if rd s R.cluStatActing = 1 then (if otherStays s i then followDirector s i term else s)
  else followDirector s i term

/-- Act as Director under a TERM. -/
def actDirector (s : State) (term : Nat) : State :=
  wrs s [(R.cluStatTerm, term), (R.cluStatActing, 1), (R.cluStatDirectorId, deviceId s), (R.cluStatDirLost, 0),
    (R.cluStatOrphan, 0), (R.cluStatJoined, 0)]

/-- Crew firmware declares time loss (R376). -/
def crewTimeLoss (s : State) : State :=
  if rd s R.timStatState = 1 ∧ rd s R.timStatSource = 3 then enterHoldover s else s

/-- The payload of HEARTBEAT (R373); bit 7 of TIM_STAT is reserved and free. -/
def heartbeatBytes (s : State) : List Byte × State :=
  let r := freeVal s 1
  let tstat := [R.timStatValid, R.timStatState, R.timStatSource, R.timStatJumpRefused, R.timStatIncRej].foldl
    (fun v f => putBits v f.lo f.wid (rd s f)) (r.1 * 2 ^ 7)
  (toBe 1 (rd s R.cluStatActing) ++ toBe 1 tstat ++ toBe 1 (rd s R.cluStatDeputyId) ++ [0] ++
   toBe 4 (rd s R.cluCommitActLastId) ++ toBe 4 (nowNs s), r.2)

/-- Send HEARTBEAT to every peer. -/
def sendHeartbeat (s : State) : State :=
  let r := heartbeatBytes s
  sendAll r.2 0x01 r.1

/-- No takeover is possible: the Director is lost, and so is the deputy (R385). -/
def syncOrphan (s : State) : State :=
  let d := rd s R.cluStatDeputyId
  if rdB s R.cluStatDirLost && d != deviceId s && !peerLive s d then wr s R.cluStatOrphan 1 else s

/-! ### Ring copies (R377) -/

/-- RING_VER of a service. -/
def ringVer (s : State) (sv : Nat) : Nat := mgetD s.clu.ringVer sv 0
def setRingVer (s : State) (sv v : Nat) : State := { s with clu := { s.clu with ringVer := mset s.clu.ringVer sv (v % 2 ^ 32) } }

/-- The SVC message of a service with some backends (R373). -/
def svcBytes (s : State) (sv : Nat) (bs : List Nat) : List Byte :=
  let bs := bs.take 27
  toBe 2 sv ++ [0, 0] ++ toBe 4 (ringVer s sv) ++ toLe 32 (svcEnt s sv) ++ toBe 1 bs.length ++ [0, 0, 0] ++
  (bs.map (fun i => toBe 2 i ++ [0, 0] ++ toLe 32 (bkEnt s sv i))).flatten

/-- A RING message of `n` slots from `first` on. -/
def ringBytes (s : State) (sv first n : Nat) : List Byte :=
  toBe 2 sv ++ toBe 2 first ++ toBe 4 (ringVer s sv) ++ toBe 2 n ++ [0, 0] ++
  ((List.range n).map (fun i => toBe 2 (ringSlot s sv (first + i)))).flatten

/-- The runs of up to 500 changed slots, rising. -/
def slotRuns : List Nat → List (Nat × Nat) → List (Nat × Nat)
  | [], acc => acc.reverse
  | x :: xs, (a, n) :: acc => if x = a + n ∧ n < 500 then slotRuns xs ((a, n + 1) :: acc) else slotRuns xs ((x, 1) :: (a, n) :: acc)
  | x :: xs, [] => slotRuns xs [(x, 1)]

/-- The ring slots that differ between two states. -/
def changedSlots (s0 s : State) (sv : Nat) : List Nat :=
  let a := ringListed s0 sv ++ ringListed s sv
  (List.range 65536).filter (fun x => a.contains x && ringSlot s0 sv x != ringSlot s sv x)

/-- The acting Director publishes a change of a service: RING_VER advances, SVC and then RING messages follow;
`s0` is the state before the change. -/
def publishService (s0 s : State) (sv : Nat) (bs : List Nat) : State :=
  if !actsDirector s then s
  else
    let s := setRingVer s sv (ringVer s sv + 1)
    let s := sendAll s 0x05 (svcBytes s sv bs)
    (slotRuns (changedSlots s0 s sv) []).foldl (fun s r => sendAll s 0x06 (ringBytes s sv r.1 r.2)) s

/-- The whole of a service: one SVC message and 132 RING messages (R377). -/
def resendService (s : State) (sv : Nat) : State :=
  let bs := (List.range (svcMax (svcEnt s sv))).filter (fun i => bkState (bkEnt s sv i) != 0)
  let s := sendAll s 0x05 (svcBytes s sv bs)
  (List.range 132).foldl (fun s k => sendAll s 0x06 (ringBytes s sv (500 * k) (min 500 (65536 - 500 * k)))) s

/-- A Crew asks for a whole service. -/
def askResync (s : State) (sv : Nat) : State :=
  let m := s.clu.missed
  let s := { s with clu := { s.clu with missed := if m.contains sv then m else m ++ [sv], resync := mdel s.clu.resync sv } }
  sendTo s (rd s R.cluStatDirectorId) 0x07 (toBe 2 sv ++ [0, 0])

/-- A removal sweep of a service's backend is scheduled (R183). -/
def scheduleRemoval (s : State) (sv b : Nat) : State :=
  let l := s.flo.removal
  if l.any (fun w => w.service == sv && w.backend == b) then s
  else { s with flo := { s.flo with removal := l ++ [⟨sv, b, uptime s, [0, 0, 0, 0], false⟩] } }

/-- A Crew copies one backend entry of an SVC message; BOUND stays its own. -/
def copyBackend (s : State) (sv i e : Nat) : State :=
  let old := bkEnt s sv i
  let s := if bkV6 e && (bkState e == 1 || bkState e == 2) then putRw s (bkRw e) (bkAddress e) else s
  let s := putBk s sv i (putBits e 224 32 (bkBound old))
  if bkState e = 3 ∧ bkState old ≠ 3 then scheduleRemoval s sv i else s

/-- A Crew applies an SVC message, or asks for the service (R377). A copy that has missed a message is whole again
once every slot of its ring has followed such a message in turn. -/
def applySvc (s : State) (b : List Byte) : State :=
  let sv := fieldBe b 0 2
  let v := fieldBe b 4 4
  let lost := s.clu.missed.contains sv
  if v = (ringVer s sv + 1) % 2 ^ 32 ∨ lost then
    let s := if lost then { s with clu := { s.clu with resync := mset s.clu.resync sv 0 } } else s
    let s := setRingVer (svcPut s (svcHome sv) (svcAddr s sv) 32 (fieldLe b 8 32)) sv v
    (List.range (min 27 (fieldBe b 0x28 1))).foldl (fun s k =>
      let o := 0x2C + 36 * k
      copyBackend s sv (fieldBe b o 2 % 4096) (fieldLe b (o + 4) 32)) s
  else askResync s sv

/-- A Crew applies a RING message, or asks for the service (R377, R179). -/
def applyRing (s : State) (b : List Byte) : State :=
  let sv := fieldBe b 0 2
  let first := fieldBe b 2 2
  let n := first + min 500 (fieldBe b 8 2)
  let lost := s.clu.missed.contains sv
  if fieldBe b 4 4 = ringVer s sv ∧ (!lost ∨ mget s.clu.resync sv = some first) then
    let c := s.clu
    let s := if !lost then s
      else if n < 65536 then { s with clu := { c with resync := mset c.resync sv n } }
      else { s with clu := { c with resync := mdel c.resync sv, missed := c.missed.filter (· != sv) } }
    (List.range (min 500 (fieldBe b 8 2))).foldl (fun s k =>
      if first + k < 65536 then svcPut s (svcHome sv) (ringBase s sv + 2 * (first + k)) 2 (fieldBe b (0x0C + 2 * k) 2)
      else s) s
  else askResync s sv

/-! ### Leases (R378) -/

/-- Write LEASED of the address entries of a pool in a range of rewrite-array indices. -/
def setLeased (s : State) (pool first n : Nat) (on : Bool) : State :=
  let p := poolEnt s pool
  (upFrom (poolFirst p) (poolCount p)).foldl (fun s a =>
    let e := addrEnt s a
    if first ≤ a ∧ a < first + n ∧ bit e 140 ∧ bits e 128 12 = pool then putAddr s a (putBits e 141 1 (b2n on)) else s) s

/-- An address of a pool is leased to this device: always without a cluster, else by a lease it holds (R191). -/
def leasedNow (s : State) (pool a : Nat) : Bool :=
  rd s R.cluStatRole == 0 ||
    s.clu.held.any (fun h => h.pool == pool && decide (h.first ≤ a) && decide (a < h.first + h.count) &&
      decide (uptime s < h.expiry))

/-- The holder takes a LEASE: its expiry; REMAIN_MS 0 revokes at once. -/
def takeLease (s : State) (pool first n ms : Nat) : State :=
  let rest := s.clu.held.filter (fun h => !(h.pool == pool && h.first == first && h.count == n))
  if ms = 0 then
    -- a revocation ends every held lease on the range, so the pieces outside it are kept
    let cut := s.clu.held.flatMap (fun h =>
      if h.pool ≠ pool ∨ first + n ≤ h.first ∨ h.first + h.count ≤ first then [h]
      else (if h.first < first then [{ h with count := first - h.first }] else []) ++
        (if first + n < h.first + h.count then [{ h with first := first + n, count := h.first + h.count - (first + n) }] else []))
    setLeased { s with clu := { s.clu with held := cut } } pool first n false
  else
    setLeased { s with clu := { s.clu with held := rest ++ [⟨pool, first, n, uptime s + ms * 10 ^ 6⟩] } } pool first n true

/-- The lease's device may be granted it now: no lease of an earlier instance has time left, and REUSE_S has
passed since the earlier instance was last heard. -/
def mayGrant (s : State) (d : Nat) : Bool :=
  if d = deviceId s then true
  else
    let x := peerOf s d
    let boot := x.hbBoot.getD 0
    peerLive s d &&
      !(s.clu.leases.any (fun l => l.device == d && l.boot != boot && decide (uptime s < l.until_))) &&
      (match x.prevHeard with
        | some t => decide (t + rd s R.cluCfgReuseS * 10 ^ 9 ≤ uptime s)
        | none => true)

/-- The payloads of LEASE and LEASE_SYNC. -/
def leaseBytes (pool first n ms : Nat) : List Byte := toBe 2 pool ++ [0, 0] ++ toBe 4 first ++ toBe 4 n ++ toBe 4 ms
def leaseSyncBytes (l : LeaseS) : List Byte :=
  toBe 2 l.pool ++ [0, 0] ++ toBe 4 l.first ++ toBe 4 l.count ++ toBe 1 l.device ++ [0, 0, 0] ++ toBe 4 l.boot ++ toBe 8 l.dirMs

/-- Record a lease, in place of the one on the same range of the same instance. -/
def recordLease (s : State) (l : LeaseS) : State :=
  let rest := s.clu.leases.filter (fun x => decide (uptime s < x.until_) &&
    !(x.pool == l.pool && x.first == l.first && x.count == l.count && x.device == l.device && x.boot == l.boot))
  { s with clu := { s.clu with leases := rest ++ [l] } }

/-- The acting Director sends one LEASE, counts it, and tells the deputy. -/
def sendLease (s : State) (d pool first n ms : Nat) : State :=
  let own := d = deviceId s
  let boot := if own then rd s R.timBootBoot else (peerOf s d).hbBoot.getD 0
  let t := uptime s + ms * 10 ^ 6 + 10 ^ 9
  let l : LeaseS := ⟨pool, first, n, d, boot, t, t / 10 ^ 6⟩
  let s := recordLease s l
  let s := if own then takeLease s pool first n ms else sendTo s d 0x08 (leaseBytes pool first n ms)
  let dep := rd s R.cluStatDeputyId
  if dep = deviceId s then s else sendTo s dep 0x09 (leaseSyncBytes l)

/-- The grants outside a range of a pool, and the pieces of the old ones inside it. -/
def cutGrants (l : List GrantS) (pool first n : Nat) : List GrantS × List GrantS :=
  (l.flatMap (fun g =>
    if g.pool ≠ pool ∨ first + n ≤ g.first ∨ g.first + g.count ≤ first then [g]
    else (if g.first < first then [{ g with count := first - g.first }] else []) ++
      (if first + n < g.first + g.count then [{ g with first := first + n, count := g.first + g.count - (first + n) }] else [])),
   (l.filter (fun g => g.pool == pool && decide (g.first < first + n) && decide (first < g.first + g.count))).map (fun g =>
      { g with first := max first g.first, count := min (first + n) (g.first + g.count) - max first g.first }))

/-- The devices of a mask. -/
def maskDevices (m : Nat) : List Nat := (List.range 64).filter (bit m)

/-- Send the leases of a grant to its live holders. -/
def renewGrant (s : State) (g : GrantS) : State :=
  (maskDevices g.mask).foldl (fun s d => if mayGrant s d then sendLease s d g.pool g.first g.count 10000 else s) s

/-! ### Cluster commits (R382, R383) -/

/-- The status a 16-bit STATUS stands for; a number that is no status code counts as ABORTED. -/
def statusOf (n : Nat) : Status :=
  ([.ok, .invalid, .busy, .noRoom, .refusedMode, .refusedUnauthenticated, .versionConflict, .timeNotValid,
    .keyErased, .incomplete].find? (fun c => (Config.statusCode c).toNat == n)).getD .aborted

/-- STATUS as a message carries it. -/
def statusBytes (c : Status) : List Byte := toBe 2 (Config.statusCode c).toNat

/-- The answer CLU_COMMIT owes becomes due. -/
def commitAnswer (s : State) (c : CommitS) (st : Status) : State :=
  let s := wrStat s R.cluCommitStatStatus st
  if 32 ≤ c.mbx ∧ c.mbx < 64 then lateAnswer s c.mbx c.head c.key st [] else s

/-- Send GO to the Crew that have not acknowledged it. -/
def sendGo (s : State) (c : CommitS) : State :=
  (c.crew.filter (fun i => !c.acked.contains i)).foldl (fun s i => sendTo s i 0x0C (toBe 4 c.id)) s

/-- The acting Director decides: GO if every vote is OK, else ABORT (R382). -/
def decideCommit (s : State) (c : CommitS) : State :=
  let ok := c.crew.all (fun i => c.votes.any (fun v => v.1 == i)) && c.votes.all (fun v => v.2 == .ok)
  if ok then
    let c := { c with go := true }
    let s := sendGo (wr { s with clu := { s.clu with commit := some c } } R.cluCommitStatPhase 3) c
    commitAnswer s c .ok
  else
    let st := ((c.votes.find? (fun v => v.2 != .ok)).map (·.2)).getD .aborted
    let s := sendAll (cancelTimed { s with clu := { s.clu with commit := none } }) 0x0E (toBe 4 c.id)
    commitAnswer (wr s R.cluCommitStatPhase 5) c st

/-- Every Crew of the commit has voted. -/
def allVoted (c : CommitS) : Bool := c.crew.all (fun i => c.votes.any (fun v => v.1 == i))

/-- The counter is at or past `tAct` less `us` microseconds. -/
def pastLead (s : State) (tAct us : Nat) : Bool := atOrAfter (nowNs s) ((tAct + 2 ^ 32 - us * 1000) % 2 ^ 32)

/-- A Crew's pending cluster commit with this id is in phase `ph`. -/
def crewCommit (s : State) (id ph : Nat) : Bool :=
  s.take.cluster && rd s R.cluCommitStatCommitId == id && rd s R.cluCommitStatPhase == ph

end Sys2Proof.Machine
end

