-- ==== Sys2Proof/Machine/EngOps.lean ====
section
/-!
DEFINITION. Shared operations of the flow engines (chapter 8): groups and tasks, admission and ordered release,
cancellation and abandonment, contexts, traps, and the drain of a group.
-/

namespace Sys2Proof.Machine

open Sys2Proof

/-! ### Groups -/

/-- A group's number, and its quadrant and index. -/
def grpOf (q k : Nat) : Nat := 8 * q + k
def grpQuad (g : Nat) : Nat := g / 8
def grpIdx (g : Nat) : Nat := g % 8

/-- The control store a group holds (R220). -/
def grpStore (s : State) (g : Nat) : StoreS :=
  (mget s.eng.store g).getD ⟨[], 0, 0, 0, 0, [], [], false⟩

/-- STATE of a group. -/
def grpState (s : State) (g : Nat) : Nat := rd s (R.engGrpStatState (grpQuad g) (grpIdx g))
def setGrpState (s : State) (g v : Nat) : State := wr s (R.engGrpStatState (grpQuad g) (grpIdx g)) v

/-- Advance ENG_CNT[k][j] of a group, and TSK_CNT[j] of a quadrant. -/
def engCount (s : State) (g j : Nat) : State := bump s (R.engCntCount (grpQuad g) (grpIdx g) j)
def tskCount (s : State) (q j : Nat) : State := bump s (R.tskCntCount q j)

/-- The tasks queued at a level of a group, oldest first. -/
def levelTasks (s : State) (g l : Nat) : List Nat := mgetD s.eng.queues (8 * g + l) []

/-- The tasks queued in a group, in dispatch order. -/
def grpTasks (s : State) (g : Nat) : List Nat := (List.range 8).flatMap (levelTasks s g)

/-- A task is a setup. -/
def isSetup (s : State) (i : Nat) : Bool := ((mget s.eng.tasks i).map (fun t => t.kind == 0 && t.flag.isNone)).getD false

/-- Queued tasks of kinds 1–4, and queued setups (TSK_DISP_STAT). -/
def grpQueued (s : State) (g : Nat) : Nat :=
  ((grpTasks s g ++ mgetD s.eng.affWait g []).filter (fun i => !isSetup s i)).length
def grpSetups (s : State) (g : Nat) : Nat :=
  ((grpTasks s g ++ mgetD s.eng.affWait g []).filter (fun i => isSetup s i)).length

/-- A queued task fits (R227): 1,024 of kinds 1–4; setups always. -/
def grpRoom (s : State) (g : Nat) (t : TaskS) : Bool := t.kind == 0 || decide (grpQueued s g < 1024)

/-- The group a task goes to (R223). -/
def routeGroup (s : State) (t : TaskS) : Option Nat :=
  match servingGroups s t.quad t.cls with
  | [] => none
  | k :: ks =>
    let l := k :: ks
    if t.ordered then some (grpOf t.quad (l.getD (t.domain % l.length) k))
    else
      let n := fun k => (grpTasks s (grpOf t.quad k)).length
      some (grpOf t.quad (ks.foldl (fun b x => if n x < n b then x else b) k))

/-! ### Tasks -/

/-- Change a task. -/
def updTask (s : State) (i : Nat) (f : TaskS → TaskS) : State :=
  { s with eng := { s.eng with tasks := mmod s.eng.tasks i f } }

/-- Forget a task. -/
def delTask (s : State) (i : Nat) : State := { s with eng := { s.eng with tasks := mdel s.eng.tasks i } }

/-- Queue a task at its level of a group. -/
def queueTask (s : State) (i g : Nat) (t : TaskS) : State :=
  let k := 8 * g + t.prio
  updTask { s with eng := { s.eng with queues := mset s.eng.queues k (mgetD s.eng.queues k [] ++ [i]) } } i
    (fun t => { t with group := g })

/-- A task leaves every queue it waits in. -/
def unqueueTask (s : State) (i : Nat) : State :=
  let drop := fun (m : NMap (List Nat)) => (m.map (fun e => (e.1, e.2.filter (· != i)))).filter (fun e => !e.2.isEmpty)
  { s with eng := { s.eng with
      queues := drop s.eng.queues, side := drop s.eng.side, inq := drop s.eng.inq, affWait := drop s.eng.affWait } }

/-! ### Ordering domains (R231, R232) -/

/-- Key of a domain, its NEXT and HEAD, and the key of a slot. -/
def domKey (q d : Nat) : Nat := q * 65536 + d
def domOf (s : State) (q d : Nat) : Nat × Nat := mgetD s.eng.doms (domKey q d) (0, 0)
def relKey (q d n : Nat) : Nat := domKey q d * 65536 + n
def domOut (s : State) (q d : Nat) : Nat := ((domOf s q d).1 + 65536 - (domOf s q d).2) % 65536

/-- An ordered task takes the next sequence of its domain and is queued. -/
def takeSeq (s : State) (i g : Nat) (t : TaskS) : State :=
  let p := domOf s t.quad t.domain
  let s := { s with eng := { s.eng with
    doms := mset s.eng.doms (domKey t.quad t.domain) ((p.1 + 1) % 65536, p.2)
    rel := mset s.eng.rel (relKey t.quad t.domain p.1) RelS.pending } }
  queueTask (updTask s i (fun t => { t with seq := p.1, admitted := true })) i g t

/-- Append a record that microcode exports; 105 bytes are an IPv6 data record (R200, R216). -/
def exportBytes (s : State) (q : Nat) (b : List Byte) : State := pushExport s q (b.length == 105) b

/-- Emit a message of a task (R216). -/
def emitMsg (q : Nat) (s : State) (m : BufMsg) : State :=
  match m with
  | .event p => postEvent s 4 q false p none
  | .inject p b => injectFrame s q p b
  | .ipfix b => exportBytes s q b

/-- A released setup outcome is applied (R162, R189, R201, R234). -/
def applySetup (s : State) (i : Nat) (t : TaskS) (out : Nat) : State :=
  let made := out % 4 == 0 && (t.placed.bind (findSlot s t.quad)).isSome
  if made then
    let s := { s with flo := { s.flo with tentative := s.flo.tentative.filter (fun e => e.task != i) } }
    let s := setupOutcome s t out
    if rdB s R.fltTelCfgExportSetup then
      match t.placed.bind (recordNow s t.quad) with
      | some r => exportFlow s t.quad r 2
      | none => s
    else s
  else
    let s := match t.placed with
      | some k => unplace s t.quad k
      | none => s
    setupOutcome s t out

/-- A DONE task is released: its outcome and its messages take effect in order. -/
def releaseDone (s : State) (i out : Nat) : State :=
  match mget s.eng.tasks i with
  | some t =>
    let s := tskCount (delTask s i) t.quad 0
    let s := if t.kind = 0 then applySetup s i t out else s
    t.msgs.foldl (emitMsg t.quad) s
  | none => s

/-- HEAD of a domain advances; a task of the domain held in the side queue is admitted. -/
def advanceHead (s : State) (q d : Nat) : State :=
  let p := domOf s q d
  let s := { s with eng := { s.eng with
    rel := mdel s.eng.rel (relKey q d p.2), doms := mset s.eng.doms (domKey q d) (p.1, (p.2 + 1) % 65536) } }
  match (mgetD s.eng.side q []).find? (fun i => ((mget s.eng.tasks i).map (fun t => t.domain == d)).getD false) with
  | some i =>
    match mget s.eng.tasks i with
    | some t =>
      match routeGroup s t with
      | some g => takeSeq (unqueueTask s i) i g t
      | none => s
    | none => s
  | none => s

/-- The release unit advances while the head slot is DONE or VOID. -/
def relAdvance : Nat → State → Nat → Nat → State
  | 0, s, _, _ => s
  | n + 1, s, q, d =>
    match mget s.eng.rel (relKey q d (domOf s q d).2) with
    | some (.done i out) => relAdvance n (advanceHead (releaseDone s i out) q d) q d
    | some .void => relAdvance n (advanceHead (tskCount s q 1) q d) q d
    | _ => s

/-- Fill the slot of an admitted ordered task (R232). -/
def relFill (s : State) (t : TaskS) (r : RelS) : State :=
  if t.ordered && t.admitted then
    let k := relKey t.quad t.domain t.seq
    if mget s.eng.rel k = some .pending then
      relAdvance 1025 { s with eng := { s.eng with rel := mset s.eng.rel k r } } t.quad t.domain
    else s
  else s

/-! ### Cancellation and abandonment (R163, R233, R234) -/

/-- A setup is abandoned: its held packets take the default action now, and what it placed is taken back. -/
def abandonHold (s : State) (t : TaskS) : State :=
  if t.kind = 0 ∧ t.flag = none then
    let s := bump s (R.fltCntCount t.quad 8)
    let s := match t.placed with
      | some k => unplace s t.quad k
      | none => s
    match t.line with
    | some l => endDefault s l 0x0A
    | none => s
  else s

/-- A task that has not been dispatched is cancelled: it is never dispatched, and its slot is a VOID. -/
def cancelQueued (s : State) (i : Nat) : State :=
  match mget s.eng.tasks i with
  | some t =>
    let s := tskCount (delTask (unqueueTask s i) i) t.quad 2
    relFill (abandonHold s t) t .void
  | none => s

/-- Change a context. -/
def updCtx (s : State) (c : Nat) (f : CtxS → CtxS) : State :=
  { s with eng := { s.eng with ctxs := mmod s.eng.ctxs c f } }

/-- Free a context; ENG_INT.GO of it reads 0 again. -/
def freeCtx (s : State) (c : Nat) : State :=
  let g := c / 64
  let s := { s with eng := { s.eng with ctxs := mdel s.eng.ctxs c } }
  if rd s (R.engIntCtx (grpQuad g) (grpIdx g)) = c % 64 then wr s (R.engIntGo (grpQuad g) (grpIdx g)) 0 else s

/-- The task of a context. -/
def ctxTask (s : State) (c : Nat) : Option (CtxS × TaskS) :=
  (mget s.eng.ctxs c).bind (fun x => (mget s.eng.tasks x.task).map (fun t => (x, t)))

/-- A context ends its task as a VOID: a setup not yet abandoned is abandoned. -/
def voidCtx (s : State) (c : Nat) : State :=
  match ctxTask s c with
  | some (x, t) =>
    let s := delTask (freeCtx s c) x.task
    relFill (if t.abandoned then s else abandonHold s t) t .void
  | none => s

/-- A context is killed (R230, R233, R235). -/
def killCtx (s : State) (c : Nat) : State :=
  if (mget s.eng.ctxs c).isSome then engCount (voidCtx s c) (c / 64) 5 else s

/-- Contexts of a group that run a task. -/
def grpCtxs (s : State) (g : Nat) : List Nat := (s.eng.ctxs.map (·.1)).filter (fun c => c / 64 == g)

/-! ### Line buffers, scratch and traps (R205, R217, R218) -/

/-- A context's line buffer. -/
def lbRead (s : State) (c o n : Nat) : List Byte := memRead s.eng.lb (512 * c + o) n
def lbWrite (s : State) (c o : Nat) (b : List Byte) : State :=
  { s with eng := { s.eng with lb := memWrite s.eng.lb (512 * c + o) b } }

/-- A group's scratch. -/
def scRead (s : State) (g o n : Nat) : List Byte := memRead s.eng.scratch (65536 * g + o) n
def scWrite (s : State) (g o : Nat) (b : List Byte) : State :=
  { s with eng := { s.eng with scratch := memWrite s.eng.scratch (65536 * g + o) b } }

/-- Scratch offset of a context's trap frame. -/
def trapOff (c : Nat) : Nat := 0xE000 + 128 * (c % 64)

/-- The trap frame of a context (R218). -/
def trapFrame (x : CtxS) (resume cause code addr : Nat) : List Byte :=
  toLe 2 (resume % 16384) ++
  toLe 1 (b2n x.v + 2 * b2n x.c + 4 * b2n x.n + 8 * b2n x.z + 16 + 32 * b2n x.merr + 64 * b2n x.timeout) ++
  toLe 1 x.stack.length ++ toLe 1 cause ++ toLe 1 code ++ toLe 2 (addr % 16384) ++
  ((List.range 8).map (fun i => toLe 2 (x.stack.getD i 0))).flatten ++ List.replicate 40 0 ++
  ((List.range 8).map (fun i => toLe 8 (x.w.getD i 0))).flatten

/-- A micro-trap is entered: the micro-state goes to the trap frame and the vector starts (R217). -/
def enterTrap (s : State) (c cause code addr : Nat) : State :=
  match mget s.eng.ctxs c with
  | some x =>
    let g := c / 64
    let st := grpStore s g
    let s := scWrite s g (trapOff c) (trapFrame x addr cause code addr)
    let s := if cause = 0x10 then wr s (R.engIntGo (grpQuad g) (grpIdx g)) 0 else s
    let s := if cause < 0x10 then s else engCount s g 3
    updCtx s c (fun x => { x with
      pc := if cause < 0x10 then st.faultVec else st.intVec
      w := [cause, addr, trapOff c] ++ x.w.drop 3
      stack := [], waiting := .no, inTrap := true, trapWait := none })
  | none => s

/-- A trap waits for MDONE before it is entered (R217). -/
def trapNow (s : State) (c cause code addr : Nat) : State :=
  match mget s.eng.ctxs c with
  | some x =>
    if x.mem.isSome then updCtx s c (fun x => { x with trapWait := some (cause, code, addr), waiting := .no })
    else enterTrap s c cause code addr
  | none => s

/-- A fault at the word a context stands at: a trap, or a double fault inside a trap routine (R217, R219). -/
def faultCtx (s : State) (c cause : Nat) : State :=
  match mget s.eng.ctxs c with
  | some x =>
    let s := engCount s (c / 64) 2
    if x.inTrap then voidCtx (engCount s (c / 64) 4) c else trapNow s c cause 0 x.pc
  | none => s

/-- The microword at an address: three 64-bit words as one number; above WORD_COUNT it is zero (R206, R220). -/
def wordAt (s : State) (g a : Nat) : Nat := mgetD (grpStore s g).words (a % 16384) 0
def mwTrapEn (w : Nat) : Bool := bit w 56

/-- The oldest pending interrupt of a context is taken. -/
def takeIntr (s : State) (c : Nat) : State :=
  match mget s.eng.ctxs c with
  | some x =>
    match x.intr with
    | [] => s
    | (cause, code) :: rest =>
      if x.inTrap || x.trapWait.isSome then s
      else trapNow (updCtx s c (fun x => { x with intr := rest })) c cause code x.pc
  | none => s

/-- A context is suspended in a wait. -/
def suspended (x : CtxS) : Bool := x.waiting != .no && x.waiting != .over

/-- An interrupt becomes pending on a context; one suspended on a TRAP_EN word takes it at once (R217). -/
def raiseIntr (s : State) (c cause code : Nat) : State :=
  match mget s.eng.ctxs c with
  | some x =>
    let s := if x.intr.any (fun e => e.1 == cause) then s
      else updCtx s c (fun x => { x with intr := x.intr ++ [(cause, code)] })
    if suspended x && mwTrapEn (wordAt s (c / 64) x.pc) then takeIntr s c else s
  | none => s

/-- A running task is cancelled: CANCEL is set and cause 0x11 raised (R233). -/
def cancelRunning (s : State) (i c : Nat) : State :=
  raiseIntr (updTask s i (fun t => { t with cancel := true })) c 0x11 0

/-- A setup whose task runs is abandoned: its slot is a VOID at once (R234). -/
def abandonRunning (s : State) (i c : Nat) : State :=
  match mget s.eng.tasks i with
  | some t =>
    let s := updTask s i (fun t => { t with abandoned := true, line := none, placed := none })
    let s := cancelRunning (abandonHold s t) i c
    relFill s t .void
  | none => s

/-- Cancel a task wherever it stands (R233). -/
def cancelTask (s : State) (i : Nat) : State :=
  match mget s.eng.tasks i with
  | some t =>
    match t.ctx with
    | some c => if t.kind = 0 ∧ t.flag = none then
        (if t.abandoned then s else abandonRunning s i c) else cancelRunning s i c
    | none => cancelQueued s i
  | none => s

/-! ### Dispatch (R205, R228) -/

/-- The engine with the lowest number that has a free context, and that context. -/
def freeContext (s : State) (g : Nat) : Option Nat :=
  (upFrom (64 * g) 64).find? (fun c => (mget s.eng.ctxs c).isNone)

/-- A free context of engine `e` of a group. -/
def freeOnEngine (s : State) (g e : Nat) : Option Nat :=
  (upFrom (64 * g + 4 * e) 4).find? (fun c => (mget s.eng.ctxs c).isNone)

/-- The engine that last ran a domain of a group. -/
def lastEngine (s : State) (g : Nat) (t : TaskS) : Option Nat :=
  if t.ordered then mget s.eng.affinity (65536 * g + t.domain) else none

/-- A task starts on a context: W0–W2 are its arguments and everything else is cleared (R205). -/
def startTask (s : State) (i c : Nat) (t : TaskS) : State :=
  let g := c / 64
  let x : CtxS := ⟨i, t.entry % 16384, slice3 t.args ++ List.replicate 5 0, false, false, false, false, [], false, false,
    none, .no, [], false, none, none, false, none⟩
  let s := { s with eng := { s.eng with ctxs := mset s.eng.ctxs c x } }
  let s := if t.ordered then
      { s with eng := { s.eng with affinity := mset s.eng.affinity (65536 * g + t.domain) (c % 64 / 4) } } else s
  engCount (updTask s i (fun t => { t with ctx := some c })) g 0
where
  slice3 (l : List Nat) : List Nat := [l.getD 0 0, l.getD 1 0, l.getD 2 0]

/-! ### Moving and draining a group (R222, R235, R237) -/

/-- Queued tasks of a group move to siblings with their SEQ, or are cancelled where there is none. -/
def moveTasks (s : State) (g : Nat) : State :=
  let l := grpTasks s g ++ mgetD s.eng.affWait g []
  let s := l.foldl (fun s i =>
    match mget s.eng.tasks i with
    | some t =>
      match routeGroup s t with
      | some h => queueTask (unqueueTask s i) i h t
      | none => cancelQueued s i
    | none => unqueueTask s i) s
  { s with eng := { s.eng with affinity := s.eng.affinity.filter (fun e => e.1 / 65536 != g) } }

/-- A sibling: another serving group of the same class in the quadrant. -/
def hasSibling (s : State) (g : Nat) : Bool :=
  (servingGroups s (grpQuad g) (rd s (R.engUcodeVerClass (grpQuad g) (grpIdx g)))).any (· != grpIdx g)

/-- A drain starts (R235). -/
def startDrain (s : State) (g : Nat) : State :=
  let s := moveTasks (setGrpState s g 2) g
  (grpCtxs s g).foldl (fun s c => raiseIntr s c 0x12 0) s

/-- The drain ends: contexts still running are killed and STATE is 3. -/
def endDrain (s : State) (g : Nat) : State :=
  let s := setGrpState ((grpCtxs s g).foldl killCtx s) g 3
  wr s (R.engGrpCtlDrain (grpQuad g) (grpIdx g)) 0

/-- The journal record of an engine failure (R222, R428, R434); the spec numbers no cause. -/
def engJournal (s : State) (g : Nat) : State :=
  let x := freeVal s 16
  journal x.2 0x0053 3 (unitOf (grpQuad g) (grpIdx g)) (.num 0) x.1 0

/-- The group fails (R222): contexts stop, tasks end as VOIDs, queued tasks move, and code 9 is raised. -/
def failGroup (s : State) (g : Nat) : State :=
  let s := setGrpState s g 5
  let s := (grpCtxs s g).foldl voidCtx s
  let s := moveTasks s g
  let s := engJournal s g
  raiseFault s 9 (unitOf (grpQuad g) (grpIdx g)) 0

end Sys2Proof.Machine
end

