-- ==== Sys2Proof/Machine/MicroOps.lean ====
section
/-!
DEFINITION. The microword (R206–R216): its fields, the ALU, conditions, memory and message operations, the next
address, and the order in which a word executes (R210).
-/

namespace Sys2Proof.Machine

open Sys2Proof

/-! ### Fields of a word (R206, R207) -/

def mwNext (w : Nat) : Nat := bits w 0 3
def mwTarget (w : Nat) : Nat := bits w 3 14
def mwCond (w : Nat) : Nat := bits w 17 6
def mwWait (w : Nat) : Bool := bit w 24
def mwWaitCond (w : Nat) : Nat := bits w 25 6
def mwTimeout (w : Nat) : Nat := bits w 32 24
def mwAluA (w : Nat) : Nat := bits w 64 32
def mwAluB (w : Nat) : Nat := bits w 96 32
def mwMem (w : Nat) : Nat := bits w 128 3
def mwSpace (w : Nat) : Nat := bits w 131 3
def mwLen (w : Nat) : Nat := bits w 134 4
def mwLbOff (w : Nat) : Nat := bits w 138 3
def mwAddrReg (w : Nat) : Nat := bits w 141 3
def mwDataReg (w : Nat) : Nat := bits w 144 3
def mwHint (w : Nat) : Nat := bits w 147 2
def mwMsg (w : Nat) : Nat := bits w 152 3
def mwMsgReg (w : Nat) : Nat := bits w 155 3
def mwMsgLb (w : Nat) : Nat := bits w 158 3

/-- A working register. -/
def reg (x : CtxS) (i : Nat) : Nat := x.w.getD i 0

/-! ### The ALU (R207, R208) -/

/-- A result with its flags C and V; none for an operation that writes and sets nothing. -/
structure AluAns where
  val : Nat
  c : Bool
  v : Bool
  n : Bool

/-- A result whose C and V are 0. -/
def plain (v : Nat) : AluAns := ⟨v % 2 ^ 64, false, false, bit v 63⟩

/-- Sum and difference of `k`-bit values with carry and signed overflow. -/
def addFlags (a b : Nat) : AluAns :=
  let r := (a + b) % 2 ^ 64
  ⟨r, decide (2 ^ 64 ≤ a + b), bit a 63 == bit b 63 && bit r 63 != bit a 63, bit r 63⟩
def subFlags (k a b : Nat) : AluAns :=
  let a := a % 2 ^ k
  let b := b % 2 ^ k
  let r := (a + 2 ^ k - b) % 2 ^ k
  ⟨r, decide (a < b) == Config.subBorrow, bit a (k - 1) != bit b (k - 1) && bit r (k - 1) != bit a (k - 1), bit r (k - 1)⟩

/-- The index of the lowest 1 bit of a 64-bit value; 64 for 0. -/
def lowestBit (a : Nat) : Nat := ((List.range 64).find? (bit a)).getD 64

/-- The operation of an opcode on A, B and the old destination. -/
def aluOp (op : Nat) (a b d imm sb : Nat) (z : Bool) (tick ns : Nat) : AluAns :=
  let p := bits imm 0 6
  let w := bits imm 7 6
  match op with
  | 1 => addFlags a b
  | 2 | 13 => subFlags 64 a b
  | 3 => plain (a &&& b)
  | 4 => plain (a ||| b)
  | 5 => plain (a ^^^ b)
  | 6 => plain (a * 2 ^ (b % 64) % 2 ^ 64)
  | 7 => plain (a / 2 ^ (b % 64))
  | 8 => plain (ibits 64 (sbits 64 a / (2 ^ (b % 64) : Nat)))
  | 9 => plain b
  | 10 => plain (putBits d (16 * (sb % 4)) 16 imm)
  | 11 => plain (bits a p w)
  | 12 => plain (putBits d p w a % 2 ^ 64)
  | 14 => plain (min a b)
  | 15 => plain (max a b)
  | 16 => plain (crc32c (a % 2 ^ 32) (toLe 8 b))
  | 17 => plain (popcount 64 a)
  | 18 => plain (lowestBit a)
  | 19 => subFlags 32 a b
  | 20 => plain (a % 2 ^ 16 * (b % 2 ^ 16))
  | 21 => plain (a % 2 ^ 32 * (b % 2 ^ 32) / 2 ^ 32)
  | 22 => plain (if z then b else a)
  | 23 => plain (if bit imm 0 then ns else tick)
  | _ => plain 0

/-- One ALU operation of a word: operands from `x0`, effects on `x` (R207, R210 step 3). -/
def aluStep (tick ns : Nat) (x0 x : CtxS) (o : Nat) : CtxS :=
  let op := bits o 0 5
  let imm := bits o 16 16
  let b := if bit o 14 then imm else reg x0 (bits o 11 3)
  let r := aluOp op (reg x0 (bits o 8 3)) b (reg x0 (bits o 5 3)) imm (bits o 11 3) x0.z tick ns
  if op = 0 then x
  else
    let x := if op = 13 then x else { x with w := x.w.set (bits o 5 3) r.val }
    if bit o 15 || op == 13 then { x with z := r.val == 0, n := r.n, c := r.c, v := r.v } else x

/-! ### Conditions (R209) -/

/-- The flag word of a flag task in flags mode; 0 otherwise. -/
def flagWord (s : State) (g : Nat) (t : TaskS) : Nat :=
  match t.flag with
  | some i => if dispMode s = 2 then rd s (R.tskFlagFlags (grpQuad g) (grpIdx g) i) else 0
  | none => 0

/-- Condition `code`; `free` is whether the message path accepts a message this cycle. -/
def condHolds (s : State) (g : Nat) (x : CtxS) (t : TaskS) (free : Bool) (code : Nat) : Bool :=
  match code with
  | 0 => true
  | 1 => x.z | 2 => !x.z | 3 => x.n | 4 => !x.n | 5 => x.c | 6 => !x.c | 7 => x.v | 8 => !x.v
  | 9 => x.mem.isNone
  | 10 => x.merr
  | 11 => x.timeout
  | 12 => t.cancel || grpState s g == 2
  | 13 => free
  | 14 => decide (640 ≤ byteNow s (grpQuad g))
  | n => decide (16 ≤ n) && bit (flagWord s g t) (n - 16)

/-- A condition now; MSG_FREE takes a free value. -/
def condNow (s : State) (g : Nat) (x : CtxS) (t : TaskS) (code : Nat) : Bool × State :=
  if code = 13 then
    let f := freeVal s 1
    (f.1 == 1, f.2)
  else (condHolds s g x t false code, s)

/-! ### Memory operations (R213–R215) -/

/-- A word's operation is asynchronous (R214); one that moves nothing is done at once. -/
def asyncOp (w : Nat) : Bool :=
  let m := mwMem w
  let sp := mwSpace w
  (m == 1 || m == 2 || m == 3 || m == 4) && (sp == 1 || sp == 2 || sp == 5) &&
    !(sp != 1 && decide (m ≤ 2) && mwLen w == 0)

/-- Bytes a space holds, as seen from a quadrant and a task. -/
def spaceSize (s : State) (q : Nat) (t : TaskS) (sp addr : Nat) : Nat :=
  match sp with
  | 0 => t.payload.length
  | 2 => hbmU s q
  | 3 => fieldLe (sec s 2 0) (0x0A + 8 * q) 1 * 2 ^ 24
  | 4 => 65536
  | 5 => if addr < 2 ^ 38 then addr / 2 ^ 36 * 2 ^ 36 + hbmU s (addr / 2 ^ 36) else 0
  | _ => 0

/-- A granule range holds a byte of a safety-scope table. -/
def scopeHit (q a n : Nat) : Bool := (upFrom a n).any (Config.safetyScope q)

/-- The fault of a word's memory operation, if any (R214, R215). -/
def memFault (s : State) (c : Nat) (x : CtxS) (t : TaskS) (w : Nat) : Option Nat :=
  let q := grpQuad (c / 64)
  let a := reg x (mwAddrReg w)
  let sp := mwSpace w
  let size := spaceSize s q t sp a
  match mwMem w with
  | 1 =>
    if 8 < mwLbOff w + mwLen w then some 3
    else if sp = 1 then (if 6 ≤ bits a 0 4 then some 4 else none)
    else if mwLen w = 0 then none
    else if a % 64 ≠ 0 ∨ size < a + 64 * mwLen w then some 4 else none
  | 2 =>
    if 8 < mwLbOff w + mwLen w then some 3
    else if sp = 1 then (if 6 ≤ bits a 0 4 then some 4 else none)
    else if sp = 0 then some 5
    else if mwLen w = 0 then none
    else if a % 64 ≠ 0 ∨ size < a + 64 * mwLen w then some 4
    else if sp = 3 ∧ scopeHit q a (64 * mwLen w) then some 5 else none
  | 3 | 4 =>
    if sp = 1 then (if 6 ≤ bits a 0 4 then some 4 else none)
    else if sp = 0 then some 5
    else if a % 8 ≠ 0 ∨ size < a + 8 then some 4
    else if sp = 3 ∧ scopeHit q a 8 then some 5 else none
  | 5 | 6 => if a % 8 ≠ 0 then some 4 else none
  | _ => none

/-- Table-store bytes: node records, those an engine has written, the others free (log 18). -/
def tsByte (acc : List Byte × State) (k : Nat) : List Byte × State :=
  match nodeAt acc.2 (k / 2 ^ 32) (k % 2 ^ 32), mget acc.2.eng.tstore k with
  | some (b, o), _ => (acc.1 ++ [b.getD o 0], acc.2)
  | none, some b => (acc.1 ++ [b], acc.2)
  | none, none =>
    let x := freeBytes acc.2 1
    (acc.1 ++ x.1, x.2)
def tsRead (s : State) (q a n : Nat) : List Byte × State := (upFrom (q * 2 ^ 32 + a) n).foldl tsByte ([], s)
def tsWrite (s : State) (q a : Nat) (b : List Byte) : State :=
  let m := (b.zipIdx).foldl (fun m e => mset m (q * 2 ^ 32 + a + e.2) e.1) s.eng.tstore
  { s with eng := { s.eng with tstore := m } }

/-- Bytes of a synchronous space (0, 3, 4). -/
def syncRead (s : State) (c : Nat) (t : TaskS) (sp a n : Nat) : List Byte × State :=
  match sp with
  | 0 => (slice t.payload a n, s)
  | 3 => tsRead s (grpQuad (c / 64)) a n
  | _ => (scRead s (c / 64) a n, s)
def syncWrite (s : State) (c sp a : Nat) (b : List Byte) : State :=
  if sp = 3 then tsWrite s (grpQuad (c / 64)) a b else scWrite s (c / 64) a b

/-- Set a working register of a context. -/
def setReg (s : State) (c i v : Nat) : State := updCtx s c (fun x => { x with w := x.w.set i (v % 2 ^ 64) })

/-- A synchronous memory operation completes in its word: `x` holds the registers before the ALU (R214). -/
def syncMem (s : State) (c : Nat) (x : CtxS) (t : TaskS) (w : Nat) : State :=
  let a := reg x (mwAddrReg w)
  let sp := mwSpace w
  match mwMem w with
  | 1 =>
    let r := syncRead s c t sp a (64 * mwLen w)
    updCtx (lbWrite r.2 c (64 * mwLbOff w) r.1) c (fun x => { x with merr := false })
  | 2 => updCtx (syncWrite s c sp a (lbRead s c (64 * mwLbOff w) (64 * mwLen w))) c (fun x => { x with merr := false })
  | 3 =>
    let r := syncRead s c t sp a 8
    let old := leNat r.1
    updCtx (setReg (syncWrite r.2 c sp a (toLe 8 (old + reg x (mwDataReg w)))) c (mwDataReg w) old) c
      (fun x => { x with merr := false })
  | 4 =>
    let r := syncRead s c t sp a 8
    let old := leNat r.1
    let s := if old = reg x (mwDataReg w) then syncWrite r.2 c sp a (toLe 8 (reg x ((mwDataReg w + 1) % 8))) else r.2
    updCtx (setReg s c (mwDataReg w) old) c (fun x => { x with merr := false })
  | 5 => setReg s c (mwDataReg w) (leNat (lbRead s c (bits a 0 9) 8))
  | 6 => lbWrite s c (bits a 0 9) (toLe 8 (reg x (mwDataReg w)))
  | _ => s

/-- The outstanding operation a word issues. -/
def memOpOf (s : State) (c : Nat) (x : CtxS) (w : Nat) : MemOpS :=
  ⟨mwMem w, mwSpace w, mwLen w, mwLbOff w, reg x (mwAddrReg w), mwDataReg w, reg x (mwDataReg w),
   reg x ((mwDataReg w + 1) % 8), lbRead s c (64 * mwLbOff w) (64 * mwLen w), mwHint w, x.sel, x.pc, x.waited⟩

/-- A memory operation of a word: issued, or done at once. -/
def doMem (s : State) (c : Nat) (x : CtxS) (t : TaskS) (w : Nat) : State :=
  if asyncOp w then
    let m := memOpOf s c x w
    let s := updCtx s c (fun x => { x with
      mem := some m, handle := if m.space = 1 then some (bits m.addr 8 29) else x.handle })
    if m.space = 2 then byteCharge s (grpQuad (c / 64)) (if m.op ≤ 2 then 64 * m.len else 64) else s
  else syncMem s c x t w

/-! ### Messages (R216) -/

/-- The descriptor of a kind-3 or kind-4 task (R224). -/
def descTask (s : State) (q kind : Nat) (d : List Byte) : TaskS :=
  let w := leNat (slice d 0 4)
  ⟨kind, q, bits w 21 3, 8, bits w 0 14, bits w 14 3, bit w 17, fieldLe d 4 2, 0,
   [fieldLe d 8 8, fieldLe d 16 8, fieldLe d 24 8], [], none, none, none, false, false, uptime s, [], none, false, none⟩

/-- Room for a task where it would be routed. -/
def taskRoom (s : State) (t : TaskS) : Bool := ((routeGroup s t).map (fun g => grpRoom s g t)).getD false

/-- The message of a word is accepted in this cycle (R216). An EVENT or EXPORT always is, since a full destination
discards it, and so is what an ordered task buffers; whether the path takes another is a free value, as MSG_FREE is (log
26); a SPAWN needs room for its task as well. -/
def msgRoom (s : State) (c : Nat) (t : TaskS) (w : Nat) : Bool × State :=
  let m := mwMsg w
  if m = 1 ∨ m = 2 ∨ m = 6 ∨ (m = 4 ∧ !t.ordered) then
    let f := freeVal s 1
    (f.1 == 1 && (m != 1 || taskRoom s (descTask s (grpQuad (c / 64)) 4 (lbRead s c (64 * mwMsgLb w) 32))), f.2)
  else (true, s)

/-- A word's message is one that an ordered task buffers. -/
def buffered (t : TaskS) (w : Nat) : Bool := t.ordered && (mwMsg w == 3 || mwMsg w == 4 || mwMsg w == 5)

/-- The buffered form of an EVENT, INJECT or EXPORT. -/
def msgOf (s : State) (c : Nat) (x : CtxS) (w : Nat) : BufMsg :=
  let o := 64 * mwMsgLb w
  let p := reg x (mwMsgReg w)
  match mwMsg w with
  | 3 => .event (lbRead s c o 64)
  | 4 => .inject (bits p 16 10) (lbRead s c o (min (bits p 0 10) (512 - o)))
  | _ => .ipfix (lbRead s c o (min (bits p 0 7) (512 - o)))

/-- A message operation: `x` holds the registers, and `s0` the line buffer, as they stood before the word's ALU and
memory operations (R210 step 5). -/
def doMsg (s0 s : State) (c : Nat) (x : CtxS) (t : TaskS) (w : Nat) : State :=
  let q := grpQuad (c / 64)
  let p := reg x (mwMsgReg w)
  match mwMsg w with
  | 0 => s
  | 1 => (newTask s (descTask s q 4 (lbRead s0 c (64 * mwMsgLb w) 32))).2
  | 2 =>
    let f := R.tskFlagFlags q (bits p 38 3) (bits p 32 6)
    wr s f (rd s f ||| p % 2 ^ 32)
  | 6 => emit s (.coreInt "NOTIFY" (bits p 0 2 + 4 * bits p 32 32))
  | _ =>
    let m := msgOf s0 c x w
    if t.ordered then updTask s x.task (fun t => { t with msgs := t.msgs ++ [m] }) else emitMsg q s m

/-! ### The sampler's engine record (R452) -/

/-- An engine record; cycle counts are free. -/
def engineRecord (s : State) (c j uaddr memop space : Nat) (waited merr : Bool) (h : Option Nat) (t : TaskS) : State :=
  let a := freeVal s 32
  let b := freeVal a.2 32
  let g := c / 64
  let hd := match h with
    | some v => v % 2 ^ 29 + 2 ^ 31
    | none => 0
  pushSample b.2 (grpQuad g) (sampleHead b.2 0 (grpQuad g) j ++
    toLe 4 (uaddr % 16384 + grpIdx g * 2 ^ 14 + c % 64 / 4 * 2 ^ 17 + c % 4 * 2 ^ 21 + t.kind % 8 * 2 ^ 23) ++
    toLe 2 (if t.ordered then t.domain else 0) ++ toLe 2 (if t.ordered then t.seq else 0) ++ toLe 4 hd ++
    toLe 4 a.1 ++ toLe 4 b.1 ++ toLe 1 (memop + 8 * space + 64 * b2n waited + 128 * b2n merr) ++ [0, 0, 0])

/-- A sampled word completes. -/
def wordDone (s : State) (c : Nat) (x : CtxS) (t : TaskS) (w : Nat) : State :=
  match x.sel with
  | some j => if asyncOp w then s else
      engineRecord s c j x.pc (mwMem w) (mwSpace w) x.waited false
        (((mget s.eng.ctxs c).bind (·.handle)).or x.handle) t
  | none => s

/-! ### The end of a task and the next address (R211, R219, R225, R232) -/

/-- END: the context is freed, and an ordered task fills its slot. -/
def endTask (s : State) (c out : Nat) : State :=
  match ctxTask s c with
  | some (x, t) =>
    let s := engCount (freeCtx s c) (c / 64) 1
    if t.ordered then
      if t.cancel || t.abandoned then relFill (delTask s x.task) t .void
      else relFill (updTask s x.task (fun t => { t with ctx := none })) t (.done x.task (out % 65536))
    else delTask s x.task
  | none => s

/-- TRET: the interrupted state is reloaded from the trap frame. -/
def trapReturn (s : State) (c : Nat) : State :=
  let f := scRead s (c / 64) (trapOff c) 128
  let fl := fieldLe f 2 1
  updCtx s c (fun x => { x with
    pc := fieldLe f 0 2 % 16384
    z := bit fl 3, n := bit fl 2, c := bit fl 1, v := bit fl 0, merr := bit fl 5, timeout := bit fl 6
    stack := (List.range (min 8 (fieldLe f 3 1 % 16))).map (fun i => fieldLe f (8 + 2 * i) 2 % 16384)
    w := (List.range 8).map (fun i => fieldLe f (0x40 + 8 * i) 8)
    inTrap := false })

/-- The fault of a word's next-address mode (R211, R217). -/
def nextFault (x : CtxS) (w : Nat) : Option Nat :=
  if mwNext w = 4 ∧ 8 ≤ x.stack.length then some 1
  else if mwNext w = 5 ∧ x.stack = [] then some 2
  else if mwNext w = 7 ∧ !x.inTrap then some 6
  else none

/-- The next address is chosen; `cond` was evaluated before the word (R210 steps 2 and 6). -/
def goNext (s : State) (c : Nat) (x : CtxS) (w : Nat) (cond : Bool) : State :=
  let seq := (x.pc + 1) % 16384
  let jump := fun (a : Nat) => updCtx s c (fun y => { y with pc := a })
  match mwNext w with
  | 1 => jump (mwTarget w)
  | 2 => jump (if cond then mwTarget w else seq)
  | 3 => jump (if cond then seq else mwTarget w)
  | 4 => updCtx s c (fun y => { y with pc := mwTarget w, stack := y.stack ++ [seq] })
  | 5 => updCtx s c (fun y => { y with pc := y.stack.getLastD 0, stack := y.stack.dropLast })
  | 6 => endTask s c (((mget s.eng.ctxs c).map (fun y => reg y 0)).getD 0)
  | 7 => trapReturn s c
  | _ => jump seq

/-! ### Issue slots (R204) -/

/-- A context has a word that needs only an issue slot. -/
def ctxReady (s : State) (c : Nat) : Bool :=
  ((mget s.eng.ctxs c).map (fun x => !suspended x && x.trapWait.isNone)).getD false

/-- It is the turn of context `c` of its engine: none of those before it in the round is ready. -/
def inTurn (s : State) (c : Nat) : Bool :=
  let e := c / 4
  let p := mgetD s.eng.turn e 0
  (List.range ((c + 4 - p) % 4)).all (fun i => !ctxReady s (4 * e + (p + i) % 4))

/-- A context takes an issue slot: the round goes on behind it. -/
def takeSlot (s : State) (c : Nat) : State :=
  { s with eng := { s.eng with turn := mset s.eng.turn (c / 4) ((c + 1) % 4) } }

/-! ### A word (R210) -/

/-- Steps 2–6 of a word whose waits are over: `x` is the context before the word. -/
def runWord (s : State) (c : Nat) (x : CtxS) (t : TaskS) (w : Nat) : State :=
  let s := takeSlot s c
  let fault := ((memFault s c x t w).or
    (if buffered t w && decide (4 ≤ t.msgs.length) then some 7 else none)).or (nextFault x w)
  match fault with
  | some k => faultCtx (updCtx s c (fun x => { x with waiting := .no, sel := none, waited := false })) c k
  | none =>
    let cd := condNow s (c / 64) x t (mwCond w)
    let s := cd.2
    let tick := flowTick s
    let s := updCtx s c (fun y => { aluStep tick (nowNs s) x (aluStep tick (nowNs s) x y (mwAluA w)) (mwAluB w) with
      waiting := .no, sel := none, waited := false })
    let s := doMsg cd.2 (doMem s c x t w) c x t w
    let s := goNext (wordDone s c x t w) c x w cd.1
    if mwTrapEn w && mwNext w != 7 then takeIntr s c else s

/-- A word waits for something; on a TRAP_EN word a pending interrupt is taken at once (R217). -/
def suspend (s : State) (c w : Nat) (k : WaitSt) : State :=
  let s := updCtx s c (fun x => { x with waiting := k, waited := true })
  if mwTrapEn w then takeIntr s c else s

/-- A word past its own WAIT: it waits for MDONE if it issues a second asynchronous operation or ends the task
while one is outstanding, and for room for its message. -/
def pastWait (s : State) (c : Nat) (w : Nat) : State :=
  match ctxTask s c with
  | some (x, t) =>
    if (asyncOp w || mwNext w == 6) && x.mem.isSome then suspend s c w .mdone
    else
      let r := msgRoom s c t w
      if r.1 then runWord r.2 c x t w else suspend r.2 c w .msg
  | none => s

/-- The standard microcode of a task (R175): the setup has decided its outcome at dispatch, and ends. -/
def stdEnd (s : State) (c : Nat) (t : TaskS) : Option State := t.decided.map (endTask s c)

/-- A context issues its next word, if it is ready and its engine's round has come to it (R204, R210, R212). -/
def issueWord (s : State) (c : Nat) : State :=
  match ctxTask s c with
  | some (x, t) =>
    if !ctxReady s c || !inTurn s c then s
    else if x.waiting = .over then pastWait (updCtx s c (fun x => { x with waiting := .no })) c (wordAt s (c / 64) x.pc)
    else match stdEnd s c t with
      | some s => s
      | none =>
        let w := wordAt s (c / 64) x.pc
        let p := sampleWord s (grpQuad (c / 64)) x.pc
        let s := updCtx p.2 c (fun x => { x with sel := p.1, waited := false })
        if mwWait w then
          let d := condNow s (c / 64) x t (mwWaitCond w)
          if d.1 then pastWait (updCtx d.2 c (fun x => { x with timeout := false })) c w
          else suspend d.2 c w .cond
        else pastWait s c w
  | none => s

/-- The wait of a context's word has ended: the word executes, or is ready until its engine's round comes to it. -/
def waitOver (s : State) (c w : Nat) : State :=
  if inTurn s c then pastWait s c w else updCtx s c (fun x => { x with waiting := .over })

/-- A suspended context resumes when its condition holds, or when its timeout has passed (R210, R212). -/
def resumeWait (s : State) (c : Nat) (timedOut : Bool) : State :=
  match ctxTask s c with
  | some (x, t) =>
    let w := wordAt s (c / 64) x.pc
    match x.waiting with
    | .no | .over => s
    | .cond =>
      let d := condNow s (c / 64) x t (mwWaitCond w)
      if d.1 then waitOver (updCtx d.2 c (fun x => { x with timeout := false })) c w
      else if timedOut && mwTimeout w != 0 then
        waitOver (engCount (updCtx d.2 c (fun x => { x with timeout := true })) (c / 64) 6) c w
      else d.2
    | .mdone => if x.mem.isSome then s else waitOver (updCtx s c (fun x => { x with timeout := false })) c w
    | .msg => waitOver s c w
  | none => s

/-! ### Completions (R214, R215) -/

/-- An outstanding operation completes: MDONE is set, MERR says how it went, a sampled word's record is written,
and a trap that waited is entered. -/
def memDone (s : State) (c : Nat) (merr : Bool) : State :=
  match ctxTask s c with
  | some (x, t) =>
    match x.mem with
    | some m =>
      let s := updCtx s c (fun x => { x with mem := none, merr := merr })
      let s := match m.sel with
        | some j => engineRecord s c j m.uaddr m.op m.space m.waited merr x.handle t
        | none => s
      match x.trapWait with
      | some (cause, code, addr) => enterTrap s c cause code addr
      | none => s
    | none => s
  | none => s

/-- Stack, address and share of an HBM operation (R213). -/
def memTarget (c : Nat) (m : MemOpS) : Nat × Nat × Nat :=
  if m.space = 2 then (grpQuad (c / 64), m.addr, 0) else (m.addr / 2 ^ 36, m.addr % 2 ^ 36, 2)

/-- The miss engine, or the share for other uses, on behalf of an engine group, with the word's page hint. -/
def memPort (c : Nat) (m : MemOpS) : HbmPort := enginePort (memTarget c m).2.2 (c / 64) m.hint

/-- An HBM operation completes; `errs` disturbs the granules it reads (R304). -/
def memComplete (s : State) (c : Nat) (m : MemOpS) (errs : HbmErrs) : State :=
  let k := memTarget c m
  let p := memPort c m
  match m.op with
  | 1 =>
    let r := hbmRead s p k.1 k.2.1 (64 * m.len) errs
    memDone (lbWrite r.st c (64 * m.lbOff) r.bytes) c r.bad
  | 2 => memDone (hbmWrite s p k.1 k.2.1 m.data errs) c false
  | _ =>
    let r := hbmRead s p k.1 k.2.1 8 errs
    let old := leNat r.bytes
    let new := if m.op = 3 then some (old + m.a) else if old = m.a then some m.b else none
    let s := match new with
      | some v => if r.bad then r.st else hbmWrite r.st p k.1 k.2.1 (toLe 8 v) []
      | none => r.st
    memDone (setReg s c m.dataReg old) c r.bad

/-- Quadrant and slot of a handle (R150). -/
def handleQuad (h : Nat) : Nat := bits h 27 2
def handleSlot (h : Nat) : Nat := bits h 0 27

/-- The record a handle names, as it stands: its line, its victim entry, or the slot (R215). -/
def handleRec (s : State) (h : Nat) : Option Nat :=
  let q := handleQuad h
  let r := slotRec s q (handleSlot h)
  if recValid r ∧ handleSlot h < recSlots s then some ((cached s q (recKey r)).getD r) else none

/-- A flow-table operation ends with a status, or with any value behind a poisoned read. -/
def fopDone (s : State) (c dataReg status : Nat) : State := memDone (setReg s c dataReg status) c false

/-- The context whose outstanding operation is flow-table operation `fop`. -/
def fopOf (s : State) (c fop : Nat) : Option (MemOpS × TaskS) :=
  (ctxTask s c).bind (fun p => p.1.mem.bind (fun m =>
    if m.space = 1 ∧ bits m.addr 0 4 = fop then some (m, p.2) else none))

/-- Rewrite the record of a key where it stands: its line (DIRTY), its victim entry, or HBM (R215). -/
def rewriteRec (s : State) (q r slot : Nat) : State :=
  let k := recKey r
  match findLine s q k, findVictim s q k with
  | some (l, x), _ =>
    if x.st = LineSt.filling then writeSlot s q slot r
    else updLine s l (fun x => { x with content := cacheForm r, st := .dirty })
  | none, some _ =>
    let vs := s.flo.victims.map (fun v => if v.quad = q ∧ v.key = k then { v with content := cacheForm r } else v)
    { s with flo := { s.flo with victims := vs } }
  | none, none => writeSlot s q slot r

end Sys2Proof.Machine
end

