-- ==== Sys2Proof/Machine/FlowCmds.lean ====
section
/-!
DEFINITION. Shared operations of the flow commands and sweeps (R167–R170, R183): decisions of FLOW_CREATE,
FLOW_PIN, FLOW_UNPIN and FLOW_DELETE, the wait behind a FILLING line, and the sweeps.
-/

namespace Sys2Proof.Machine

open Sys2Proof

/-! ### Flow commands (R167) -/

/-- The key's line in its home cache is FILLING. -/
def keyFilling (s : State) (k : Nat) : Bool :=
  ((findLine s (homeOfKey s k) k).map (fun e => e.2.st == LineSt.filling)).getD false

/-- The primary record of a key, if it is present. -/
def primaryOf (s : State) (k : Nat) : Option Nat :=
  (recordNow s (homeOfKey s k) k).bind (fun r => if recAlias r then none else some r)

/-- A record enters a way of its set; none where the set has no evictable way. -/
def cacheInstall (s : State) (q k slot r : Nat) (st : LineSt) : Option State :=
  (wayFor s q (setOf s q k)).map (fun l =>
    useLine (setLine (evict s l).1 l ⟨k, st, cacheForm r, recPin r, 0, slot, [], .none, 0⟩) l)

/-- Fields of a created record are in range: no reserved bit, not an alias, canonical endpoints, no IPv4 address
above 32 bits, no state of microcode (R144, R146, R147). -/
def createOk (r : Nat) : Bool :=
  let a := keyEndA (recKey r)
  let b := keyEndB (recKey r)
  !recAlias r && bits r 322 62 == 0 && bits r 407 1 == 0 && bits r 756 12 == 0 && decide (a ≤ b) &&
    (recV6 r || (decide (a / 2 ^ 16 < 2 ^ 32) && decide (b / 2 ^ 16 < 2 ^ 32))) &&
    decide (recState r ≤ 10) && decide (r < 2 ^ 1024)

/-- Decide FLOW_CREATE on a record's content. -/
def flowCreate (s : State) (r : Nat) : CmdOut :=
  let r := setBit r 320
  let k := recKey r
  let q := homeOfKey s k
  if (recordNow s q k).isSome ∨ !createOk r ∨ (recSched r && (!recPin r || recXlate r)) then refuse .invalid s
  else if recPin r && (!pinRoom s q (setOf s q k) || (wayFor s q (setOf s q k)).isNone) then refuse .noRoom s
  else match placePair s q r with
    | .at x s =>
      let s := match cacheInstall s q k x r .clean with
        | some s => s
        | none => s
      okay (if recBal r then
        let b := bkEnt s (bits r 704 16) (bits r 720 12)
        putBk s (bits r 704 16) (bits r 720 12) (putBits b 224 32 (bkBound b + 1)) else s)
    | .full s => refuse .noRoom s
    | .quarantine s => refuse .noRoom s

/-- Pin the present record of a key: the status and the state. -/
def pinRecord (s : State) (k r : Nat) : Status × State :=
  let q := homeOfKey s k
  if recPin r then (.ok, s)
  else if !pinRoom s q (setOf s q k) then (.noRoom, s)
  else match findLine s q k with
    | some (l, x) =>
      if x.st = LineSt.filling then (.noRoom, s)
      else (.ok, updLine s l (fun x => { x with content := setBit x.content 388, pinned := true, st := .dirty }))
    | none =>
      let slot := (((findVictim s q k).map (·.slot)).or (findSlot s q k)).getD 0
      let s1 := { s with flo := { s.flo with victims := s.flo.victims.filter (fun v => !(v.quad == q && v.key == k)) } }
      match cacheInstall s1 q k slot (setBit r 388) .dirty with
      | some s => (.ok, s)
      | none => (.noRoom, s)

/-- Decide FLOW_PIN, FLOW_UNPIN and FLOW_DELETE. -/
def flowPin (s : State) (k : Nat) : CmdOut :=
  match primaryOf s k with
  | some r => let a := pinRecord s k r; ⟨a.1, [], a.2⟩
  | none => refuse .invalid s

/-- PIN becomes 0 and the line is an ordinary DIRTY one. -/
def unpinRecord (s : State) (k : Nat) : State :=
  match findLine s (homeOfKey s k) k with
  | some (l, _) => updLine s l (fun x => { x with content := clrBit x.content 388, pinned := false, st := .dirty })
  | none => s

def flowUnpin (s : State) (k : Nat) : CmdOut :=
  match primaryOf s k with
  | some r => if recPin r && !recSched r then okay (unpinRecord s k) else refuse .invalid s
  | none => refuse .invalid s

def flowDelete (s : State) (k : Nat) : CmdOut :=
  match primaryOf s k with
  | some r => okay (removeFlow s (homeOfKey s k) r 4)
  | none => refuse .invalid s

/-- Decide a flow command. -/
def flowDecide (s : State) (k : Nat) (c : FlowCmd) : CmdOut :=
  match c with
  | .create r => flowCreate s r
  | .pin => flowPin s k
  | .unpin => flowUnpin s k
  | .delete => flowDelete s k

/-- The key that tags a command's response. -/
def answerKey (s : State) (h : CmdHdr) : Option (List Byte) :=
  if isCore h.requester then none else some (keyRsp s (cmdSession h))

/-- A flow command is decided, or waits while its key's line is FILLING; a command that waits has no answer yet. -/
def flowCommand (s : State) (h : CmdHdr) (k : Nat) (c : FlowCmd) : State :=
  let w := s.flo.waiting.length
  let t := guarded s h (some 1) (fun s => inModes commandModes s (fun s =>
    if keyFilling s k then
      okay { s with flo := { s.flo with waiting := s.flo.waiting ++ [⟨slice h.body 0 32, h.mbx, answerKey s h, k, c⟩] } }
    else flowDecide s k c))
  if w < t.flo.waiting.length then { t with host := { t.host with responseDue := mdel t.host.responseDue h.mbx } } else t

/-- A waiting flow command is decided once its line has resolved. -/
def flowResume (s : State) (i : Nat) : State :=
  match s.flo.waiting[i]? with
  | some w =>
    if keyFilling s w.matched then s
    else
      let s := { s with flo := { s.flo with waiting := s.flo.waiting.eraseIdx i } }
      let o := flowDecide s w.matched w.cmd
      if 32 ≤ w.mbx ∧ w.mbx < 64 then lateAnswer o.st w.mbx w.head w.key o.status o.payload else o.st
  | none => s

/-! ### Abandonment of a setup at its limit (R163, R234) -/

/-- A task that has ended and waits in its slot is cancelled: the slot becomes a VOID. -/
def cancelDone (s : State) (i : Nat) (t : TaskS) : State :=
  let k := relKey t.quad t.domain t.seq
  let s := delTask (abandonHold s t) i
  relAdvance 1025 { s with eng := { s.eng with rel := mset s.eng.rel k .void } } t.quad t.domain

/-- The task has ended and waits in its slot. -/
def isDone (s : State) (i : Nat) (t : TaskS) : Bool :=
  t.admitted && (match mget s.eng.rel (relKey t.quad t.domain t.seq) with
    | some (.done j _) => j == i
    | _ => false)

/-- Cancel a task wherever it stands, in its slot too. -/
def cancelAny (s : State) (i : Nat) : State :=
  match mget s.eng.tasks i with
  | some t => if isDone s i t then cancelDone s i t else cancelTask s i
  | none => s

/-! ### Sweeps (R168, R183, R223) -/

/-- A task of hardware kind 1 or 2 (R223). -/
def kindTask (s : State) (q kind : Nat) (args : List Nat) : Option TaskS :=
  (kindClass s kind).map (fun cls =>
    let u := ucode s cls
    ⟨kind, q, cls, 8, fieldLe u (0x0C + 2 * kind) 2 % 16384, fieldLe u (0x12 + kind) 1 % 8, false, 0, 0, args, [],
     none, none, none, false, false, uptime s, [], none, false, none⟩)

/-- Sweep tasks of a quadrant's ageing sweep that have not ended. -/
def sweepTasks (s : State) (q : Nat) : Nat :=
  (s.eng.tasks.filter (fun e => e.2.kind == 1 && e.2.quad == q && e.2.flag.isNone && !bit (e.2.args.getD 2 0) 63)).length

/-- The ageing sweep of a quadrant ends when all its slots are posted and its tasks have ended (R168). -/
def sweepEnd (s : State) (q : Nat) : State :=
  match mget s.flo.sweep q with
  | some w =>
    if recSlots s ≤ w.next ∧ sweepTasks s q = 0 then
      let d := uptime s - w.start
      let s := wr s (R.fltAgeStatLastMs q) (min (2 ^ 32 - 1) (d / 10 ^ 6))
      let s := if rd s (R.fltAgeCfgPeriodS q) * 10 ^ 9 < d then wr s (R.fltAgeStatLate q) 1 else s
      { s with flo := { s.flo with sweep := mdel s.flo.sweep q } }
    else s
  | none => s

/-- Post a task, if the sequencer may and a group has room (R227, R229). -/
def postKind (s : State) (t : Option TaskS) : Option State :=
  t.bind (fun t => if dispMode s = 1 ∧ taskRoom s t then some (newTask s t).2 else none)

/-- A sweep waits while misses have overdrawn the byte budget: its reads are of the lowest priority (R168). -/
def sweepMay (s : State) (q : Nat) : Bool := decide (0 ≤ byteNow s q)

/-- The ageing sweep posts the task of its next 4,096 slots. -/
def postSweep (s : State) (q : Nat) : State :=
  let s := sweepEnd s q
  if rd s (R.fltAgeCfgPeriodS q) = 0 then s
  else
    let w := mgetD s.flo.sweep q ⟨0, uptime s⟩
    if recSlots s ≤ w.next ∨ !sweepMay s q then s
    else match postKind s (kindTask s q 1 [w.next, 4096, flowTick s]) with
      | some s => { s with flo := { s.flo with sweep := mset s.flo.sweep q { w with next := w.next + 4096 } } }
      | none => s

/-- Removal sweep `i` posts the task of its next 4,096 slots of a quadrant. -/
def postRemoval (s : State) (q i : Nat) : State :=
  match s.flo.removal[i]? with
  | some w =>
    let n := w.next.getD q 0
    if !w.started ∨ recSlots s ≤ n ∨ !sweepMay s q then s
    else match postKind s (kindTask s q 1 [n, 4096, 2 ^ 63 + w.backend * 2 ^ 16 + w.service]) with
      | some s => { s with flo := { s.flo with removal := s.flo.removal.set i { w with next := w.next.set q (n + 4096) } } }
      | none => s
  | none => s

/-- A sweep visits one slot (R168, R183, R201): idle records are removed; a removal sweep removes what is bound
to its backend, but for a scheduled record, which only FLOW_DELETE removes (R167); a long-lived flow is exported. -/
def visitSlot (removal : Option (Nat × Nat)) (q : Nat) (s : State) (slot : Nat) : State :=
  let h := slotRec s q slot
  if !recValid h || recAlias h then s
  else
    let r := (cached s q (recKey h)).getD h
    match removal with
    | some (sv, b) =>
      if recBal r ∧ bits r 704 16 = sv ∧ bits r 720 12 = b ∧ !recSched r then removeFlow s q r 4 else s
    | none =>
      if recPin r then s
      else if idleNow s q r then
        bump (removeFlow s q r (if recState r = 7 ∨ recState r = 8 then 3 else 1)) (R.fltCntCount q 7)
      else
        let a := rd s R.fltTelCfgActiveS
        let age := (flowTick s + 2 ^ 24 - bits r 896 24) % 2 ^ 24
        if a ≠ 0 ∧ a * 10 ^ 9 ≤ age * 2 ^ 20 then exportFlow s q r 2 else s

/-- The slots of a range whose first granule holds anything. -/
def listedSlots (s : State) (q first n : Nat) : List Nat :=
  let a := hkey q (slotAddr s q first)
  ((s.hbm.mem.filter (fun e => decide (a ≤ e.1) && decide (e.1 < a + 128 * n))).map (fun e => first + (e.1 - a) / 128)).eraseDups

/-- Buckets that hold `n` slots from `first` on. -/
def bucketSpan (first n : Nat) : Nat := (first % 4 + n + 3) / 4

/-- The standard microcode's sweep of a task's slots; its bucket reads are charged to the byte budget (R168). -/
def sweepRun (s : State) (i : Nat) (t : TaskS) : State :=
  let w2 := t.args.getD 2 0
  let rem := if bit w2 63 then some (bits w2 0 16, bits w2 16 12) else none
  let s := byteCharge s t.quad (512 * bucketSpan (t.args.getD 0 0) (t.args.getD 1 0))
  let s := (listedSlots s t.quad (t.args.getD 0 0) (t.args.getD 1 0)).foldl (visitSlot rem t.quad) s
  updTask s i (fun t => { t with decided := some 0 })

/-! ### Quarantine repair (R170) -/

/-- One slot of a quarantined bucket: `bad0` and `bad1` say which granules failed. -/
def repairSlot (q b : Nat) (bad : Nat → Bool) (s : State) (w : Nat) : State :=
  let x := 4 * b + w
  let a := slotAddr s q x
  let b0 := bad (2 * w)
  let b1 := bad (2 * w + 1)
  let r := slotRec s q x
  if !b0 && !b1 then
    hbmWrite (hbmWrite s missPort q (a + 64) ((toLe 128 r).drop 64) []) missPort q a ((toLe 128 r).take 64) []
  else
    let r0 := if b0 then (if w = 0 ∧ b < mainBuckets s then 0xFFFFFF * 2 ^ 352 else 0) else clrBit r 320
    let r1 := if b1 then 0 else r / 2 ^ 512
    let s := hbmWrite s missPort q (a + 64) (toLe 64 r1) []
    let s := hbmWrite s missPort q a (toLe 64 (r0 % 2 ^ 512)) []
    if b0 || recValid r then bump s (R.fltCntCount q 15) else s

/-- A task is the repair of a bucket (R223, R224). -/
def repairOf (q b : Nat) (t : TaskS) : Bool :=
  t.kind == 2 && t.quad == q && t.flag.isNone && t.args.getD 0 0 == b

/-- The sequencer posts the repair tasks of listed buckets that have none, while it may and a group has room; the others
wait (R170, R223, R227, R229). -/
def postRepairs (s : State) (q : Nat) : State :=
  (List.range 64).foldl (fun s i =>
    let b := rd s (R.fltQuarBucket q i)
    if rdB s (R.fltQuarValid q i) && !s.eng.tasks.any (fun e => repairOf q b e.2) then
      (postKind s (kindTask s q 2 [b, 0, 0])).getD s
    else s) s

/-- The repair task that runs for a bucket. -/
def repairRuns (s : State) (q b : Nat) : Option (Nat × TaskS) :=
  s.eng.tasks.find? (fun e => repairOf q b e.2 && e.2.ctx.isSome && e.2.decided.isNone)

/-- The repair re-reads a bucket's granules; `bad` are those whose data fail the device CRC twice. The answer is the
granules that do not read correctly. -/
def repairReads (s : State) (q a : Nat) (bad : List Nat) : List Nat × State :=
  (List.range 8).foldl (fun x g =>
    let r := hbmRead x.2 missPort q (a + 64 * g) 64 (if bad.contains g then [(0, 1, 1)] else [])
    (if r.bad then x.1 ++ [g] else x.1, r.st)) ([], byteCharge s q 512)

/-- The repair task of list entry `i` repairs its bucket, takes it off the list, and under the standard microcode
ends (R170). -/
def repairBucket (s : State) (q i : Nat) (bad : List Nat) : State :=
  let b := rd s (R.fltQuarBucket q i)
  match repairRuns s q b with
  | some (k, t) =>
    if !rdB s (R.fltQuarValid q i) then s
    else
      let r := repairReads s q (slotAddr s q (4 * b)) bad
      let s := (List.range 4).foldl (repairSlot q b r.1.contains) r.2
      let s := wrs s [(R.fltQuarValid q i, 0), (R.fltQuarBucket q i, 0)]
      if (grpStore s t.group).std then updTask s k (fun t => { t with decided := some 0 }) else s
  | none => s

/-- The FILLING line that has waited longest for the victim buffer of a quadrant. -/
def oldestWaiter (s : State) (q : Nat) : Option Nat :=
  match s.flo.lines.filter (fun e => lineQuad e.1 == q && e.2.miss == MissSt.victim) with
  | [] => none
  | e :: es => some (es.foldl (fun m x => if x.2.used < m.2.used then x else m) e).1

/-- A victim's record is written back in place, the bucket header preserved. -/
def storeVictim (s : State) (v : VictimS) : State :=
  let r := putBits v.content 352 32 (bits (slotRec s v.quad v.slot) 352 32)
  let a := slotAddr s v.quad v.slot
  hbmWrite (hbmWrite s missPort v.quad (a + 64) ((toLe 128 r).drop 64) []) missPort v.quad a ((toLe 128 r).take 64) []

/-- The writeback of the victim with index `i` completes, with the error its read finds: 1 corrected, 2 uncorrectable,
and then it is dropped without writeback (R166). Only the first 256 victims of a quadrant are in its buffer. The entry
it frees goes to the victim that has waited longest, and the miss behind that goes on. -/
def writeback (s : State) (i ecc : Nat) : State :=
  match s.flo.victims[i]? with
  | some v =>
    let q := v.quad
    if 256 ≤ ((s.flo.victims.take i).filter (fun x => x.quad == q)).length then s
    else
      let s := { s with flo := { s.flo with victims := s.flo.victims.eraseIdx i } }
      let s := if ecc = 1 then bump s (R.fltCntCount q 13) else s
      let s := if ecc = 2 then journal s 0x0050 2 (unitOf q 0) (.num 0) (slotAddr s q v.slot) 0 else storeVictim s v
      let s := if 256 ≤ victimCount s q then issueWriteback s q else s
      match oldestWaiter s q with
      | some l => issueB0 s l
      | none => s
  | none => s

end Sys2Proof.Machine
end

