-- ==== Sys2Proof/Machine/GroupOps.lean ====
section
/-!
DEFINITION. Shared operations of engine groups (R220, R222, R226–R229, R235–R237, R428): control-store loads,
admission and dispatch, the group commands, the mode change, and the group test.
-/

namespace Sys2Proof.Machine

open Sys2Proof

/-! ### The region being applied (R403) -/

/-- The region being applied, its version, and the sections of the partial image. -/
def curRegion (s : State) : Option (Nat × Nat × List SecS) :=
  match s.img.part with
  | some p => match p.todo with
    | r :: _ => some (r.1, r.2, p.secs)
    | [] => none
  | none => none

/-! ### Control stores (R220) -/

/-- The control store a microcode section gives. -/
def storeOf (u : List Byte) : StoreS :=
  let n := fieldLe u 0 2
  let words := (List.range n).filterMap (fun i =>
    let w := leNat (slice u (0x300 + 24 * i) 24)
    if w = 0 then none else some (i, w))
  let fts := (List.range 64).filterMap (fun i =>
    let e := fieldLe u (0x40 + 8 * i) 8
    if bit e 14 then some (i, e) else none)
  { words := words, count := n, kinds := fieldLe u 3 1 % 8, faultVec := fieldLe u 8 2 % 16384,
    intVec := fieldLe u 0x0A 2 % 16384, entries := (List.range 3).map (fun k => fieldLe u (0x0C + 2 * k) 2 % 16384),
    ft := fts, std := Config.standardSetup u }

/-- The engine-group class whose region is being applied; in SAFE a splice applies nothing (R66, R405, R407). -/
def splicedClass (s : State) : Option Nat :=
  match curRegion s with
  | some (r, _, _) => if modeIn s [.splice] ∧ 10 ≤ r ∧ r ≤ 17 then some (r - 10) else none
  | none => none

/-- The microcode section of a class that a load takes: of the partial image while its region is spliced (R236). -/
def ucodeFor (s : State) (cls : Nat) : List Byte :=
  match curRegion s with
  | some (_, _, secs) => if splicedClass s = some cls then secBytes secs 8 cls else ucode s cls
  | none => ucode s cls

/-- TSK_FLAG.MASK of a group as its control store gives it. -/
def loadMasks (s : State) (g : Nat) : State :=
  (List.range 64).foldl (fun s i => wr s (R.tskFlagMask (grpQuad g) (grpIdx g) i)
    (((mget (grpStore s g).ft i).map (fun e => bits e 32 32)).getD 0)) s

/-- A group's control store is written: ENG_UCODE_VER and the flag masks show it. -/
def loadStore (s : State) (g cls : Nat) (u : List Byte) : State :=
  let q := grpQuad g
  let k := grpIdx g
  let st := storeOf u
  let s := { s with eng := { s.eng with store := mset s.eng.store g st } }
  loadMasks (wrs s [(R.engUcodeVerUcodeVer q k, fieldLe u 4 4), (R.engUcodeVerClass q k, cls),
    (R.engUcodeVerLoaded q k, 1)]) g

/-- A group begins to serve: its test age counts from now (R416). -/
def serveGroup (s : State) (g : Nat) : State :=
  setGrpState { s with saf := { s.saf with engPass := mset s.saf.engPass g (uptime s) } } g 1

/-- A group becomes idle: class 0xFF, no control store. -/
def idleGroup (s : State) (g : Nat) : State :=
  let q := grpQuad g
  let k := grpIdx g
  let s := setGrpState { s with eng := { s.eng with store := mdel s.eng.store g } } g 0
  wrs s [(R.engUcodeVerUcodeVer q k, 0), (R.engUcodeVerClass q k, 0), (R.engUcodeVerLoaded q k, 0)]

/-! ### Admission (R231) -/

/-- The first task of a quadrant's dispatcher input that can go on: one that finds no room in its group waits and
holds back none behind it (R227); in flags mode only setups go on, to be cancelled (R229). -/
def admitNext (s : State) (q : Nat) : Option Nat :=
  (mgetD s.eng.inq q []).find? (fun i =>
    match mget s.eng.tasks i with
    | none => true
    | some t =>
      if dispMode s = 1 then ((routeGroup s t).map (fun g => grpRoom s g t)).getD true
      else dispMode s == 2 && t.kind == 0)

/-- That task is admitted, held in the side queue, cancelled, or stays where it is. -/
def admitTask (s : State) (q : Nat) : State :=
  match admitNext s q with
  | none => s
  | some i =>
    match mget s.eng.tasks i with
    | none => unqueueTask s i
    | some t =>
      if dispMode s ≠ 1 then cancelQueued s i
      else match routeGroup s t with
        | none => cancelQueued s i
        | some g =>
          if !t.ordered then queueTask (unqueueTask s i) i g t
          else if domOut s q t.domain = 1024 then
            let l := mgetD s.eng.side q []
            if 256 ≤ l.length then s
            else
              let s := tskCount (unqueueTask s i) q 3
              { s with eng := { s.eng with side := mset s.eng.side q (l ++ [i]) } }
          else takeSeq (unqueueTask s i) i g t

/-! ### Dispatch (R226–R229) -/

/-- What a dispatched task does at once under the standard microcode (R175). -/
def stdRun (s : State) (g i : Nat) : State :=
  match mget s.eng.tasks i with
  | some t =>
    if !(grpStore s g).std ∨ t.flag.isSome then s
    else if t.kind = 0 then setupRun s i t
    else if t.kind = 1 then sweepRun s i t
    else s
  | none => s

/-- A queued task starts on context `c`. -/
def dispatchTo (s : State) (i c : Nat) (t : TaskS) : State := stdRun (startTask (unqueueTask s i) i c t) (c / 64) i

/-- The task in affinity slot `j` of a group goes to its engine, or to the lowest free context when its wait is
over (R228). -/
def dispatchAffinity (s : State) (g j : Nat) : State :=
  match (mgetD s.eng.affWait g [])[j]? with
  | some i =>
    match mget s.eng.tasks i with
    | some t =>
      match ((lastEngine s g t).bind (freeOnEngine s g)).or (freeContext s g) with
      | some c => dispatchTo s i c t
      | none => s
    | none => unqueueTask s i
  | none => s

/-- The oldest task of the highest non-empty level starts, or waits for its domain's engine (R227, R228). -/
def dispatchPriority (s : State) (g : Nat) : State :=
  match grpTasks s g with
  | [] => s
  | i :: _ =>
    match mget s.eng.tasks i with
    | none => unqueueTask s i
    | some t =>
      let aff := rdB s (R.engGrpStatAffinity (grpQuad g) (grpIdx g))
      match (if aff then lastEngine s g t else none) with
      | some e =>
        match freeOnEngine s g e with
        | some c => dispatchTo s i c t
        | none =>
          let l := mgetD s.eng.affWait g []
          if l.length < 16 then
            let s := unqueueTask s i
            { s with eng := { s.eng with affWait := mset s.eng.affWait g (l ++ [i]) } }
          else s
      | none =>
        match freeContext s g with
        | some c => dispatchTo s i c t
        | none => s

/-- Flag task `i` of a group runs in some context. -/
def flagRuns (s : State) (g i : Nat) : Bool :=
  (grpCtxs s g).any (fun c => ((ctxTask s c).map (fun p => p.2.flag == some i)).getD false)

/-- The lowest-numbered ready flag task of a group starts (R229). -/
def dispatchFlag (s : State) (g : Nat) : State :=
  let q := grpQuad g
  let k := grpIdx g
  let ready := fun (e : Nat × Nat) =>
    (rd s (R.tskFlagFlags q k e.1) &&& rd s (R.tskFlagMask q k e.1)) != 0 && !flagRuns s g e.1
  match (grpStore s g).ft.find? ready, freeContext s g with
  | some (i, e), some c =>
    let f := rd s (R.tskFlagFlags q k i)
    let m := rd s (R.tskFlagMask q k i)
    let t : TaskS := ⟨0, q, rd s (R.engUcodeVerClass q k), g, e % 16384, 0, false, 0, 0, [f &&& m, 0, 0], [], none, none,
      some i, false, false, uptime s, [], none, false, none⟩
    let n := s.eng.nextTask
    let s := { s with eng := { s.eng with tasks := mset s.eng.tasks n t, nextTask := n + 1 } }
    startTask (wr s (R.tskFlagFlags q k i) (f - (f &&& m))) n c t
  | _, _ => s

/-- The dispatcher starts the chosen task. -/
def dispatchGroup (s : State) (g : Nat) (aff : Option Nat) : State :=
  match aff with
  | some j => if dispMode s = 1 ∧ grpState s g = 1 then dispatchAffinity s g j else s
  | none =>
    if grpState s g ≠ 1 then s
    else if dispMode s = 1 then dispatchPriority s g
    else if dispMode s = 2 then dispatchFlag s g
    else s

/-! ### The dispatcher's mode (R230) -/

/-- A context runs a task of the mode that has ended. -/
def staleCtx (s : State) (c : Nat) : Bool :=
  match ctxTask s c with
  | some (_, t) => if dispMode s = 1 then t.flag.isSome else if dispMode s = 2 then t.flag.isNone else false
  | none => false

/-- Step 1 and 2 of a change to flags mode: queued tasks are cancelled and running tasks receive cause 0x11. -/
def toFlagsMode (s : State) : State :=
  let waiting := (s.eng.tasks.filter (fun e => e.2.ctx.isNone && e.2.flag.isNone && !isDone s e.1 e.2)).map (·.1)
  let s := waiting.foldl cancelQueued s
  ((s.eng.ctxs.map (·.1)).filter (staleCtx s)).foldl (fun s c =>
    match ctxTask s c with
    | some (x, _) => cancelTask s x.task
    | none => s) s

/-! ### The splice of a class region (R236, R407) -/

/-- A group of a class, serving or not, that does not hold the control store its class is to have. -/
def oldStore (s : State) (cls g : Nat) : Bool :=
  grpState s g != 0 && rd s (R.engUcodeVerClass (grpQuad g) (grpIdx g)) == cls &&
    mget s.eng.store g != some (storeOf (ucodeFor s cls))

/-- A stand-in is released once every group of its class has the new version: it is drained, then idle again. -/
def standDown (s : State) : State :=
  match s.eng.standIn with
  | h :: rest =>
    if grpState s h = 1 ∧ hasSibling s h then startDrain s h
    else if grpState s h = 3 then idleGroup { s with eng := { s.eng with standIn := rest } } h
    else { s with eng := { s.eng with standIn := rest } }
  | [] => s

/-- The next step of the splice of class `cls`, one group at a time in ascending order: a drained or failed group is
reloaded; a serving one is drained; one without a sibling waits for an idle group of its quadrant to adopt the class. -/
def spliceNext (s : State) (cls : Nat) : State :=
  let mine := (List.range 32).filter (fun g => grpState s g != 0 && rd s (R.engUcodeVerClass (grpQuad g) (grpIdx g)) == cls)
  if mine.any (fun g => grpState s g == 2 || grpState s g == 4) ∨ !s.eng.loading.isEmpty then s
  else match mine.find? (fun g => (grpState s g == 3 || grpState s g == 5) && oldStore s cls g) with
    | some g =>
      let s := if grpState s g = 5 then { s with saf := { s.saf with engPass := mdel s.saf.engPass g } } else s
      setGrpState { s with eng := { s.eng with loading := mset s.eng.loading g cls } } g 4
    | none =>
      match mine.find? (fun g => grpState s g == 1 && oldStore s cls g) with
      | some g =>
        if hasSibling s g then startDrain s g
        else match (List.range 8).find? (fun k => grpState s (grpOf (grpQuad g) k) == 0) with
          | some k =>
            let h := grpOf (grpQuad g) k
            let s := { s with eng := { s.eng with loading := mset s.eng.loading h cls, standIn := s.eng.standIn ++ [h] } }
            setGrpState s h 4
          | none => s
      | none => standDown s

/-- A class region being applied goes on by one step. -/
def spliceGroups (s : State) : State :=
  match splicedClass s with
  | some c => spliceNext s c
  | none => s

/-! ### Group commands (R235, R236) -/

/-- DRAIN. -/
def cmdDrain (s : State) (g : Nat) : Status × State :=
  if grpState s g ≠ 1 ∨ !hasSibling s g then (.invalid, s)
  else (.ok, wr (startDrain s g) (R.engGrpCtlDrain (grpQuad g) (grpIdx g)) 1)

/-- RETURN. -/
def cmdReturn (s : State) (g : Nat) : Status × State :=
  if grpState s g = 3 then (.ok, spliceGroups (serveGroup s g)) else (.invalid, s)

/-- ADOPT of a class into an idle, drained or failed group (R222, R236). -/
def cmdAdopt (s : State) (g cls : Nat) : Status × State :=
  let st := grpState s g
  if (st = 0 ∨ st = 3 ∨ st = 5) ∧ ucodeFor s cls ≠ [] then
    (.ok, setGrpState { s with eng := { s.eng with loading := mset s.eng.loading g cls } } g 4)
  else (.invalid, s)

/-- RELEASE. -/
def cmdRelease (s : State) (g : Nat) : Status × State :=
  if grpState s g = 3 then (.ok, idleGroup s g) else (.invalid, s)

/-- Show the status of a group command. -/
def grpStatus (g : Nat) (a : Status × State) : State := wrStat a.2 (R.engGrpStatStatus (grpQuad g) (grpIdx g)) a.1

/-- A group returns to service with a new control store; where its class is being spliced and it was drained for
that, its test age goes on (R428). -/
def returnLoaded (s : State) (g cls : Nat) : State :=
  if splicedClass s = some cls ∧ !s.eng.standIn.contains g ∧ (mget s.saf.engPass g).isSome then setGrpState s g 1
  else serveGroup s g

/-- The control-store load of a group completes (R222, R236). `ecc` = 2: it holds an uncorrectable error. -/
def loadDone (s : State) (g ecc : Nat) : State :=
  match mget s.eng.loading g with
  | some cls =>
    if grpState s g ≠ 4 then s
    else
      let s := { s with eng := { s.eng with loading := mdel s.eng.loading g } }
      let s := loadStore s g cls (ucodeFor s cls)
      let s := if ecc = 1 then engCount s g 7 else s
      spliceGroups (if ecc = 2 then failGroup s g else returnLoaded s g cls)
  | none => s

/-- Domain reset of a group (R237): it serves again, unless it has failed (R222), is being loaded, or is idle. -/
def resetGroup (s : State) (g : Nat) : State :=
  let q := grpQuad g
  let k := grpIdx g
  let s := (grpCtxs s g).foldl voidCtx s
  let old := grpState s g
  let s := setGrpState s g (if old = 1 then 2 else old)
  let s := moveTasks s g
  let s := setGrpState s g old
  let lo := 65536 * g
  let s := { s with eng := { s.eng with
    scratch := s.eng.scratch.filter (fun e => decide (e.1 < lo) || decide (lo + 65536 ≤ e.1)) } }
  let s := (List.range 64).foldl (fun s i => wr s (R.tskFlagFlags q k i) 0) s
  let s := loadMasks s g
  if (mget s.eng.store g).isSome ∧ old ≠ 5 ∧ old ≠ 4 then serveGroup s g else s

/-! ### The group test (R428) -/

/-- The slice of a drained group ends. -/
def groupSlice (s : State) (g : Nat) (pass : Bool) : State :=
  let q := grpQuad g
  let s := wrs s [(R.bstEngLast q, grpIdx g), (R.bstEngPass q, b2n pass), (R.bstEngCount q, rd s (R.bstEngCount q) + 1)]
  if pass then { s with saf := { s.saf with engPass := mset s.saf.engPass g (uptime s) } } else failGroup s g

/-- The next step of a group's test: an idle group adopts its class, it is drained, or its slice has ended and it
returns, or is released when `idle` has taken its place. A group that the splice of its class has in hand is
skipped. -/
def groupTest (s : State) (g : Nat) (idle : Option Nat) (pass : Bool) : State :=
  let cls := rd s (R.engUcodeVerClass (grpQuad g) (grpIdx g))
  if !modeIn s [.sync, .serve, .splice, .safe] then s
  else if splicedClass s = some cls ∧ grpState s g ≠ 1 ∧ oldStore s cls g then s
  else if grpState s g = 3 then
    let s := groupSlice s g pass
    if !pass then s
    else if idle.isSome then (cmdRelease s g).2 else (cmdReturn s g).2
  else if grpState s g = 1 then
    match idle with
    | some k =>
      let h := grpOf (grpQuad g) (k % 8)
      if grpState s h = 0 then (cmdAdopt s h cls).2 else (cmdDrain s g).2
    | none => (cmdDrain s g).2
  else s

end Sys2Proof.Machine
end

