-- ==== Sys2Proof/Machine/Gate.lean ====
section
/-!
DEFINITION. What follows a change of mode on the engines' side: a command or an event that takes the device from a
mode of task priorities to SAFE stops the tasks (R230, R418).
-/

namespace Sys2Proof.Machine

open Sys2Proof

/-- The dispatchers leave priority mode for flags mode: queued tasks are cancelled, running ones receive cause 0x11. -/
def settle (s : State) (r : Res) : Res :=
  match r with
  | .next t => .next (if dispMode s = 1 ∧ dispMode t = 2 then toFlagsMode t else t)
  | x => x

end Sys2Proof.Machine
end

