-- ==== Sys2Proof/Machine/RegAccess.lean ====
section
/-!
DEFINITION. Generic register access (R13–R18, R322, R462–R464): decoding an address, reading a register
through its field map, and writing each field by its access code.
-/

namespace Sys2Proof.Machine

open Sys2Proof

/-! ### Addresses -/

/-- Offset `off` decomposed over instance dimensions, outermost first. -/
def dimIdx : List (Nat × Nat) → Nat → Option (List Nat)
  | [], 0 => some []
  | [], _ + 1 => none
  | (n, st) :: ds, off =>
    let i := min (off / st) (n - 1)
    (dimIdx ds (off - i * st)).map (i :: ·)

/-- The second addresses of registers that decode twice (R464). -/
def aliasAddr (a : Nat) : Nat := if 0x300 ≤ a ∧ a < 0x400 then a + 0x200 else a

/-- Home address of an instance: a device-wide register lives in quadrant 0's window (R462). -/
def homeOf (d : RegDesc) (a : Nat) : Nat :=
  if d.devWide then
    match d.dims with
    | (_, st) :: _ => a - (a - d.base) / st * st
    | [] => a
  else a

/-- The register at an 8-byte aligned address: its row and its home address. -/
def regAt (a : Nat) : Option (RegDesc × Nat) :=
  let a := aliasAddr a
  (regTable.find? (fun d => decide (d.base ≤ a) && (dimIdx d.dims (a - d.base)).isSome)).map
    (fun d => (d, homeOf d a))

/-- The reset value of a field; HBM_PC's roles follow the channel's number (R314), MBX_CFG's masters the mailbox's
(R328). -/
def rstOf (home : Nat) (f : FieldDesc) : Nat :=
  let o := (home - 0x100000) % 0x40000
  let n := (home - 0x34018) / 0x20
  if 0x100000 ≤ home ∧ home < 0x200000 ∧ 0x200 ≤ o ∧ o < 0x400 then
    (if f.lo = 0 then firstRole ((o - 0x200) / 8) else firstLogical ((o - 0x200) / 8))
  else if 0x34018 ≤ home ∧ home < 0x34418 ∧ home % 0x20 = 0x18 ∧ f.lo < 16 then
    (if f.lo = 0 then (mailboxPair n).1 else (mailboxPair n).2)
  else f.rst

/-- A field of a row at a home address. -/
def fieldOf (home : Nat) (f : FieldDesc) : Fld := ⟨home, f.lo, f.wid, rstOf home f⟩

/-! ### Writing -/

/-- The value takes effect in the field (the field maps' own conditions). -/
def okVal (ok : WOk) (v : Nat) : Bool :=
  match ok with
  | .any => true
  | .le n => decide (v ≤ n)
  | .neq n => v != n
  | .zeroOr lo hi => v == 0 || (decide (lo ≤ v) && decide (v ≤ hi))
  | .range lo hi m => decide (lo ≤ v) && decide (v ≤ hi) && v % m == 0

/-- A write of `v` to one field that has no row of its own (R16). -/
def writeField (home : Nat) (s : State) (f : FieldDesc) (v : Nat) : State :=
  let fl := fieldOf home f
  if f.own then s
  else match f.acc with
    | .rw => if okVal f.ok v then wr s fl v else s
    | .w1c => wr s fl (rd s fl &&& ((2 ^ f.wid - 1) ^^^ v))
    | .w1s => wr s fl (rd s fl ||| v)
    | .ro | .wo | .rl => s

/-- A write of a 64-bit value to a register: each field takes its bits. -/
def writeReg (s : State) (d : RegDesc) (home v : Nat) : State :=
  d.fields.foldl (fun s f => writeField home s f (bits v f.lo f.wid)) s

/-- A 32-bit write to the low (`hi = false`) or high half: fields of the other half keep their values;
a field that crosses bit 32 keeps its other part (bits that a write sets or clears are written 0 there). -/
def writeHalfReg (s : State) (d : RegDesc) (home : Nat) (hi : Bool) (v : Nat) : State :=
  d.fields.foldl (fun s f =>
    let cur := if f.acc == .rw then rd s (fieldOf home f) else 0
    if hi then
      if 32 ≤ f.lo then writeField home s f (bits v (f.lo - 32) f.wid)
      else if 32 < f.lo + f.wid then
        writeField home s f (cur % 2 ^ (32 - f.lo) + bits v 0 (f.lo + f.wid - 32) * 2 ^ (32 - f.lo))
      else s
    else if f.lo + f.wid ≤ 32 then writeField home s f (bits v f.lo f.wid) else s) s

/-- The register holds a field that crosses between bit 31 and bit 32 (R13). -/
def crosses (d : RegDesc) : Bool := d.fields.any (fun f => decide (f.lo < 32) && decide (32 < f.lo + f.wid))

/-- Who writes a register: a management core always; another master only a register that is not reserved
to the cores, PF0 alone TIM_EPOCH_ACK, PF0 also ring 2 and the cluster agent ring 3 of the cipher engine. -/
def mayWrite (d : RegDesc) (home requester : Nat) : Bool :=
  if home = 0x50040 then requester == 1
  else isCore requester || !d.coreOnly ||
    (requester == 1 && decide (0x41040 ≤ home) && decide (home < 0x41060)) ||
    (requester == 48 && decide (0x41060 ≤ home) && decide (home < 0x41080))

/-- MBX_CFG[n] is RO for the command class, n = 32–63. -/
def isReadOnly (home : Nat) : Bool :=
  decide (0x34418 ≤ home) && decide (home ≤ 0x347F8) && home % 0x20 == 0x18

/-- A host write to a register only a management core writes (R322); it has no effect from any master
that may not write the register. -/
def protectedWrite (s : State) (requester : Nat) : State :=
  if requester = 48 then s else hifErr s R.hifErrStatProtected

end Sys2Proof.Machine
end

