-- ==== Sys2Proof/Machine/Cells.lean ====
section
/-!
DEFINITION. Meanings of the cell and queue rows (chapter 9): frames at the ingress MAC, the scheduler, the
egress, chain releases, replication.
-/

namespace Sys2Proof.Machine

open Sys2Proof

/-! ### The ingress MAC (R243, R246, R260, R261, R494) -/

/-- Count bytes that a port has received. -/
def countBytes (s : State) (p n : Nat) : State := bumpBy s (R.ctrPortCount p 1) n

/-- MAC_FRAME_MAX of a front port. -/
def frameMax (s : State) (p : Nat) : Nat := rd s (R.macFrameMaxMax (macQ p) (macM p))

/-- R243: the first MAC cell of a frame on front port `p`: up to 192 bytes from the destination address on;
`align` is ALIGN of R272, `clean` says that the frame follows idle with a clean start. A
frame for the cluster agent is diverted: the rows of its message types take it whole (R381). -/
def execFrameStart (p : Nat) (bytes : List Byte) (align : Nat) (clean : Bool) (s : State) : Res := whenLive s <|
  let rx := rxOf s p
  let b := bytes.take 192
  if 512 ≤ p ∨ (portDecl s p).isNone ∨ !portUp s p ∨ !carries s ∨ rx.frame.isSome ∨ rx.discard ∨
      (rx.stopped ∧ !clean) ∨ b = [] ∨ diverted s p b then .next s
  else
    let q := portQuad p
    let s := countBytes (bump s (R.ctrPortCount p 0)) p b.length
    if frameMax s p < b.length then .next (setRx (countDrop s 0x03 p) p ⟨none, true, b.length, false⟩)
    else
      let c := ownerClass s p b
      let r := beginFrame s p q c (4 * p + c) (rxRecord s p align) (fingerprint s p b) b
      .next (setRx r.2 p ⟨r.1, r.1.isNone, b.length, false⟩)

/-- A front port's frame has grown past MAC_FRAME_MAX (R494). -/
def oversize (s : State) (p h n : Nat) : State := setRx (macAbort s h 0x03 true) p ⟨none, true, n, false⟩

/-- R246: the next up to 256 bytes of the frame on port `p`. -/
def execCellWrite (p : Nat) (bytes : List Byte) (s : State) : Res := whenLive s <|
  let rx := rxOf s p
  let b := bytes.take 256
  let n := rx.bytes + b.length
  if b = [] then .next s
  else if rx.discard then .next (setRx (countBytes s p b.length) p { rx with bytes := n })
  else match rx.frame with
    | none => .next s
    | some h =>
      let s := countBytes s p b.length
      if frameMax s p < n then .next (oversize s p h n)
      else
        let s := addCell (setRx s p { rx with bytes := n }) h b
        .next (recheckSched s h)

/-- The last byte of a good frame: EOF, and its pending copies are enqueued (R255, R287). -/
def goodEnd (s : State) (h : Nat) (witErr : Bool) : State :=
  let s := recheckSched (endFrame s h) h
  match mget s.cel.frames h with
  | some f => if f.phase = .done then enqueueReady witErr s h else s
  | none => s

/-- R494: the last bytes of the frame on port `p`: size, runt length and FCS are checked. `witErr`: the witness
read of a copy enqueued now is uncorrectable (R425). -/
def execFrameEnd (p : Nat) (bytes : List Byte) (witErr : Bool) (s : State) : Res := whenLive s <| settle s <|
  let rx := rxOf s p
  let b := bytes.take 256
  let n := rx.bytes + b.length
  let idle : RxS := ⟨none, false, 0, false⟩
  if rx.discard then .next (setRx (countBytes s p b.length) p idle)
  else match rx.frame with
    | none => .next s
    | some h =>
      let s := countBytes s p b.length
      if frameMax s p < n then .next (setRx (oversize s p h n) p idle)
      else
        let s := if b = [] then s else addCell s h b
        let s := setRx s p idle
        match mget s.cel.frames h with
        | none => .next s
        | some f =>
          if f.abortUnsent ≠ 0 then .next s
          else if n < 64 then .next (macAbort s h 0x02 false)
          else if !fcsGood (frameBytes s h) then .next (macAbort s h 0x01 false)
          else .next (goodEnd s h witErr)

/-- A port stops: the frame on it is aborted (R260, R261), and nothing is received until a clean start. -/
def stopInput (s : State) (p : Nat) : State :=
  let rx := rxOf s p
  let s := match rx.frame with
    | some h => abortFrame s h 0x01 0x15
    | none => s
  setRx s p ⟨none, false, 0, true⟩

/-- R260: loss of signal, loss of block lock or a local fault before the last byte of a frame on port `p`. -/
def execInputStop (p : Nat) (s : State) : Res := whenLive s <|
  let rx := rxOf s p
  if 512 ≤ p ∨ !(rx.frame.isSome || rx.discard) then .next s
  else
    let s := stopInput s p
    .next (if portUp s p then linkLost s p 3 else s)

/-! ### Scheduling (R256, R257, R288) -/

/-- A port can accept a frame: it is up and sends nothing. -/
def canAccept (s : State) (p : Nat) : Bool :=
  carries s && (mget s.cel.tx p).isNone &&
    (if p < 512 then portUp s p else decide (p < 552) && !bit (rd s R.pwrParkParked) (portQuad p))

/-- R256: egress port `p` selects a frame; `hurt` disturbs the bytes of the first frame header read (R241). -/
def execSchedulerSelect (p : Nat) (hurt : List Byte) (s : State) : Res := whenLive s <|
  if !canAccept s p then .next s
  else
    let s := earnAll s p
    let r := selectHead p (s.cel.copies.length + 1) hurt s
    match r.1 with
    | some cp =>
      let s := unqueue r.2 cp
      let s := updCopy s cp (fun c => { c with st := .sending, port := p, selNs := nowNs s })
      .next { s with cel := { s.cel with tx := mset s.cel.tx p cp } }
    | none => .next r.2

/-- The head scan of one queue: expired heads are dropped (R257). -/
def scanQueue : Nat → Nat → State → State
  | 0, _, s => s
  | fuel + 1, k, s =>
    match (mget s.cel.nodes k).bind (fun n => (headCopy s n).map (fun h => (n, h))) with
    | some (n, cp, c) => if expired s n c then scanQueue fuel k (dropExpired s cp c) else s
    | none => s

/-- R257: the head scan of quadrant `q` visits every backlogged queue. -/
def execHeadScan (q : Nat) (s : State) : Res := whenLive s <|
  let ks := s.cel.nodes.filter (fun e => e.2.level == 3 && e.2.frames != [] && nodePg e.1 % 64 / 16 == q)
  .next (ks.foldl (fun s e => scanQueue (s.cel.copies.length + 1) e.1 s) s)

/-- Port `p` moves to its group's new tree, and the last port ends the change (R253). -/
def switchOne (s : State) (g p : Nat) (x : ShadowS) : State :=
  let s := switchPort s x p
  let left := (mgetD s.cel.toSwitch g []).filter (· != p)
  if left ≠ [] then { s with cel := { s.cel with toSwitch := mset s.cel.toSwitch g left } }
  else
    let s := { s with cel := { s.cel with toSwitch := mdel s.cel.toSwitch g, shadow := mdel s.cel.shadow g,
                                           treeHdr := mdel s.cel.treeHdr x.old } }
    let s := wr s (R.quePgStatPending (g / 16) (g % 16)) 0
    wr s (R.imgRegionVerVer (64 + g)) x.ver

/-- R253: port `p` switches to its new queue tree at a frame boundary on its egress. -/
def execPortTreeSwitch (p : Nat) (s : State) : Res := whenLive s <|
  match s.cel.toSwitch.find? (fun e => e.2.contains p) with
  | some (g, _) =>
    match mget s.cel.shadow g with
    | some x => .next (if modeIn s [.splice] && (mget s.cel.tx p).isNone then switchOne s g p x else s)
    | none => .next s
  | none => .next s

/-! ### Egress (R39, R240, R259, R262, R276, R277, R379) -/

/-- The frame a copy sends: mirrored, or rewritten, without its FCS. -/
def sendBody (s : State) (c : CopyS) (out : Option (List Byte)) (dir tx rx : Nat) : List Byte :=
  let b := frameBytes s c.head
  if c.mirror then mirrorForm c.trunc (body b) else correct s c dir tx rx (egressBody s c out (body b))

/-- A copy leaves on a front port. -/
def sendFront (s : State) (p cp : Nat) (c : CopyS) (f : FrameS) (out : Option (List Byte)) (dir align : Nat) : State :=
  let t := txRecord s p align (bits dir 32 16) (busPtp f.bus)
  let tx := t.ns * 2 ^ 16 + t.subns
  let rx := match mget s.tim.rxStore c.head with
    | some r => r.ns * 2 ^ 16 + r.subns
    | none => f.tsIn * 2 ^ 16
  let b := sendBody s c out dir tx rx
  let b := b ++ fcsOf b
  if ((portDecl s p).map (·.bolvis)).getD false && decide (frameMax s p < b.length) then dropCopy s cp 0x03
  else
    let s := if bit dir 0 then captureTx s p t else s
    let s := emit (measure s f t.ns) (.frame p b false)
    sentCopy s cp c b.length

/-- A copy leaves at a recirculation port, and enters there again as a whole frame (R23). -/
def sendRecirc (s : State) (p cp : Nat) (c : CopyS) (out : Option (List Byte)) : State :=
  let b := sendBody s c out 0 0 0
  let b := b ++ fcsOf b
  let s := sentCopy s cp c b.length
  (wholeFrame s p (portQuad p) (4 * p) b).2

/-- A cell CRC mismatch of a copy is counted; on a scheduled copy it is fault 0 (R240, R415). -/
def crcFault (s : State) (f : FrameS) (cp : Nat) (c : CopyS) : State :=
  let s := bump s (R.celCntCount f.quad 9)
  if c.sched then raiseFault (bump s (R.safCntCount 7)) 0 (unitOf f.quad 0) cp else s

/-- R240: the egress of the copy that port `p` sends. `fault`: 1 a cell CRC mismatch or 2 a poisoned pool 1 read
before its first byte; 3 and 4 the same after it. `out`: the bytes the image's egress program writes; `dir`: its
MAC directive (R276); `align`: ALIGN_tx. A running cut-through copy waits for its frame's end. -/
def execEgressSend (p fault : Nat) (out : Option (List Byte)) (dir align : Nat) (s : State) : Res := whenLive s <| settle s <|
  match (mget s.cel.tx p).bind (fun cp => (mget s.cel.copies cp).map (fun c => (cp, c))) with
  | some (cp, c) =>
    match mget s.cel.frames c.head with
    | some f =>
      let b := frameBytes s c.head
      if 544 ≤ p then .next s
      else if fault = 1 then .next (txDone (crcFault (dropCopy s cp 0x13) f cp c) p)
      else if fault = 2 ∧ f.pool = 1 then .next (txDone (dropCopy s cp 0x14) p)
      else if fault = 3 then .next (txDone (crcFault (stompCopy s p cp c 0x13 b) f cp c) p)
      else if fault = 4 ∧ f.pool = 1 then .next (txDone (stompCopy s p cp c 0x14 b) p)
      else if c.dropAs ≠ 0 then .next (txDone (stompCopy s p cp c c.dropAs b) p)
      else if f.abortUnsent ≠ 0 then .next (txDone (stompCopy s p cp c f.abortStomp b) p)
      else if !f.ended then .next s
      else
        let l := frameCells s c.head
        let r := if f.pool = 1 then cellsIn s l 0 else (none, s)
        let s := r.2
        match r.1 with
        | some 0 => .next (txDone (dropCopy s cp 0x14) p)
        | some i => .next (txDone (stompCopy s p cp c 0x14
            ((l.take i).flatMap (fun x => ((mget s.cel.cells x).map (·.data)).getD []))) p)
        | none =>
          if p < 512 then .next (txDone (sendFront s p cp c f out dir align) p)
          else .next (txDone (sendRecirc s p cp c out) p)
    | none => .next (txDone s p)
  | none => .next s

/-! ### Releases and frees (R247–R249) -/

/-- An early free is refused and counted (R248). -/
def earlyFree (s : State) (head : Nat) : State := bump s (R.celCntCount (ptrQuad head) 5)

/-- R248: a release of the chain at `head` by the copy named `by'`, or by the ingress writer. A copy is done while
it is being sent, the writer once the frame has ended or stopped; any other request is an early free. -/
def execChainRelease (head : Nat) (writer : Bool) (cp : Nat) (s : State) : Res := whenLive s <|
  match mget s.cel.cells head, mget s.cel.frames head with
  | some _, some f =>
    if writer then
      if f.writer ∧ (f.ended ∨ f.abortUnsent ≠ 0) then .next (writerRelease s head) else .next (earlyFree s head)
    else match mget s.cel.copies cp with
      | some c =>
        if c.head = head ∧ c.st = .sending then .next (txDone (releaseCopy s cp) c.port) else .next (earlyFree s head)
      | none => .next (earlyFree s head)
  | some _, none => .next s
  | none, _ => .next (freeCell s head 0)

/-- Cells of a pool in a quadrant's share or stack (R238, R242). -/
def poolCells (s : State) (pool q : Nat) : Nat :=
  if pool = 0 then fieldLe (sec s 2 0) (9 + 8 * q) 1 * 65536 else fieldLe (sec s 2 0) (0x0C + 8 * q) 2 * 2 ^ 20

/-- A cell is in use: it belongs to a frame that has copies or a writer, or it is the copy cell of one. -/
def inUse (s : State) (p : Nat) : Bool :=
  (mget s.cel.copies p).isSome ||
    s.cel.frames.any (fun e => (e.2.writer || e.2.copies != [] || e.2.phase != .done) && (frameCells s e.1).contains p)

/-- R247: CEL_FREE of quadrant `q` with GO: a management core frees the chain at `ptr`. -/
def execCelFree (r q ptr : Nat) (s : State) : Res := whenLive s <|
  let s := dropLatch s r
  if !isCore r then .next (protectedWrite s r)
  else
    let ptr := ptr % 2 ^ 28
    let s := wr s (R.celFreePtr q) ptr
    if poolCells s (ptrPool ptr) (ptrQuad ptr) ≤ ptrIndex ptr then .next (wrStat s (R.celFreeStatus q) .invalid)
    else if inUse s ptr then .next (wrStat (earlyFree s ptr) (R.celFreeStatus q) .busy)
    else
      let s := (chainCells s s.cel.cells.length ptr ++ (if s.cel.cells = [] then [ptr] else [])).foldl
        (fun s p => freeCell s p r) s
      .next (wrStat s (R.celFreeStatus q) .ok)

/-! ### The replication table (R258) -/

/-- Member runs in use: of the groups, and old ones not yet freed. -/
def usedRuns (s : State) : List (Nat × Nat) :=
  (s.cel.replGroup.map (fun e => e.2) ++ s.cel.replOld.map (fun e => (e.1, e.2.1))).filter (fun e => e.2 != 0)

/-- The lowest free run of `n` member entries. -/
def freeRun (s : State) (n : Nat) : Option Nat :=
  let u := usedRuns s
  (0 :: u.map (fun e => e.1 + e.2)).foldl (fun best a =>
    if a + n ≤ 2 ^ 18 ∧ u.all (fun e => decide (e.1 + e.2 ≤ a) || decide (a + n ≤ e.1)) then
      match best with
      | some b => some (min a b)
      | none => some a
    else best) none

/-- R258: REPL_SET of group `g`; a member is PORT, QOFF and PRUNE. -/
def execReplSet (h : CmdHdr) (g : Nat) (members : List (Nat × Nat × Bool)) (s : State) : Res := whenLive s <|
  .next (guarded s h (some 0) (fun s => inModes commandModes s (fun s =>
    if g = 0 ∨ 65536 ≤ g ∨ 4096 < members.length ∨
        members.any (fun m => decide (1024 ≤ m.1) || decide (2 ^ 21 ≤ m.2.1)) then refuse .invalid s
    else match (if members = [] then some 0 else freeRun s members.length) with
      | none => refuse .noRoom s
      | some a =>
        let m := (List.range members.length).foldl (fun m i =>
          match members[i]? with
          | some x => mset m (a + i) ⟨x.1, x.2.1, x.2.2⟩
          | none => m) s.cel.replMember
        let old := match mget s.cel.replGroup g with
          | some r => if r.2 = 0 then [] else [(r.1, r.2, uptime s)]
          | none => []
        okay { s with cel := { s.cel with replMember := m, replGroup := mset s.cel.replGroup g (a, members.length),
                                          replOld := s.cel.replOld ++ old } })))

/-- R258: 2 µs after a REPL_SET the old member run is freed. -/
def execReplRunFree (s : State) : Res := whenLive s <|
  let due := s.cel.replOld.filter (fun e => decide (e.2.2 + 2000 ≤ uptime s))
  let keep := s.cel.replOld.filter (fun e => decide (uptime s < e.2.2 + 2000))
  let m := s.cel.replMember.filter (fun e => !due.any (fun d => decide (d.1 ≤ e.1) && decide (e.1 < d.1 + d.2.1)))
  .next { s with cel := { s.cel with replOld := keep, replMember := m } }

end Sys2Proof.Machine
end

