-- ==== Sys2Proof/Machine/Engines.lean ====
section
/-!
DEFINITION. Meanings of the flow-engine rows (chapter 8): admission, dispatch, microwords, memory and flow-table
operations, posted tasks, cancellation, flags, and the group commands.
-/

namespace Sys2Proof.Machine

open Sys2Proof

/-- Context `c` of group `k` of quadrant `q`. -/
def ctxOf (q k c : Nat) : Nat := 64 * grpOf (q % 4) (k % 8) + c % 64

/-! ### Tasks and words -/

/-- R223, R231: a quadrant's sequencer posts the repairs that wait, and the next task at its dispatcher input is
admitted. -/
def execTaskAdmit (quad : Nat) (s : State) : Res := whenLive s <| settle s <|
  .next (admitTask (postRepairs s (quad % 4)) (quad % 4))

/-- R175, R227–R229: the dispatcher starts a task, or the task in affinity slot `aff`. -/
def execDispatch (quad grp : Nat) (aff : Option Nat) (s : State) : Res := whenLive s <|
  .next (dispatchGroup s (grpOf (quad % 4) (grp % 8)) aff)

/-- R210, R222: a context issues its next word; `ecc` is the control store's error: 1 corrected, 2 uncorrectable. -/
def execMicrowordIssue (quad grp ctx ecc : Nat) (s : State) : Res := whenLive s <| settle s <|
  .next (
    let g := grpOf (quad % 4) (grp % 8)
    if ecc = 2 then (if (mget s.eng.store g).isSome then failGroup s g else s)
    else
      let s := if ecc = 1 then engCount s g 7 else s
      sweepEnd (issueWord s (ctxOf quad grp ctx)) (quad % 4))

/-- R214: an HBM operation completes; `first` and `again` disturb the granules it reads, read first and re-read. -/
def execMemOpComplete (quad grp ctx : Nat) (first again : List (Nat × Nat)) (s : State) : Res :=
  whenLive s <| settle s <|
  .next (
    let c := ctxOf quad grp ctx
    match (mget s.eng.ctxs c).bind (·.mem) with
    | some m => if m.space = 1 then s else memComplete s c m (errsOf first again)
    | none => s)

/-- R212: a suspended context resumes; `timedOut`: its timeout has passed. -/
def execWaitEnd (quad grp ctx : Nat) (timedOut : Bool) (s : State) : Res := whenLive s <| settle s <|
  .next (resumeWait s (ctxOf quad grp ctx) timedOut)

/-! ### Flow-table operations (R215) -/

/-- R215: a read fetches the record into the line buffer; a record that no cache holds is read from its bucket, charged
to the byte budget (R168, R171), and `first` and `again` disturb that read and its re-read. -/
def execFopRead (quad grp ctx : Nat) (first again : List (Nat × Nat)) (s : State) : Res := whenLive s <| settle s <|
  .next (
    let c := ctxOf quad grp ctx
    match fopOf s c 0 with
    | some (m, _) =>
      let h := bits m.addr 8 29
      let q := handleQuad h
      let r0 := slotRec s q (handleSlot h)
      let n := 64 * min 2 m.len
      match cached s q (recKey r0) with
      | some r =>
        if recValid r0 then fopDone (lbWrite s c (64 * m.lbOff) ((toLe 128 r).take n)) c m.dataReg 0
        else fopDone s c m.dataReg 2
      | none =>
        let a := hbmRead (byteCharge s q 512) missPort q (slotAddr s q (handleSlot h)) 128 (errsOf first again)
        if a.bad then
          let x := freeVal (lbWrite a.st c (64 * m.lbOff) (a.bytes.take n)) 64
          memDone (setReg x.2 c m.dataReg x.1) c true
        else if recValid (leNat a.bytes) ∧ handleSlot h < recSlots s then
          fopDone (lbWrite a.st c (64 * m.lbOff) (a.bytes.take n)) c m.dataReg 0
        else fopDone a.st c m.dataReg 2
    | none => s)

/-- A record that a setup places carries the device, the take and the ticks of its first packet (R146). -/
def stampSetup (s : State) (t : TaskS) (r : Nat) : Nat :=
  let bus := leNat (slice t.payload 0 128)
  putBits (putBits (putBits (putBits r 401 6 (deviceId s)) 416 16 (busTake bus)) 896 24 (flowTick s)) 920 24 (flowTick s)

/-- A task is the setup of a flow (R223). -/
def setupTask (t : TaskS) : Bool := t.kind == 0 && t.flag.isNone

/-- R162, R164, R167, R215, R234: a place puts the record, and the alias when LEN is 4, in HBM as one unit; a pin
without room is not made. -/
def execFopPlace (quad grp ctx : Nat) (s : State) : Res := whenLive s <|
  .next (
    let c := ctxOf quad grp ctx
    match fopOf s c 1 with
    | some (m, t) =>
      if t.abandoned then fopDone s c m.dataReg 4
      else
        let r := setBit (leNat (slice m.data 0 128)) 320
        let r := if setupTask t then stampSetup s t r else r
        let q := homeOfKey s (recKey r)
        let g := if recPin r then grantPin s q (recKey r) r else (r, s)
        let i := ((mget s.eng.ctxs c).map (·.task)).getD 0
        let al := if m.len = 4 then some (fun _ => setBit (setBit (leNat (slice m.data 128 128)) 320) 321) else none
        match placeBoth g.2 q g.1 al with
        | .full s => fopDone s c m.dataReg 1
        | .quarantine s => fopDone s c m.dataReg 4
        | .at x s =>
          let s := updTask s i (fun t => { t with placed := some (recKey r) })
          let s := updCtx s c (fun y => { y with handle := some (q * 2 ^ 27 + x) })
          fopDone s c m.dataReg ((q * 2 ^ 27 + x) * 256)
    | none => s)

/-- R215: an update rewrites the record of the handle in the cache or HBM; PIN changes only by R167. -/
def execFopUpdate (quad grp ctx : Nat) (s : State) : Res := whenLive s <|
  .next (
    let c := ctxOf quad grp ctx
    match fopOf s c 2 with
    | some (m, _) =>
      let h := bits m.addr 8 29
      let r := setBit (leNat (slice m.data 0 128)) 320
      match handleRec s h with
      | some old =>
        if recKey old = recKey r then
          fopDone (rewriteRec s (handleQuad h) (putBits r 388 1 (bits old 388 1)) (handleSlot h)) c m.dataReg 0
        else fopDone s c m.dataReg 2
      | none => fopDone s c m.dataReg 2
    | none => s)

/-- R168, R169, R215: a remove takes effect at the set arbiter; with RETEST it is abandoned if the record is no
longer idle. A scheduled record is left to FLOW_DELETE. -/
def execFopRemove (quad grp ctx : Nat) (s : State) : Res := whenLive s <|
  .next (
    let c := ctxOf quad grp ctx
    match fopOf s c 3 with
    | some (m, _) =>
      let h := bits m.addr 8 29
      let q := handleQuad h
      match handleRec s h with
      | some r =>
        let retest := bit m.addr 4
        if recAlias r then fopDone (eraseKey s q (recKey r)) c m.dataReg 0
        else if recSched r || (retest && !idleNow s q r) then fopDone s c m.dataReg 4
        else
          let s := removeFlow s q r (if !retest then 4 else if recState r = 7 ∨ recState r = 8 then 3 else 1)
          fopDone (if retest then bump s (R.fltCntCount q 7) else s) c m.dataReg 0
      | none => fopDone s c m.dataReg 2
    | none => s)

/-- R167, R215: a pin within the limits. -/
def execFopPin (quad grp ctx : Nat) (s : State) : Res := whenLive s <|
  .next (
    let c := ctxOf quad grp ctx
    match fopOf s c 4 with
    | some (m, t) =>
      let h := bits m.addr 8 29
      match handleRec s h with
      | some r =>
        let a := pinRecord s (recKey r) r
        if a.1 = .ok then fopDone a.2 c m.dataReg 0
        else fopDone (if setupTask t then bump s (R.fltCntCount (handleQuad h) 14) else s) c m.dataReg 3
      | none => fopDone s c m.dataReg 2
    | none => s)

/-- R167, R215: an unpin; a scheduled record keeps its pin. -/
def execFopUnpin (quad grp ctx : Nat) (s : State) : Res := whenLive s <|
  .next (
    let c := ctxOf quad grp ctx
    match fopOf s c 5 with
    | some (m, _) =>
      match handleRec s (bits m.addr 8 29) with
      | some r =>
        if recSched r then fopDone s c m.dataReg 3
        else if recPin r then fopDone (unpinRecord s (recKey r)) c m.dataReg 0
        else fopDone s c m.dataReg 2
      | none => fopDone s c m.dataReg 2
    | none => s)

/-! ### Posted tasks, cancels and interrupts -/

/-- R224, R227, R229: a write of TSK_POST_CTL.GO posts the descriptor, or is refused. -/
def execTaskPost (requester quad grp : Nat) (s : State) : Res := whenLive s <|
  let s := dropLatch s requester
  if !isCore requester then .next (protectedWrite s requester)
  else .next (
    let q := quad % 4
    let k := grp % 8
    let d := ((List.range 4).map (fun j => toLe 8 (rd s (R.tskPostBytes q k j)))).flatten
    let t := descTask s q 3 d
    let bad := bits (leNat (slice d 0 4)) 18 3 ≠ 0 ∨ servingGroups s q t.cls = [] ∨
      fieldLe (ucode s t.cls) 0 2 ≤ t.entry
    if dispMode s ≠ 1 then wrStat s (R.tskPostCtlStatus q k) .refusedMode
    else if bad then wrStat s (R.tskPostCtlStatus q k) .invalid
    else if !taskRoom s t then wrStat s (R.tskPostCtlStatus q k) .busy
    else wrStat (newTask s t).2 (R.tskPostCtlStatus q k) .ok)

/-- R233: TSK_CANCEL.GO cancels the outstanding task of a domain and sequence. -/
def execTaskCancel (requester quad domain seq : Nat) (s : State) : Res := whenLive s <| settle s <|
  let s := dropLatch s requester
  if !isCore requester then .next (protectedWrite s requester)
  else .next (
    let q := quad % 4
    let d := domain % 65536
    let n := seq % 65536
    let s := wrs s [(R.tskCancelDomain q, d), (R.tskCancelSeq q, n)]
    match s.eng.tasks.find? (fun e => e.2.quad == q && e.2.admitted && e.2.domain == d && e.2.seq == n && !e.2.abandoned) with
    | some (i, _) => wrStat (cancelAny s i) (R.tskCancelStatus q) .ok
    | none => wrStat s (R.tskCancelStatus q) .invalid)

/-- R233: 10 µs after its cancel a task still runs, and its context is killed. -/
def execCancelKill (quad grp ctx : Nat) (s : State) : Res := whenLive s <| settle s <|
  .next (
    let c := ctxOf quad grp ctx
    match ctxTask s c with
    | some (_, t) => if t.cancel then killCtx s c else s
    | none => s)

/-- R217: ENG_INT.GO raises cause 0x10 on a context. -/
def execEngInt (requester quad grp ctx code : Nat) (s : State) : Res := whenLive s <|
  let s := dropLatch s requester
  if !isCore requester then .next (protectedWrite s requester)
  else .next (
    let q := quad % 4
    let k := grp % 8
    let c := ctxOf quad grp ctx
    let s := wrs s [(R.engIntCtx q k, ctx), (R.engIntCode q k, code)]
    if (mget s.eng.ctxs c).isSome then raiseIntr (wr s (R.engIntGo q k) 1) c 0x10 (code % 256) else s)

/-- R229: a write to TSK_FLAG sets event flags. -/
def execFlagWrite (requester quad grp task flags : Nat) (s : State) : Res := whenLive s <|
  let s := dropLatch s requester
  if !isCore requester then .next (protectedWrite s requester)
  else .next (
    let f := R.tskFlagFlags (quad % 4) (grp % 8) (task % 64)
    wr s f (rd s f ||| flags % 2 ^ 32))

/-- R229: the group tick sets bit 31 of every declared flag task. -/
def execFlagTick (quad grp : Nat) (s : State) : Res := whenLive s <|
  .next (
    let q := quad % 4
    let k := grp % 8
    if rd s (R.tskFlagCfgTickUs q k) = 0 ∨ dispMode s = 0 then s
    else (grpStore s (grpOf q k)).ft.foldl (fun s e =>
      wr s (R.tskFlagFlags q k e.1) (setBit (rd s (R.tskFlagFlags q k e.1)) 31)) s)

/-- R230: 10 µs after a change of the dispatcher's mode, contexts of the mode that has ended are killed. -/
def execModeChangeKill (s : State) : Res := whenLive s <| settle s <|
  .next (((s.eng.ctxs.map (·.1)).filter (staleCtx s)).foldl killCtx s)

/-! ### Group commands -/

/-- R235: ENG_GRP_CTL.DRAIN. -/
def execGroupDrain (requester quad grp : Nat) (s : State) : Res := whenLive s <| settle s <|
  let s := dropLatch s requester
  if !isCore requester then .next (protectedWrite s requester)
  else
    let g := grpOf (quad % 4) (grp % 8)
    .next (grpStatus g (cmdDrain s g))

/-- R235: 20 µs into a drain, running contexts are killed and the group is drained. -/
def execDrainKill (quad grp : Nat) (s : State) : Res := whenLive s <| settle s <|
  let g := grpOf (quad % 4) (grp % 8)
  .next (if grpState s g = 2 then spliceGroups (endDrain s g) else s)

/-- R235: ENG_GRP_CTL.RETURN. -/
def execGroupReturn (requester quad grp : Nat) (s : State) : Res := whenLive s <|
  let s := dropLatch s requester
  if !isCore requester then .next (protectedWrite s requester)
  else
    let g := grpOf (quad % 4) (grp % 8)
    .next (grpStatus g (cmdReturn s g))

/-- R236: ENG_GRP_CTL.ADOPT of a class. -/
def execGroupAdopt (requester quad grp cls : Nat) (s : State) : Res := whenLive s <|
  let s := dropLatch s requester
  if !isCore requester then .next (protectedWrite s requester)
  else
    let g := grpOf (quad % 4) (grp % 8)
    .next (grpStatus g (cmdAdopt (wr s (R.engGrpCtlAdoptClass (quad % 4) (grp % 8)) cls) g (cls % 8)))

/-- R235: ENG_GRP_CTL.RELEASE. -/
def execGroupRelease (requester quad grp : Nat) (s : State) : Res := whenLive s <|
  let s := dropLatch s requester
  if !isCore requester then .next (protectedWrite s requester)
  else
    let g := grpOf (quad % 4) (grp % 8)
    .next (grpStatus g (cmdRelease s g))

/-- R222, R236: a group's control-store load completes. -/
def execControlStoreLoadDone (quad grp ecc : Nat) (s : State) : Res := whenLive s <| settle s <|
  .next (loadDone s (grpOf (quad % 4) (grp % 8)) ecc)

/-- R235, R341: ENG_GROUP: 0 drain, 1 return, 2 adopt, 3 release, in the order R341 lists them. -/
def execEngGroup (h : CmdHdr) (quad grp op cls : Nat) (s : State) : Res := whenLive s <| settle s <|
  .next (guarded s h (some 3) (fun s => inModes commandModes s (fun s =>
    let g := grpOf (quad % 4) (grp % 8)
    let a := match op with
      | 0 => cmdDrain s g
      | 1 => cmdReturn s g
      | 2 => cmdAdopt s g (cls % 8)
      | 3 => cmdRelease s g
      | _ => (Status.invalid, s)
    if quad < 4 ∧ grp < 8 ∧ op < 4 ∧ cls < 8 then ⟨a.1, [], grpStatus g a⟩ else refuse .invalid s)))

/-- R428: the next step of a group's test; `idle` is the idle group that stands in, `pass` what its slice found. -/
def execEngineGroupTest (quad grp : Nat) (idle : Option Nat) (pass : Bool) (s : State) : Res := whenLive s <| settle s <|
  .next (groupTest s (grpOf (quad % 4) (grp % 8)) idle pass)

end Sys2Proof.Machine
end

