-- ==== Sys2Proof/Machine/JournalOps.lean ====
section
/-!
DEFINITION. Shared operations of the journal controller (R431, R432, R435–R437): commits, the overflow buffer,
and reading records back.
-/

namespace Sys2Proof.Machine

open Sys2Proof

/-- Records the flash ring and its mirror hold (R431). -/
def jRing : Nat := 65536

/-- Append records to a ring, overwriting the oldest. -/
def ringPut (l new : List JRec) : List JRec := (l ++ new).drop ((l ++ new).length - jRing)

/-- The mirror is written and read while stack 0 serves (R437). -/
def mirrorOn (s : State) : Bool := rd s (R.hbmStatState 0) == 3

/-- The first `n` records of the tail are committed to flash and, if `mirror`, copied to the mirror (R435). -/
def commitRecs (s : State) (n : Nat) (mirror : Bool) : State :=
  let r := s.saf.jTail.take n
  let s := { s with saf := { s.saf with
    jTail := s.saf.jTail.drop n
    jFlash := ringPut s.saf.jFlash r
    jMirror := if mirror then ringPut s.saf.jMirror r else s.saf.jMirror } }
  jSync (bumpBy s (R.jnlCntCount 1) r.length)

/-- Records of the overflow buffer enter the tail while it has room (R435). -/
def refillTail (s : State) : State :=
  let room := (rd s R.jnlCfgTailMax - jBytes s.saf.jTail) / 64
  jSync { s with saf := { s.saf with
    jTail := s.saf.jTail ++ s.saf.jOver.take room
    jOver := s.saf.jOver.drop room } }

/-- When room returns after a discard, a JOURNAL_LOSS record follows (R435). -/
def reportLoss (s : State) : State :=
  let n := s.saf.jLost
  if n = 0 ∨ 16384 < jBytes s.saf.jOver + 64 then s
  else journal { s with saf := { s.saf with jLost := 0 } } 0x0062 2 0 (.num 0) n 0

/-- The power-fail commit, and the same commit of a warm reset and of a freeze (R436): the whole tail. -/
def commitTail (s : State) (mirror : Bool) : State := commitRecs s s.saf.jTail.length mirror

/-- The QSPI pins of a device whose full load was refused are released once its record has left the tail and the
overflow buffer (R64). -/
def qspiRelease (s : State) : State :=
  match s.img.qspiAfter with
  | some n =>
    if (s.saf.jTail ++ s.saf.jOver).any (fun r => r.seq == n) then s
    else { s with img := { s.img with qspiOut := true, qspiAfter := none } }
  | none => s

/-- The records held: of the mirror or the flash, and those not yet committed (R437). -/
def heldRecs (s : State) : List JRec :=
  (if mirrorOn s then s.saf.jMirror else s.saf.jFlash) ++ s.saf.jTail ++ s.saf.jOver

/-- `a` is `b` or newer in serial-number order (R432). -/
def notOlder (a b : Nat) : Bool := decide ((a + 2 ^ 32 - b % 2 ^ 32) % 2 ^ 32 < 2 ^ 31)

/-- Up to `n` held records in SEQ order from `from_` on (R437). -/
def readRecs (s : State) (from_ n : Nat) : List JRec :=
  let dist := fun (r : JRec) => (r.seq + 2 ^ 32 - from_ % 2 ^ 32) % 2 ^ 32
  (((heldRecs s).filter (fun r => notOlder r.seq from_)).mergeSort (fun a b => decide (dist a ≤ dist b))).take n

end Sys2Proof.Machine
end

