-- ==== Sys2Proof/Machine/Safety.lean ====
section
/-!
DEFINITION. Faults and their clearing, the analog and clock checks, the power-fail input and the journal
(R415–R422, R427–R437).
-/

namespace Sys2Proof.Machine

open Sys2Proof

/-! ### Fault sources (R415–R417) -/

/-- Keep SAF_STAT.ROT_LOST equal to what it shows: bit q, code 7 holds for quadrant q. -/
def syncRotLost (s : State) : State :=
  let m := (List.range 4).foldl (fun m q =>
    if s.saf.standing.any (fun e => e.1 == 7 && e.2 / 16384 == q) then setBit m q else m) 0
  wr s R.safStatRotLost m

/-- R415–R418: source `code` fires at `unit`; `standing`: a condition that holds from now on. -/
def execFaultDetect (code unit detail : Nat) (standing : Bool) (s : State) : Res := whenPowered s <| settle s <|
  if 23 ≤ code then .next s
  else
    let s := if code = 0 then bump s (R.safCntCount 7) else s
    let s := if code = 20 ∧ !standing then { s with saf := { s.saf with uncRead := true } } else s
    let s := if standing then standFault s code unit detail else raiseFault s code unit detail
    .next (syncRotLost s)

/-- An engine group is testable (R414): a second serving group of its class, or an idle group. -/
def testable (s : State) (g : Nat) : Bool :=
  hasSibling s g || (List.range 8).any (fun k => grpState s (grpOf (grpQuad g) k) == 0)

/-- An engine group is overdue (R416). -/
def overdue (s : State) (g : Nat) : Bool :=
  grpState s g == 1 && testable s g && decide (mgetD s.saf.engPass g 0 + 8000000 < uptime s)

/-- A write of 1 clears the source's bit now (R415, R416). -/
def ackClears (s : State) (code : Nat) : Bool :=
  if [0, 2, 3, 6, 10, 15, 20, 21, 22].contains code then true
  else if code = 9 then !(List.range 32).any (overdue s)
  else if code = 18 then !s.saf.pfwN
  else if code = 1 ∨ code = 17 then false
  else !standsAny s code

/-- One written bit of SAF_FAULT. -/
def ackBit (v : Nat) (s : State) (code : Nat) : State :=
  if bit v code && ackClears s code then
    let s := if code = 20 then { s with saf := { s.saf with uncRead := false } } else s
    clearFault s code 0
  else s

/-- R416: a write of `v` to SAF_FAULT, which a management core makes. -/
def execFaultAck (r v : Nat) (s : State) : Res := whenClocked s <|
  let s := dropLatch s r
  if !isCore r then .next (protectedWrite s r) else .next ((List.range 23).foldl (ackBit v) s)

/-- The sources whose bit clears by itself when their condition ends (R415, R416). -/
def selfClearing (c : Nat) : Bool := [4, 5, 7, 8, 11, 12, 13, 14, 16, 19, 20].contains c

/-- A physical pipe (9q + p) serves a port group. -/
def pipeServes (s : State) (i : Nat) : Bool := (List.range 16).any (fun n => rd s (R.modXbarPg (i / 9) n) == i % 9)

/-- A quadrant is parked. -/
def quadParked (s : State) (q : Nat) : Bool := bit (rd s R.pwrParkParked) q

/-- Rotation is enabled in a quadrant. -/
def rotOn (s : State) (q : Nat) : Bool := bit (rd s R.modRotEn) q

/-- A serving pipe has gone more than 8 ms without a passed slice while its EN bit is 1 (R427). -/
def pipeOld (s : State) (i : Nat) : Bool :=
  rotOn s (i / 9) && pipeServes s i && !quadParked s (i / 9) &&
    decide (mgetD s.saf.pipePass i 0 + 8000000 < uptime s)

/-- The condition of a rotation code still holds (R415): 7 while a pipe is retired and EN is 1, 8 while a
serving pipe is old. -/
def rotHolds (s : State) (code unit : Nat) : Bool :=
  let q := unit / 16384
  (code == 7 && rotOn s q && rd s (R.modSpareRetired q) != 0 && !quadParked s q) ||
  (code == 8 && (List.range 9).any (fun p => pipeOld s (9 * q + p)))

/-- R416: a standing condition ends, and its bit clears by itself. -/
def execFaultClear (code unit : Nat) (s : State) : Res := whenPowered s <|
  if selfClearing code ∧ s.saf.standing.contains (code, unit) ∧ !rotHolds s code unit then
    .next (syncRotLost (endStanding s code unit))
  else .next s

/-! ### Analog and clock checks (R429) -/

/-- R429: a domain clock or a reference goes out of tolerance; HIF is monitored only while its PLL is locked. -/
def execClockMonitor (unit : Nat) (hif : Bool) (s : State) : Res := whenPowered s <| settle s <|
  if hif && !s.host.refclk then .next s else .next (standFault s 11 unit 0)

/-- R429: a rail leaves its window, or its bandgaps disagree. -/
def execVoltageMonitor (rail : Nat) (s : State) : Res := whenPowered s <| settle s <| .next (standFault s 12 rail 0)

/-- The median of three. -/
def median3 (a b c : Nat) : Nat := max (min a b) (min (max a b) c)

/-- A sensor is more than 5 °C from the median. -/
def tempFar (m t : Nat) : Bool := decide (m + 5 < t) || decide (t + 5 < m)

/-- R429: the three sensors of a die are voted. Dies 0–3 are the core dies, 4–7 the SerDes dies, 8 the control die. -/
def execTempVote (die t0 t1 t2 : Nat) (s : State) : Res := whenPowered s <| settle s <|
  if 9 ≤ die then .next s
  else
    let m := median3 t0 t1 t2
    let s := { s with saf := { s.saf with temps := mset s.saf.temps die m } }
    let far := tempFar m t0 || tempFar m t1 || tempFar m t2
    let d := rd s R.bstAnaTempDis
    let s := if die < 4 then wr s R.bstAnaTempDis (if far then setBit d die else clrBit d die) else s
    if decide (105 < m) || far then .next (standFault s 13 (unitOf die die) m) else .next s

/-- R271, R429: the duplicate of the counter differs, or its rate is off; running lists are suspended. -/
def execTimeCrosscheck (s : State) : Res := whenPowered s <| settle s <| .next (standFault (suspendLists s) 14 0 0)

/-- Show one check of a die or stack in BST_ANA, and begin or end its standing condition. -/
def anaCheck (s : State) (f : Fld) (i code : Nat) (bad : Bool) : State :=
  let v := rd s f
  let s := wr s f (if bad then setBit v i else clrBit v i)
  if bad then standFault s code (unitOf i 0) 0
  else if s.saf.standing.contains (code, unitOf i 0) then endStanding s code (unitOf i 0) else s

/-- R429: the loop-back of a SerDes die's spare lane, and the eye heights of its lanes. -/
def execSerdesLoopback (die : Nat) (laneBad eyeLow : Bool) (s : State) : Res := whenPowered s <| settle s <|
  if 4 ≤ die then .next s
  else .next (anaCheck (anaCheck s R.bstAnaLaneFail die 16 laneBad) R.bstAnaEyeLow die 19 eyeLow)

/-- R429: the loop-back of a stack's PHY. -/
def execHbmPhyLoopback (stack : Nat) (bad : Bool) (s : State) : Res := whenPowered s <|
  if 4 ≤ stack then .next s else .next (anaCheck s R.bstAnaHbmLoop stack 20 bad)

/-- R420: a pin's level differs from its drive for 1 µs. -/
def execPinReadback (s : State) : Res := whenPowered s <| settle s <|
  .next (raiseFault (bump (wr s R.safStatReadbackErr 1) (R.safCntCount 5)) 17 0 0)

/-- R427: a serving pipe of a quadrant whose EN bit is 1 is found untested for more than 8 ms. -/
def execPipeTestAge (q p : Nat) (s : State) : Res := whenLive s <| settle s <|
  if q < 4 ∧ p < 9 ∧ pipeOld s (9 * q + p) then .next (standFault s 8 (unitOf q p) 0) else .next s

/-! ### The power-fail input (R436) -/

/-- The POWER_FAIL record, with the tail's bytes at t0. -/
def powerFailRec (s : State) (tail : Nat) : State := journal s 0x0060 3 0 (.num 0) tail 0

/-- R436: PFW_N held low for 1 µs. In FREEZE it only adds its record, until the tail is committed (R456). -/
def execPfwNAssert (s : State) : Res := whenPowered s <| settle s <|
  if s.saf.pfwN then .next s
  else
    let tail := jBytes s.saf.jTail
    let s := { s with saf := { s.saf with pfwN := true } }
    if modeIn s [.freeze] then .next (if s.ctr.frzStep = 7 then s else powerFailRec s tail)
    else .next (powerFailRec (raiseFault s 18 0 0) tail)

/-- R436 step 2: every record of the tail is committed and PF_DONE is set. -/
def execPowerFailCommitDone (s : State) : Res := whenClocked s <|
  if s.saf.pfwN ∧ !rdB s R.jnlStatPfDone ∧ !modeIn s [.freeze] then
    .next (wr (commitTail s (mirrorOn s)) R.jnlStatPfDone 1)
  else .next s

/-- R436: PFW_N deasserts; commits resume. -/
def execPfwNDeassert (s : State) : Res := whenPowered s <|
  .next (wr { s with saf := { s.saf with pfwN := false } } R.jnlStatPfDone 0)

/-! ### The journal (R432–R437) -/

/-- The record types of R434. -/
def jTypes : List Nat :=
  [0x0001, 0x0002, 0x0010, 0x0011, 0x0012, 0x0013, 0x0020, 0x0021, 0x0022, 0x0030, 0x0031, 0x0040, 0x0041, 0x0042,
   0x0043, 0x0044, 0x0045, 0x0046, 0x0050, 0x0051, 0x0052, 0x0053, 0x0060, 0x0061, 0x0062]

/-- R435: firmware or a block posts a record; a type not listed in R434 is never written. -/
def execJournalPost (typ sev req unit : Nat) (st : JStatus) (a0 a1 a2 : Nat) (s : State) : Res := whenLive s <|
  if jTypes.contains typ ∧ sev < 4 then .next (journalFull s typ sev req unit st a0 a1 a2) else .next s

/-- R435: a flash program of `n` records completes, or it fails (`ok` false): retried once at the next sector. -/
def execJournalCommit (n : Nat) (ok : Bool) (s : State) : Res := whenClocked s <|
  if rdB s R.jnlStatPfDone ∨ s.saf.jTail = [] then .next s
  else if ok then
    let s := commitRecs { s with saf := { s.saf with jRetry := false } } n (mirrorOn s)
    .next (qspiRelease (reportLoss (refillTail s)))
  else if !s.saf.jRetry then
    .next (bump { s with saf := { s.saf with jRetry := true } } (R.jnlCntCount 3))
  else
    let s := wr { s with saf := { s.saf with jRetry := false } } R.jnlStatWriteErr 1
    .next (raiseFault s 21 0 0)

/-- R437: JOURNAL_READ. -/
def execJournalRead (h : CmdHdr) (from_ n : Nat) (s : State) : Res := whenLive s <|
  .next (openCmd s h (fun s =>
    if 4096 < n then refuse .invalid s
    else
      let b := (readRecs s from_ n).foldl (fun a r => a ++ recBytes r) []
      if cmdBufLen h < b.length then refuse .invalid s else ⟨.ok, b, s⟩))

/-! ### Scan test (R430) -/

/-- R430: a write of 1 to BST_SCAN.EN by a management core. -/
def execScanEnable (r : Nat) (s : State) : Res := whenLive s <|
  let s := dropLatch s r
  if !isCore r then .next (protectedWrite s r)
  else if rdB s R.keyStatZeroized then
    let s := wrStat (wr s R.bstScanEn 1) R.bstScanStatus .ok
    .next { s with saf := { s.saf with scanOn := true } }
  else .next (wrStat s R.bstScanStatus .refusedMode)

end Sys2Proof.Machine
end

