-- ==== Sys2Proof/Machine/Time.lean ====
section
/-!
DEFINITION. The time base, its commands, timestamps, gate lists and reservations (chapter 10).
-/

namespace Sys2Proof.Machine

open Sys2Proof

/-! ### The counter (R263–R269) -/

/-- R263, R266: the TIM cycle in which NS passes from 0xFFFF_FFFF to 0. -/
def execNsWrap (s : State) : Res := whenLive s <|
  if 2 ^ 64 ≤ nowNs s * 2 ^ 32 + rd s R.timNowFrac + rd s R.timIncrementInc then .next (timCycle s) else .next s

/-- R264: a write of TIM_INCREMENT; a value outside 0.8 ns ± 100 ppm sets INC_REJ. -/
def execTimIncrementWrite (r v : Nat) (s : State) : Res := whenLive s <|
  let s := dropLatch s r
  if !isCore r then .next (protectedWrite s r)
  else
    let v := v % 2 ^ 36
    if 0xCCC78EA0 ≤ v ∧ v ≤ 0xCCD20AFA then .next (wr s R.timIncrementInc v)
    else .next (wr s R.timStatIncRej 1)

/-- R266: a write of TIM_EPOCH_ACK, which PF0 alone writes. -/
def execTimEpochAck (r k : Nat) (clr : Bool) (s : State) : Res := whenLive s <|
  let s := dropLatch s r
  if r ≠ 1 then .next s
  else
    let s := wr s R.timNowxPending (rd s R.timNowxPending - k % 256)
    .next (if clr then wr s R.timNowxRebase 0 else s)

/-- A firmware request of TIM_ADJ ends: STATUS shown, GO clear. -/
def adjDone (s : State) (c : Status) : State := wr (wrStat s R.timAdjStatus c) R.timAdjGo 0

/-- R268, R269: TIM_ADJ with GO and SET = 0: a step of STEP_NS, the signed 32-bit `v`. -/
def execTimAdjStep (r v : Nat) (s : State) : Res := whenLive s <|
  let s := dropLatch s r
  if !isCore r then .next (protectedWrite s r)
  else
    let s := wrs s [(R.timAdjStepNs, v), (R.timAdjSet, 0)]
    let d := sbits 32 v
    let lim := rd s R.timJumpLimitLimitNs
    if d = -(2 ^ 31 : Int) then .next (adjDone s .invalid)
    else if rd s R.timStatState = 0 ∨ (0 < lim ∧ d.natAbs ≤ lim) then
      .next (adjDone (timeMark (stepTime s d)) .ok)
    else
      let s := timInt (wr (adjDone s .invalid) R.timStatJumpRefused 1) R.timIntJump
      .next (if rd s R.timStatState = 1 then enterHoldover s else s)

/-- R268, R269: TIM_ADJ with GO and SET = 1: an absolute set, applied only in NO_TIME. -/
def execTimAdjSet (r v : Nat) (s : State) : Res := whenLive s <|
  let s := dropLatch s r
  if !isCore r then .next (protectedWrite s r)
  else
    let s := wrs s [(R.timAdjStepNs, v), (R.timAdjSet, 1)]
    if rd s R.timStatState = 0 then .next (adjDone (timeMark (setNs s v (v % 2 ^ 32))) .ok)
    else .next (adjDone s .refusedMode)

/-- The last heartbeat of the acting Director reports valid time (R376). -/
def directorValid (s : State) : Bool := (mget s.clu.peers (rd s R.cluStatDirectorId)).any (fun p => bit p.tstat 0)

/-- R268: TIM_CTL.LOCK with DIRECTOR = `dir`; `epoch` is network time divided by 2^32, which the firmware
knows from its PTP stack. A Crew's firmware declares lock to the Director only while that one's time is valid (R376). -/
def execLockDeclare (r : Nat) (dir : Bool) (epoch : Nat) (s : State) : Res := whenLive s <|
  let s := dropLatch s r
  if !isCore r then .next (protectedWrite s r)
  else if dir && rd s R.cluStatActing == 2 && !directorValid s then .next s
  else
    let s := wrB s R.timCtlDirector dir
    let st := rd s R.timStatState
    if st = 1 then .next s
    else
      let s := { s with tim := { s.tim with holdStart := none, netBase := epoch * 2 ^ 32 } }
      let s := wrs s [(R.timStatSource, if dir then 3 else 1), (R.timStatState, 1)]
      .next (if st = 0 then timeMark (setValid s true) else s)

/-- R268: TIM_CTL.LOSS. -/
def execLossDeclare (r : Nat) (s : State) : Res := whenLive s <|
  let s := dropLatch s r
  if !isCore r then .next (protectedWrite s r)
  else if rd s R.timStatState = 1 ∧ (rd s R.timStatSource = 1 ∨ rd s R.timStatSource = 3) then
    .next (enterHoldover s)
  else .next s

/-- R268: the hold timer reaches TIM_CFG.HOLD_S. -/
def execHoldTimerExpire (s : State) : Res := whenLive s <|
  match s.tim.holdStart with
  | some t =>
    .next (if rd s R.timStatState = 2 ∧ rd s R.timCfgHoldS * 10 ^ 9 ≤ uptime s - t then holdExpired s else s)
  | none => .next s

/-! ### Time commands (R290) -/

/-- The state after an accepted TIME_SET or TIME_STEP (R268): lists suspended, VALID, SOURCE 2, TIMED. -/
def commandedTime (s : State) : State :=
  let s := { s with tim := { s.tim with holdStart := none } }
  let s := wrs (suspendLists s) [(R.timStatSource, 2), (R.timStatState, 1)]
  timeMark (setValid s true)

/-- R290: TIME_SET (network time: seconds and nanoseconds since the epoch). -/
def execTimeSet (h : CmdHdr) (sec ns : Nat) (s : State) : Res := whenLive s <|
  .next (guarded s h (some 2) (fun s => inModes commandModes s (fun s =>
    let t := sec * 10 ^ 9 + ns
    okay (commandedTime (keepDue (pastDue s) (setNs (cancelBefore s) t t))))))

/-- R290: TIME_STEP (signed ns). -/
def execTimeStep (h : CmdHdr) (d : Int) (s : State) : Res := whenLive s <|
  .next (guarded s h (some 2) (fun s => inModes commandModes s (fun s =>
    if 2 ^ 31 ≤ d.natAbs then refuse .invalid s
    else
      let late := timedRemaining s - d < -(2 ^ 31 : Int)
      okay (commandedTime (if late then cancelTimed (stepNs s d) else stepTime s d)))))

/-- R290: TIME_CFG (JUMP_LIMIT, HOLD_S). -/
def execTimeCfg (h : CmdHdr) (limit hold : Nat) (s : State) : Res := whenLive s <|
  .next (guarded s h (some 2) (fun s => inModes commandModes s (fun s =>
    if 2 ^ 32 ≤ limit ∨ 65535 < hold then refuse .invalid s
    else
      let s := wrs s [(R.timJumpLimitLimitNs, limit), (R.timCfgHoldS, hold)]
      okay (match s.tim.holdStart with
        | some t => if hold * 10 ^ 9 ≤ uptime s - t then holdExpired s else s
        | none => s))))

/-! ### Gate lists (R281–R284) -/

/-- R283: SHT_PORT_BASE of front port `p`: BASE and RUN. A write that leaves BASE as it is and RUN 0 has no BASE to
refuse (DEDUCED, log 46). -/
def execGateListRun (r p base : Nat) (run : Bool) (s : State) : Res := whenLive s <|
  let s := dropLatch s r
  if 512 ≤ p then .next s
  else if !isCore r then .next (protectedWrite s r)
  else
    let q := macQ p
    let m := macM p
    let d := nsDiff base (nowNs s)
    if (run || rd s (R.shtPortBaseBase q m) != base % 2 ^ 32) && (d == 0 || decide (2 ^ 31 ≤ d)) then
      .next (wr s (R.shtPortStatBaseErr q m) 1)
    else .next (stopList (wrs s [(R.shtPortBaseBase q m, base), (R.shtPortBaseRun q m, b2n run)]) p)

/-- R283: the counter reaches BASE and the list of port `p` starts. -/
def execGateListStart (p : Nat) (s : State) : Res := whenLive s <|
  let q := macQ p
  let m := macM p
  let base := rd s (R.shtPortBaseBase q m)
  let l := operList s p
  if p < 512 ∧ rdB s (R.shtPortBaseRun q m) ∧ timeValid s ∧ (mget s.tim.entryEnd p).isNone ∧ l.cycle ≠ 0 ∧
      atOrAfter (nowNs s) base then
    let s := { s with tim := { s.tim with prevStart := mset s.tim.prevStart p base } }
    let s := wr s (R.shtPortStatCycleStart q m) base
    match nextEntry l.entries (l.entries.length + 1) 0 with
    | some i => .next (applyEntry s p i base)
    | none => .next s
  else .next s

/-- A new cycle of port `p` starts at counter value `t` (R283). -/
def startCycle (s : State) (p t : Nat) : State :=
  let q := macQ p
  let m := macM p
  let l := operList s p
  let s := { s with tim := { s.tim with prevStart := mset s.tim.prevStart p (rd s (R.shtPortStatCycleStart q m)) } }
  let s := wr s (R.shtPortStatCycleStart q m) t
  match nextEntry l.entries (l.entries.length + 1) 0 with
  | some i => applyEntry s p i t
  | none => s

/-- R283: the entry in progress on port `p` ends: the next entry applies, or a new cycle starts. -/
def execGateEntryAdvance (p : Nat) (s : State) : Res := whenLive s <|
  let q := macQ p
  let m := macM p
  let l := operList s p
  let t := mgetD s.tim.entryEnd p 0
  let change := rdB s (R.shtPortPendPending q m) && atOrAfter t (rd s (R.shtPortPendChangeAt q m))
  if listRuns s p && atOrAfter (nowNs s) t && !change then
    match nextEntry l.entries (l.entries.length + 1) (rd s (R.shtPortStatEntry q m) + 1) with
    | some i => .next (applyEntry s p i t)
    | none => .next (startCycle s p t)
  else .next s

/-- R284: the change time of port `p` is reached and the administrative list becomes operating. -/
def execListChangeTime (p : Nat) (s : State) : Res := whenLive s <|
  let q := macQ p
  let m := macM p
  let t := rd s (R.shtPortPendChangeAt q m)
  if listRuns s p ∧ rdB s (R.shtPortPendPending q m) ∧ atOrAfter (nowNs s) t then
    let l := mgetD s.tim.admBank p noList
    .next (if l.cycle = 0 then stopList s p else startCycle (wr (showList s p l) (R.shtPortPendPending q m) 0) p t)
  else .next s

/-- The entries of a list obey R281 and R282. -/
def listOk (l : GateList) : Bool :=
  decide (l.entries.length ≤ 1024) &&
  l.entries.all (fun e => decide (e.1 < 2 ^ 16) && (e.2 == 0 || (decide (32 ≤ e.2) && decide (e.2 < 2 ^ 32)))) &&
  (l.cycle == 0 || (decide (1000 ≤ l.cycle) && decide (l.cycle ≤ 10 ^ 9) &&
    decide ((l.entries.map (·.2)).sum = l.cycle) && decide (l.baseOff < l.cycle)))

/-- Transmission of `frames` frames of `len` bytes fits in `t` ns at a port's rate (R285, R289). -/
def windowHolds (speed frames len t : Nat) : Bool :=
  decide (frames * ((len + 20) * 8) ≤ t * rateGbps speed)

/-- The entries that overlap `[a, b)` of the cycle all hold `tc` open and nothing outside `sched` (R289). -/
def windowClear (tc sched a b : Nat) : List (Nat × Nat) → Nat → Bool
  | [], _ => true
  | e :: es, t =>
    (decide (t + e.2 ≤ a) || decide (b ≤ t) || e.2 == 0 || (bit e.1 tc && (e.1 &&& (0xFFFF ^^^ sched)) == 0)) &&
      windowClear tc sched a b es (t + e.2)

/-- The conditions of R289 that concern a reservation and its port's list. -/
def rsvFits (s : State) (r : RsvS) (l : GateList) : Bool :=
  l.cycle != 0 && bit l.schedTcs r.tc &&
  decide (r.admOff + r.admLen ≤ l.cycle) && decide (r.egrOff + r.egrLen ≤ l.cycle) &&
  decide (500 ≤ rsvD r l.cycle) && decide (1 ≤ r.frames) && decide (64 ≤ r.maxLen) &&
  decide (r.maxLen ≤ rd s (R.macFrameMaxMax (macQ r.port) (macM r.port))) &&
  windowHolds (((portDecl s r.port).map (·.speed)).getD 0) r.frames r.maxLen r.egrLen &&
  windowClear r.tc l.schedTcs r.egrOff (r.egrOff + r.egrLen) l.entries 0

/-- Two egress windows overlap. -/
def windowsMeet (a b : RsvS) : Bool :=
  decide (a.egrOff < b.egrOff + b.egrLen) && decide (b.egrOff < a.egrOff + a.egrLen)

/-- The valid reservations of a port with their queues. -/
def portRsv (s : State) (p : Nat) : List (Nat × RsvS) := s.tim.rsv.filter (fun e => e.2.port == p)

/-- R289 for a reservation of queue `qn`. -/
def rsvOk (s : State) (qn : Nat) (r : RsvS) : Bool :=
  decide (r.port < 512) && queuePort s qn == some r.port && queueTc s qn == r.tc && listRuns s r.port &&
  rsvFits s r (operList s r.port) && (portRsv s r.port).all (fun e => e.1 == qn || !windowsMeet e.2 r)

/-- The change time of R284: the first start of the new schedule at or after the end of the cycle in progress. -/
def changeTime (s : State) (p : Nat) (l : GateList) : Nat :=
  let q := macQ p
  let m := macM p
  let e := (rd s (R.shtPortStatCycleStart q m) + (operList s p).cycle) % 2 ^ 32
  if l.cycle = 0 then e
  else
    let net := s.tim.netBase + nowNs s + nsDiff e (nowNs s)
    (e + (l.baseOff + l.cycle - net % l.cycle) % l.cycle) % 2 ^ 32

/-- Write a new list to port `p` (R284): operating at once if the port's list does not run, else pending. -/
def installList (s : State) (p : Nat) (l : GateList) : State :=
  let q := macQ p
  let m := macM p
  if listRuns s p then
    let s := { s with tim := { s.tim with admBank := mset s.tim.admBank p l } }
    wrs s [(R.shtPortPendPending q m, 1), (R.shtPortPendChangeAt q m, changeTime s p l)]
  else
    stopList (wr (showList { s with tim := { s.tim with admBank := mset s.tim.admBank p l } } p l) (R.shtPortPendPending q m) 0) p

/-- The INVALID and BUSY cases of R284 for a new list on port `p`. -/
def listRefusal (s : State) (p : Nat) (l : GateList) : Option Status :=
  let o := operList s p
  let rs := portRsv s p
  if rs.any (fun e => !rsvFits s e.2 l) then some .invalid
  else if (decide (o.cycle ≠ l.cycle) || decide (o.schedTcs ≠ l.schedTcs)) && !rs.isEmpty then some .busy
  else none

/-- R290: GATE_SET. -/
def execGateSet (h : CmdHdr) (p sched cycle baseOff : Nat) (entries : List (Nat × Nat)) (s : State) : Res := whenLive s <|
  .next (guarded s h (some 2) (fun s => inModes commandModes s (fun s =>
    let l : GateList := ⟨cycle, sched, baseOff, entries⟩
    if 512 ≤ p ∨ (portDecl s p).isNone ∨ 2 ^ 16 ≤ sched ∨ !listOk l then refuse .invalid s
    else match listRefusal s p l with
      | some c => refuse c s
      | none => okay (installList s p l))))

/-! ### Reservations (R286–R290) -/

/-- R290: RSV_SET of queue `qn`. -/
def execRsvSet (h : CmdHdr) (qn port tc maxLen admOff admLen egrOff egrLen frames : Nat) (s : State) : Res := whenLive s <|
  .next (guarded s h (some 2) (fun s => inModes commandModes s (fun s =>
    let r : RsvS := ⟨port, tc, maxLen, admOff, admLen, egrOff, egrLen, frames, 0, none⟩
    let q := macQ port
    if !timeValid s then refuse .timeNotValid s
    else if !rsvOk s qn r ∨ 256 ≤ frames then refuse .invalid s
    else if (mget s.tim.rsv qn).isSome then refuse .busy s
    else if 16384 ≤ rd s (R.shtRsvStatUsed q) then refuse .noRoom s
    else
      okay (wr { s with tim := { s.tim with rsv := mset s.tim.rsv qn r } }
        (R.shtRsvStatUsed q) (rd s (R.shtRsvStatUsed q) + 1)))))

/-- R290: RSV_CLEAR of queue `qn`. -/
def execRsvClear (h : CmdHdr) (qn : Nat) (s : State) : Res := whenLive s <|
  .next (guarded s h (some 2) (fun s => inModes commandModes s (fun s =>
    match mget s.tim.rsv qn with
    | some r =>
      let q := macQ r.port
      let s := { s with tim := { s.tim with rsv := mdel s.tim.rsv qn } }
      let s := wr s (R.shtRsvStatUsed q) (rd s (R.shtRsvStatUsed q) - 1)
      okay (flushQueue s qn 0x12 none)
    | none => refuse .invalid s)))

/-- R287: an admission window of queue `qn` starts, once in its cycle, and USED returns to 0. -/
def execAdmissionWindowStart (qn : Nat) (s : State) : Res := whenLive s <|
  match mget s.tim.rsv qn with
  | some r => .next { s with tim := { s.tim with rsv := mset s.tim.rsv qn (startWindow s r) } }
  | none => .next s

/-- R288: frames of queue `qn` whose egress window has closed are dropped with 0x12. -/
def execEgressWindowEnd (qn : Nat) (s : State) : Res := whenLive s <|
  match mget s.tim.rsv qn, (queueNode s qn).bind (fun k => mget s.cel.nodes k) with
  | some r, some n =>
    .next (n.frames.foldl (fun s cp =>
      match (mget s.cel.copies cp).bind (·.win) with
      | some (_, close) =>
        if atOrAfter (nowNs s) close then bump (dropQueued s cp 0x12) (R.shtCntCount (macQ r.port) 5) else s
      | none => s) s)
  | _, _ => .next s

/-! ### Timestamps and clocks (R274–R280) -/

/-- The 16 bytes of a timestamp record (R274). -/
def tsBytes (t : TsRec) : List Byte :=
  toLe 4 t.ns ++ toLe 2 t.subns ++ toLe 2 t.tag ++
  toLe 4 (t.alignPs % 2 ^ 20 + t.dir % 2 * 2 ^ 20 + b2n t.asym * 2 ^ 21 + b2n t.valid * 2 ^ 22) ++
  toLe 4 (t.port % 1024)

/-- R276: a read of MAC_TXTS_LO of front port `p` dequeues the oldest transmit record. -/
def execMacTxtsRead (r p : Nat) (s : State) : Res := whenLive s <|
  let s := dropLatch s r
  if 512 ≤ p then .next s
  else match mgetD s.tim.txFifo p [] with
    | t :: ts =>
      let b := tsBytes t
      let s := { s with tim := { s.tim with txFifo := if ts = [] then mdel s.tim.txFifo p else mset s.tim.txFifo p ts } }
      .next (emit (wr s (R.macTxtsHiRecHi (macQ p) (macM p)) (fieldLe b 8 8)) (.read r (fieldLe b 0 8) 8))
    | [] => .next (emit (wr s (R.macTxtsHiRecHi (macQ p) (macM p)) 0) (.read r 0 8))

/-- R280: an edge of PPS_OUT: it rises when NS reaches NEXT, and falls WIDTH_US later. -/
def execPpsOutEdge (s : State) : Res := whenLive s <|
  if s.tim.ppsHigh then .next (emit { s with tim := { s.tim with ppsHigh := false } } (.pin "PPS_OUT" false))
  else if rd s R.timPpsOutCfgPeriodNs ≠ 0 ∧ rd s R.timPpsOutCfgWidthUs ≠ 0 ∧
      atOrAfter (nowNs s) (rd s R.timPpsOutNextNext) then
    let s := wr s R.timPpsOutNextNext (rd s R.timPpsOutNextNext + rd s R.timPpsOutCfgPeriodNs)
    .next (emit { s with tim := { s.tim with ppsHigh := true } } (.pin "PPS_OUT" true))
  else .next s

/-- An edge of PPS_IN lies more than 1 µs from a whole second of valid network time, TIM_PPS_OUT_CFG at its reset
value (R429; log 48). -/
def ppsOff (s : State) : Bool :=
  let r := (s.tim.netBase + nowNs s) % 10 ^ 9
  timeValid s && rd s R.timPpsOutCfgPeriodNs == R.timPpsOutCfgPeriodNs.rst &&
    rd s R.timPpsOutCfgWidthUs == R.timPpsOutCfgWidthUs.rst && decide (1000 < r) && decide (r + 1000 < 10 ^ 9)

/-- R280: a rising edge on PPS_IN is captured, and compared with a whole second (R429). -/
def execPpsIn (s : State) : Res := whenLive s <| settle s <|
  let s := wrs s [(R.timPpsInNs, nowNs s), (R.timPpsInSubns, rd s R.timNowFrac / 2 ^ 16), (R.timPpsInNew, 1)]
  .next (if ppsOff s then standFault (suspendLists s) 14 0 0 else s)

/-- R280: a read of TIM_PPS_IN clears NEW. -/
def execPpsInRead (r : Nat) (s : State) : Res := whenLive s <|
  let s := dropLatch s r
  let v := rd s R.timPpsInNs + rd s R.timPpsInSubns * 2 ^ 32 + rd s R.timPpsInNew * 2 ^ 48
  .next (emit (wr s R.timPpsInNew 0) (.read r v 8))

/-- R279: SYNCE_OUT[i] is held low while its port's link is down or lane 0 is not locked (`locked`), or DIV is 0. -/
def execSynceSquelch (i : Nat) (locked : Bool) (s : State) : Res := whenLive s <|
  if 2 ≤ i then .next s
  else
    .next (squelch s i (!locked || synceHeld s i))

end Sys2Proof.Machine
end

