-- ==== Sys2Proof/Machine/HandoverOps.lean ====
section
/-!
DEFINITION. Shared operations of the stand-in handover, the rotation sequencer and the splice (R24–R30, R282,
R284, R403–R407, R426, R500).
-/

namespace Sys2Proof.Machine

open Sys2Proof

/-! ### Programs of a splice (R403, R405) -/

/-- The programs of a physical pipe with the versions of its stage programs and its parser graph. -/
def pipeLoad (s : State) (q t : Nat) : ProgS × Nat × Nat :=
  (progOf s q t, rd s (R.modPipeVerClassVer q t), rd s (R.modPipeVerParserVer q t))

/-- What pipe `t` runs once the region being applied has reached it (R405). -/
def splicedLoad (s : State) (q t : Nat) : ProgS × Nat × Nat :=
  let (p, cv, pv) := pipeLoad s q t
  match curRegion s with
  | some (r, v, secs) =>
    if r = 1 then ({ p with parser := secBytes secs 3 0 }, cv, v)
    else if 2 ≤ r ∧ r ≤ 9 ∧ p.cls = r - 2 then ({ p with stages := secBytes secs 4 (r - 2) }, v, pv)
    else (p, cv, pv)
  | none => (p, cv, pv)

/-- Pipe `t` still runs the old version of the region being applied. -/
def runsOld (s : State) (q t : Nat) : Bool := splicedLoad s q t != pipeLoad s q t

/-- What a program load of the spare for target `t` writes (R30, R405): the target's own programs, or, while a
splice runs, the new version of its class or parser graph. -/
def wantedLoad (s : State) (q t : Nat) : ProgS × Nat × Nat :=
  if modeIn s [.splice] then splicedLoad s q t else pipeLoad s q t

/-- The region being applied is a pipe's (1–9). -/
def splicesPipes (s : State) : Bool :=
  modeIn s [.splice] && (match curRegion s with
    | some (r, _, _) => decide (1 ≤ r) && decide (r ≤ 9)
    | none => false)

/-- Load programs into physical pipe `t`: PRS_CFG, STG_CFG and MOD_PIPE_VER show them. -/
def loadProg (s : State) (q t : Nat) (g : ProgS) (cv pv : Nat) : State :=
  let s := { s with pipe := { s.pipe with prog := mset s.pipe.prog (9 * q + t) g } }
  wrs s [(R.modPipeVerClassVer q t, cv), (R.modPipeVerParserVer q t, pv),
    (R.prsCfgStartFront q t, fieldLe g.parser 2 1), (R.prsCfgStartHost q t, fieldLe g.parser 3 1),
    (R.prsCfgStartRecirc q t, fieldLe g.parser 4 1), (R.prsCfgStateCount q t, fieldLe g.parser 0 2),
    (R.stgCfgStageCount q t, stageCount g.stages), (R.stgCfgFlowAfter q t, flowAfter g.stages),
    (R.stgCfgFlowEn q t, b2n (flowEn g.stages)), (R.stgCfgPipeClass q t, g.cls)]

/-! ### Targets (R404, R405) -/

/-- The spare of a quadrant; 15: none. -/
def spareOf (s : State) (q : Nat) : Nat := rd s (R.modSpareSpare q)

/-- The pipes a step may relieve: those that serve a port group, spare and retired ones left out. -/
def targets (s : State) (q : Nat) : List Nat :=
  (List.range 9).filter (fun p => pipeServes s (9 * q + p) && p != spareOf s q && !bit (rd s (R.modSpareRetired q)) p)

/-- The next target in ascending order after the pipe last relieved. -/
def nextTarget (s : State) (q : Nat) : Option Nat :=
  let l := targets s q
  let r := rd s (R.modHandoverRelieved q)
  if r = 15 then l.head? else ((l.filter (fun p => decide (r < p))).head?).or l.head?

/-- The target of the quadrant's next step: a waiting HANDOVER command's, the rotation's, or the splice's. -/
def chooseTarget (s : State) (q : Nat) : Option Nat :=
  match mget s.pipe.want q with
  | some t => some t
  | none =>
    if rotOn s q || (mget s.mod.unparking q).isSome then nextTarget s q
    else if splicesPipes s then (targets s q).find? (runsOld s q)
    else none

/-- Keep MOD_ROT_STAT.NEXT equal to what it shows. -/
def syncNext (s : State) (q : Nat) : State := wr s (R.modRotStatNext q) ((chooseTarget s q).getD 15)

/-- The spare holds what the next step of target `t` needs. -/
def spareReady (s : State) (q t : Nat) : Bool :=
  decide (spareOf s q < 9) && pipeLoad s q (spareOf s q) == wantedLoad s q t

/-- Prepare the spare for target `t`: a program load starts unless the spare is ready. -/
def prepare (s : State) (q t : Nat) : State :=
  if spareOf s q = 15 ∨ spareReady s q t then s
  else { s with pipe := { s.pipe with load := mset s.pipe.load q t } }

/-! ### The handover (R27, R28) -/

/-- The port groups a physical pipe serves. -/
def groupsOf (s : State) (q t : Nat) : List Nat := (List.range 16).filter (fun n => rd s (R.modXbarPg q n) == t)

/-- The ports a handover redirects: declared front ports, recirculation ports of the slots, host ports. -/
def handPorts (s : State) (q : Nat) (pgs : List Nat) : List Nat :=
  (((portDecls (sec s 1 0)).map (·.port)).filter (fun p => macQ p == q && pgs.contains (localPg s p))) ++
  ((upFrom (512 + 8 * q) 8).filter (fun p => pgs.contains (localPg s p))) ++
  (if pgs.contains 0 then [544 + 2 * q, 545 + 2 * q] else [])

/-- Show the status of a handover request. -/
def handStatus (s : State) (q : Nat) (c : Status) : State := wrStat s (R.modHandoverStatus q) c

/-- The refusal of R27 for a handover of `t`, if any. -/
def handRefusal (s : State) (q t : Nat) : Option Status :=
  if !modeIn s [.sync, .serve, .splice, .safe] then some .refusedMode
  else if rd s (R.modHandoverState q) ≠ 0 then some .busy
  else if spareOf s q = 15 ∨ groupsOf s q t = [] ∨ (mget s.pipe.load q).isSome ∨
      (progOf s q (spareOf s q)).cls ≠ (progOf s q t).cls ∨ (mget s.pipe.prog (9 * q + spareOf s q)).isNone then
    some .invalid
  else none

/-- A handover of `t` is accepted (R28 step 1). -/
def startHandover (s : State) (q t : Nat) : State :=
  let s := wrs s [(R.modHandoverTarget q, t), (R.modHandoverGo q, 1), (R.modHandoverState q, 1)]
  let s := handStatus s q .ok
  let s := if mgetD s.pipe.rotSteps q 0 = 0 then
      { s with pipe := { s.pipe with rotAt := mset s.pipe.rotAt q (uptime s) } } else s
  { s with pipe := { s.pipe with hand := mset s.pipe.hand q ⟨t, spareOf s q, groupsOf s q t, [], [], []⟩
                                 want := mdel s.pipe.want q } }

/-- No frame is arriving on a port, and every received one has entered its pipe: a packet boundary (R28). -/
def atBoundary (s : State) (p : Nat) : Bool :=
  (rxOf s p).frame.isNone && !s.cel.frames.any (fun e => e.2.inPort == p && e.2.phase == .arriving)

/-- A port moves to the spare; the last one ends the switching (R28 steps 1 and 2). -/
def switchToSpare (s : State) (q p : Nat) (h : HandS) : State :=
  let h := { h with switched := h.switched ++ [p] }
  let s := { s with pipe := { s.pipe with hand := mset s.pipe.hand q h } }
  if (handPorts s q h.pgs).all h.switched.contains then wr s (R.modHandoverState q) 2 else s

/-- The end marker of a port group reaches the queue manager, which releases the frames it held (R28 step 3). -/
def endMarker (witErr : Bool) (s : State) (q g : Nat) (h : HandS) : State :=
  let mine := h.waiting.filter (fun f => ((mget s.cel.frames f).bind (·.heldPg)) == some g)
  let h := { h with ended := h.ended ++ [g], waiting := h.waiting.filter (fun f => !mine.contains f) }
  mine.foldl (releaseFrame witErr) { s with pipe := { s.pipe with hand := mset s.pipe.hand q h } }

/-- Pipe `t` holds no packet. -/
def pipeEmpty (s : State) (q t : Nat) : Bool :=
  !s.cel.frames.any (fun e => e.2.quad == q && e.2.pipe == t && e.2.phase != .done && e.2.heldPg.isNone)

/-- The target is relieved (R28 step 4). -/
def relieve (s : State) (q : Nat) (h : HandS) : State :=
  let s := h.pgs.foldl (fun s n => wr s (R.modXbarPg q n) h.spare) s
  let s := wrs s [(R.modHandoverState q, 3), (R.modHandoverRelieved q, h.target), (R.modSpareSpare q, 15)]
  syncNext { s with pipe := { s.pipe with hand := mdel s.pipe.hand q, testing := mset s.pipe.testing q h.target } } q

/-! ### The splice (R403–R407) -/

/-- The port blocks of a Shutter defaults section from offset `o` on (R282). -/
def shutterBlocks (b : List Byte) : Nat → Nat → List (Nat × GateList)
  | 0, _ => []
  | n + 1, o =>
    let k := fieldLe b (o + 4) 2 % 2048
    let es := (List.range k).map (fun i => (fieldLe b (o + 32 + 8 * i) 2, fieldLe b (o + 36 + 8 * i) 4))
    (fieldLe b o 2 % 1024, ⟨fieldLe b (o + 8) 4, fieldLe b (o + 2) 2, fieldLe b (o + 16) 8, es⟩) ::
      shutterBlocks b n (o + 32 + 8 * k)

/-- The lists of a Shutter defaults section. -/
def shutterLists (b : List Byte) : List (Nat × GateList) :=
  if b = [] then [] else shutterBlocks b (bits (fieldLe b 2 1) 0 4) 16

/-- The declared ports of a global port group. -/
def groupPorts (s : State) (g : Nat) : List Nat :=
  ((portDecls (sec s 1 0)).map (·.port)).filter (fun p => portPg p == g)

/-- The list a Shutter section gives a port of its group (R495): the disabled list where it names none. -/
def listFor (b : List Byte) (p : Nat) : GateList :=
  (((shutterLists b).find? (fun e => e.1 == p)).map (·.2)).getD noList

/-- The region being applied leaves the list of those to do. With the last one the load completes, and the content
key of an encrypted image is erased (R59). -/
def popRegion (s : State) : State :=
  match s.img.part with
  | some p =>
    let left := p.todo.drop 1
    if left = [] then eraseContentKey { s with img := { s.img with part := none } }
    else { s with img := { s.img with part := some { p with todo := left } } }
  | none => s

/-- Take the sections of a region into the running image. -/
def adoptRegion (s : State) (r : Nat) (secs : List SecS) : State :=
  let keep := s.img.running.filter (fun x => x.region != r)
  { s with img := { s.img with running := keep ++ secs.filter (fun x => x.region == r) } }

/-- A region's application ends incomplete (R406, R500). -/
def regionIncomplete (s : State) (r v : Nat) : State :=
  let s := wrs s [(R.imgRegionVerPending r, 0), (R.modSpliceIncomplete, 1)]
  popRegion (journal s 0x0011 2 r (.num 1) v 0)

/-- Write a new queue tree to the shadow bank of its port group (R253). -/
def startTree (s : State) (g v : Nat) (b : List Byte) : State :=
  let old := if (mget s.cel.treeHdr g).isSome then g else g + 64
  let new := if old = g then g + 64 else g
  let nodes := nodesOf b (nowNs s)
  let ports := nodes.filterMap (fun n => if n.level = 0 then some (n.f10 % 1024) else none)
  let s := { s with cel := { s.cel with
    shadow := mset s.cel.shadow g ⟨new, old, treeHdrOf b, nodes, v⟩
    toSwitch := mset s.cel.toSwitch g ports
    treeHdr := mset s.cel.treeHdr new (treeHdrOf b) } }
  wr s (R.quePgStatPending (g / 16) (g % 16)) 1

/-- Write the new lists of a Shutter region (R284, R500): a port whose reservations forbid its list keeps its own. -/
def startShutter (s : State) (g : Nat) (b : List Byte) : Bool × State :=
  (groupPorts s g).foldl (fun a p =>
    match listRefusal a.2 p (listFor b p) with
    | some _ => (true, a.2)
    | none => (a.1, installList a.2 p (listFor b p))) (false, s)

/-- Begin a region's application by the method of R50; `fuel` bounds the regions that end at once. -/
def startRegion : Nat → State → State
  | 0, s => s
  | fuel + 1, s =>
    match curRegion s with
    | some (r, v, secs) =>
      let s := wr s R.modSpliceRegion r
      if 64 ≤ r ∧ r ≤ 127 then startTree s (r - 64) v (secBytes secs 9 (r - 64))
      else if 128 ≤ r ∧ r ≤ 191 then
        let a := startShutter s (r - 128) (secBytes secs 0xA (r - 128))
        if a.1 then startRegion fuel (regionIncomplete a.2 r v) else a.2
      else if 10 ≤ r ∧ r ≤ 17 then spliceGroups s
      else (List.range 4).foldl syncNext s
    | none =>
      let s := wrs s [(R.modSpliceRegion, 0xFF), (R.imgStatPhase, 5)]
      if modeIn s [.splice] then setMode s .serve else s

/-- Every serving pipe, group or port a region concerns has its new version. -/
def regionDone (s : State) (r : Nat) (secs : List SecS) : Bool :=
  if r ≤ 9 then
    (List.range 4).all (fun q => (List.range 9).all (fun p => !(pipeServes s (9 * q + p) && runsOld s q p)) &&
      rd s (R.modHandoverState q) != 1 && rd s (R.modHandoverState q) != 2)
  else if r ≤ 17 then
    let st := storeOf (secBytes secs 8 (r - 10))
    (List.range 32).all (fun g =>
      grpState s g != 1 && grpState s g != 2 && grpState s g != 3 && grpState s g != 4 ||
      rd s (R.engUcodeVerClass (grpQuad g) (grpIdx g)) != r - 10 ||
      (grpState s g == 1 && mget s.eng.store g == some st))
  else if r ≤ 127 then (mget s.cel.shadow (r - 64)).isNone
  else (groupPorts s (r - 128)).all (fun p => !rdB s (R.shtPortPendPending (macQ p) (macM p)))

/-- A region is live: its version shows, and the next region begins, or the mode returns to SERVE (R403). -/
def regionLive (s : State) (r v : Nat) (secs : List SecS) : State :=
  let s := wrs s [(R.imgRegionVerVer r, v), (R.imgRegionVerPresent r, 1), (R.imgRegionVerPending r, 0)]
  let s := journal (adoptRegion s r secs) 0x0011 0 r (.num 0) v 0
  startRegion 256 (popRegion s)

/-! ### The end of a quadrant's return (R400) -/

/-- PARKED clears once the stack serves and one full rotation has tested every pipe; without a spare or a serving
pipe there is none to wait for. -/
def finishUnpark (s : State) (q : Nat) : State :=
  match mget s.mod.unparking q with
  | some done =>
    if rd s (R.hbmStatState q) = 3 ∧ (done ∨ targets s q = [] ∨ rd s (R.modSpareRetired q) ≠ 0) then
      let s := { s with mod := { s.mod with unparking := mdel s.mod.unparking q } }
      wr s R.pwrParkParked (clrBit (rd s R.pwrParkParked) q)
    else s
  | none => s

/-! ### The relieved pipe's test (R29, R426, R427) -/

/-- One more step of a rotation has passed; the last one completes it (R30). -/
def countStep (s : State) (q : Nat) : State :=
  let n := mgetD s.pipe.rotSteps q 0 + 1
  if n ≤ (targets s q).length then { s with pipe := { s.pipe with rotSteps := mset s.pipe.rotSteps q n } }
  else
    let us := (uptime s - mgetD s.pipe.rotAt q 0) / 1000
    let s := wrs s [(R.modRotStatCount q, rd s (R.modRotStatCount q) + 1), (R.modRotStatLastUs q, min us 65535)]
    { s with pipe := { s.pipe with rotSteps := mdel s.pipe.rotSteps q }
             mod := { s.mod with unparking := mmod s.mod.unparking q (fun _ => true) } }

/-- Show a pipe's slice in BST_PIPE. -/
def pipeSlice (s : State) (q p : Nat) (pass : Bool) : State :=
  let s := wrs s [(R.bstPipeLast q, p), (R.bstPipePass q, b2n pass), (R.bstPipeCount q, rd s (R.bstPipeCount q) + 1)]
  if pass then { s with saf := { s.saf with pipePass := mset s.saf.pipePass (9 * q + p) (uptime s) } } else s

/-- A pipe becomes the spare; the load for the next target begins (R29, R30). A slice after a domain reset ends no
step of the rotation (R397). -/
def becomeSpare (s : State) (q p : Nat) : State :=
  let step := rd s (R.modHandoverState q) = 3
  let s := wrs s [(R.modSpareSpare q, p), (R.modHandoverFailed q, 0), (R.modHandoverGo q, 0), (R.modHandoverState q, 0)]
  let s := syncNext (if step then countStep s q else s) q
  match chooseTarget s q with
  | some t => prepare s q t
  | none => s

/-- A pipe is retired (R29): journalled; its quadrant has no spare. -/
def retirePipe (s : State) (q p : Nat) : State :=
  let s := wr s (R.modSpareRetired q) (setBit (rd s (R.modSpareRetired q)) p)
  let s := wrs s [(R.modSpareSpare q, 15), (R.modHandoverFailed q, 1), (R.modHandoverGo q, 0), (R.modHandoverState q, 0)]
  let s := { s with pipe := { s.pipe with load := mdel s.pipe.load q, want := mdel s.pipe.want q } }
  syncNext (journal s 0x0046 3 (unitOf q p) (.num 0) (rd s R.modRotEn) 0) q

/-- Code 7 holds for a quadrant whose EN bit is 1 and which has a retired pipe (R427). -/
def rotationLost (s : State) (q : Nat) : State :=
  if rotOn s q ∧ rd s (R.modSpareRetired q) ≠ 0 then syncRotLost (standFault s 7 (unitOf q 0) 0) else s

/-- A failed slice of the relieved pipe (R29, R406, R426). -/
def pipeFails (s : State) (q p : Nat) : State :=
  let s := retirePipe s q p
  let s := match curRegion s with
    | some (r, v, _) => if splicesPipes s then startRegion 256 (regionIncomplete s r v) else s
    | none => s
  rotationLost (raiseFault s 6 (unitOf q p) 0) q

/-! ### MOD_ROT (R404, R427) -/

/-- Clearing an EN bit clears codes 7 and 8 of the quadrant (R427). -/
def rotOff (s : State) (q : Nat) : State :=
  let mine := s.saf.standing.filter (fun e => (e.1 == 7 || e.1 == 8) && e.2 / 16384 == q)
  syncRotLost (mine.foldl (fun s e => endStanding s e.1 e.2) s)

/-- Write MOD_ROT.EN (R404, R427). -/
def setRot (s : State) (who v : Nat) : State :=
  let old := rd s R.modRotEn
  let s := wr s R.modRotEn v
  let s := if old = v % 16 then s else journalFull s 0x0046 1 who 0 (.num 0) (v % 16) 0 0
  let s := ((List.range 4).filter (fun q => bit old q && !bit v q)).foldl rotOff s
  let s := ((List.range 4).filter (fun q => !bit old q && bit v q)).foldl rotationLost s
  let s := wr s R.safStatDiagOff (b2n (v % 16 != 15))
  (List.range 4).foldl syncNext s

end Sys2Proof.Machine
end

