-- ==== Sys2Proof/Machine/Handover.lean ====
section
/-!
DEFINITION. The stand-in handover, the rotation, the relieved pipe's test, flit replay, and the commands and
events of a splice (R26–R30, R35, R403–R407).
-/

namespace Sys2Proof.Machine

open Sys2Proof

/-- R26, R27: a management core's write of TARGET and GO. TARGET is a RW field, so it reads as written whatever the
answer is (R16); a handover in progress keeps the target that it started with (log 36). -/
def execHandoverGo (r q t : Nat) (s : State) : Res := whenLive s <|
  let s := dropLatch s r
  if !isCore r then .next (protectedWrite s r)
  else if 4 ≤ q ∨ 16 ≤ t then .next s
  else match handRefusal s q t with
    | some c => .next (handStatus (wr s (R.modHandoverTarget q) t) q c)
    | none => .next (startHandover s q t)

/-- R28 step 1: port `p` is redirected to the spare at its next packet boundary. -/
def execHandoverPortSwitch (p : Nat) (s : State) : Res := whenLive s <|
  let q := portQuad p
  match mget s.pipe.hand q with
  | some h =>
    if rd s (R.modHandoverState q) = 1 ∧ (handPorts s q h.pgs).contains p ∧ !h.switched.contains p ∧ atBoundary s p then
      .next (switchToSpare s q p h)
    else .next s
  | none => .next s

/-- R28 step 3: the target's end marker for a port group reaches the queue manager. -/
def execHandoverEndMarker (q g : Nat) (witErr : Bool) (s : State) : Res := whenLive s <| settle s <|
  match mget s.pipe.hand q with
  | some h =>
    if rd s (R.modHandoverState q) = 2 ∧ h.pgs.contains g ∧ !h.ended.contains g then .next (endMarker witErr s q g h)
    else .next s
  | none => .next s

/-- R28 step 4: the target holds no packet and no pending table access. -/
def execHandoverRelieved (q : Nat) (s : State) : Res := whenLive s <|
  match mget s.pipe.hand q with
  | some h =>
    if rd s (R.modHandoverState q) = 2 ∧ h.pgs.all h.ended.contains ∧ pipeEmpty s q h.target then .next (relieve s q h)
    else .next s
  | none => .next s

/-- R29, R397: the BIST slice or reload of a relieved pipe, or of a pipe after its domain reset, ends. -/
def execRelievedPipeTestDone (q : Nat) (pass : Bool) (s : State) : Res := whenLive s <| settle s <|
  match mget s.pipe.testing q with
  | some p =>
    let s := pipeSlice { s with pipe := { s.pipe with testing := mdel s.pipe.testing q } } q p pass
    .next (finishUnpark (if pass then becomeSpare s q p else pipeFails s q p) q)
  | none => .next s

/-- R404, R405: the sequencer starts the quadrant's next step: a handover of its target, or first the program
load that the spare still needs. A waiting HANDOVER command whose target serves no port group by then is refused as
R27 says. -/
def execRotationStep (q : Nat) (s : State) : Res := whenLive s <|
  if 4 ≤ q ∨ !modeIn s [.sync, .serve, .splice, .safe] ∨ (quadParked s q ∧ (mget s.mod.unparking q).isNone) ∨
      rd s (R.modHandoverState q) ≠ 0 ∨
      (mget s.pipe.load q).isSome ∨ spareOf s q = 15 then .next s
  else match chooseTarget s q with
    | some t =>
      if groupsOf s q t = [] then
        .next (syncNext (handStatus { s with pipe := { s.pipe with want := mdel s.pipe.want q } } q .invalid) q)
      else .next (if spareReady s q t then syncNext (startHandover s q t) q else prepare s q t)
    | none => .next s

/-- R30: the program load of the spare completes. -/
def execSpareProgramLoadDone (q : Nat) (s : State) : Res := whenLive s <|
  match mget s.pipe.load q with
  | some t =>
    let p := spareOf s q
    let s := { s with pipe := { s.pipe with load := mdel s.pipe.load q } }
    if p = 15 then .next s
    else
      let (g, cv, pv) := wantedLoad s q t
      .next (loadProg s q p g cv pv)
  | none => .next s

/-- R35, R466: a flit of FAB link `link` fails its CRC and `failed` of its replays fail too. FAB_CNT counts failed
flits, replays and failed replays; after three failed replays the link is faulty, and the frames whose cells the
flit carried are dropped with 0x13. -/
def execFlitReplay (link failed : Nat) (frames : List Nat) (s : State) : Res := whenLive s <| settle s <|
  if 10 ≤ link ∨ rd s (R.fabLinkState link) ≠ 1 then .next s
  else
    let n := min 3 failed
    let s := bumpBy s (R.fabCntCount link 0) (n + 1)
    let s := bumpBy s (R.fabCntCount link 1) (min 3 (n + 1))
    let s := bumpBy s (R.fabCntCount link 2) n
    if n < 3 then .next s
    else
      let s := standFault (wr s (R.fabLinkState link) 2) 1 link 0
      .next (frames.foldl (fun s f => abortFrame s f 0x13 0x13) s)

/-- R27, R404: the HANDOVER command (quadrant, target pipe): the quadrant's next step, or at once where rotation
is disabled. -/
def execHandover (h : CmdHdr) (q t : Nat) (s : State) : Res := whenLive s <|
  .next (guarded s h (some 3) (fun s =>
    if 4 ≤ q ∨ 9 ≤ t then refuse .invalid s
    else if !modeIn s [.sync, .serve, .splice, .safe] then refuse .refusedMode s
    else if rotOn s q then
      if (mget s.pipe.want q).isSome then refuse .busy s
      else if spareOf s q = 15 ∧ rd s (R.modHandoverState q) = 0 ∨ groupsOf s q t = [] then refuse .invalid s
      else okay (syncNext { s with pipe := { s.pipe with want := mset s.pipe.want q t } } q)
    else match handRefusal s q t with
      | some c => refuse c (handStatus s q c)
      | none => okay (startHandover s q t)))

/-- R3, R404, R427: ROTATION_SET. -/
def execRotationSet (h : CmdHdr) (v : Nat) (s : State) : Res := whenLive s <| settle s <|
  .next (guarded s h (some 3) (fun s => inModes commandModes s (fun s =>
    if 16 ≤ v then refuse .invalid s
    else if isS s ∧ (rd s R.modRotEn &&& (15 - v)) ≠ 0 then
      refuse .invalid (journalFull s 0x0046 1 h.requester 0 (.code .invalid) (rd s R.modRotEn) 0 0)
    else okay (setRot s h.requester v))))

/-- R403: the region being applied goes live. -/
def execRegionLive (r : Nat) (s : State) : Res := whenLive s <|
  match curRegion s with
  | some (n, v, secs) => if n = r ∧ modeIn s [.splice] ∧ regionDone s r secs then .next (regionLive s r v secs) else .next s
  | none => .next s

end Sys2Proof.Machine
end

