-- ==== Sys2Proof/Machine/Hbm.lean ====
section
/-!
DEFINITION. The commands and events of the external memory controller (chapter 11).
-/

namespace Sys2Proof.Machine

open Sys2Proof

/-- A request to a stack: who asks, its operation (0 read, 1 write, 2 fetch-add, 3 compare-swap, 4 an on-die ECC
report), address, length, data, whether a queued write of its granules has yet to reach the stack, and what disturbs its
first reads and its re-reads (R299–R301, R304, R306). A stack in self-refresh serves no request (R401). -/
def execHbmRequest (stack : Nat) (p : HbmPort) (op addr len : Nat) (data : List Byte) (forwarded : Bool)
    (first again : List (Nat × Nat)) (s : State) : Res := whenLive s <|
  let errs := errsOf first again
  .next (
    if 4 ≤ stack ∨ !memServes s stack ∨ hbmU s stack ≤ addr then s
    else if op = 0 then
      let r := hbmReadQ s p stack addr len forwarded errs
      emit r.st (.memAnswer stack addr r.bytes r.bad)
    else if op = 1 then hbmWrite s p stack addr data errs
    else if op = 2 ∨ op = 3 then
      let r := hbmReadQ s p stack addr 8 forwarded errs
      if r.bad then emit r.st (.memAnswer stack addr r.bytes true)
      else
        let old := leNat r.bytes
        let new := if op = 2 then old + fieldLe data 0 8
          else if old = fieldLe data 0 8 then fieldLe data 8 8 else old
        let s := if op = 3 ∧ old ≠ fieldLe data 0 8 then r.st
          else hbmWrite r.st p stack addr (toLe 8 (new % 2 ^ 64)) []
        emit s (.memAnswer stack addr r.bytes false)
    else if op = 4 then logErr (bump s (R.hbmCntCount stack 11)) stack p.share 3 (addr / 64) 0
    else s)

/-- A channel's debt, key 64 × stack + channel (R308). -/
def setDebt (s : State) (k d : Nat) : State :=
  { s with hbm := { s.hbm with debt := if d = 0 then mdel s.hbm.debt k else mset s.hbm.debt k d } }

/-- A refresh of a channel falls due (R308): while flow reads are queued it is postponed, up to a debt of 8, and at 8
it is issued. On an idle channel it is issued, and one postponed refresh with it. -/
def execRefreshDue (stack pc : Nat) (flowQueued : Bool) (s : State) : Res := whenLive s <|
  .next (
    let k := 64 * stack + pc
    let d := mgetD s.hbm.debt k 0
    if flowQueued ∧ d < 8 then bump (setDebt s k (d + 1)) (R.hbmCntCount stack 6)
    else if flowQueued then refreshBanks k 1 s
    else setDebt (refreshBanks k (1 + min d 1) s) k (d - 1))

/-- The postponed refreshes of a stack's channels are issued, `m` for each, and no debt is left. -/
def repayBy (m : Nat) (s : State) (stack : Nat) : State :=
  (s.hbm.debt.filter (fun e => e.1 / 64 == stack)).foldl (fun s e => setDebt (refreshBanks e.1 (m * e.2) s) e.1 0) s

/-- A stack about to enter self-refresh repays its debt (R310). -/
def repayDebt (s : State) (stack : Nat) : State := repayBy 1 s stack

/-- The catch-up of a stack that has become hot: the debt, earned at the cooler rate, is doubled and issued at once, and
page hints 2 and 3 are 1 for 150 ns (R310). -/
def catchUp (s : State) (stack : Nat) : State :=
  let s := repayBy 2 s stack
  bump { s with hbm := { s.hbm with catchUntil := mset s.hbm.catchUntil stack (uptime s + 150) } }
    (R.hbmCntCount stack 7)

/-- A temperature reading (R309, R310, R429). -/
def execTempReading (stack temp : Nat) (s : State) : Res := whenLive s <|
  .next (
    let s := wr s (R.hbmThermTemp stack) temp
    let s := { s with saf := { s.saf with temps := mset s.saf.temps (16 + stack) temp } }
    let s := if rdB s (R.hbmThermHot stack) then
        (if temp < 82 then wr s (R.hbmThermHot stack) 0 else s)
      else if 85 ≤ temp then
        catchUp (wr s (R.hbmThermHot stack) 1) stack
      else s
    let s := if rd s (R.hbmThermAlertC stack) ≤ temp then notice s (toLe 1 stack ++ toLe 1 temp) else s
    let u := unitOf stack 0x40
    if 95 < temp then standFault s 20 u 2
    else if s.saf.standing.contains (20, u) then endStanding s 20 u else s)

/-- A channel's pass is due: its period has passed, or the temperature has moved by DELTA_C since its last pass
(R312). -/
def passDue (s : State) (stack pc : Nat) : Bool :=
  let k := 64 * stack + pc
  let per := rd s (R.hbmTrainCfgPeriodMs stack)
  let dc := rd s (R.hbmTrainCfgDeltaC stack)
  let t := rd s (R.hbmThermTemp stack)
  let u := mgetD s.hbm.passTemp k t
  (per != 0 && decide (mgetD s.hbm.passAt k 0 + per * 10 ^ 6 ≤ uptime s)) ||
  (dc != 0 && decide (dc ≤ (t - u) + (u - t)))

/-- A pass of channel `k` gathers: its 32 steps, 1 µs apart, are not over; then it applies (R312, log 44). -/
def gathering (s : State) (k : Nat) : Bool := ((mget s.hbm.pass k).map (fun t => decide (uptime s < t + 32000))).getD false

/-- The channels of a stack in a pass. -/
def passesOf (s : State) (stack : Nat) : List Nat := (s.hbm.pass.map (·.1)).filter (fun k => k / 64 == stack)

/-- A retraining pass that is due starts on a channel, in gathering; none starts during a catch-up, or on a channel
that is retired (R312). -/
def execRetrainPass (stack pc : Nat) (s : State) : Res := whenLive s <|
  .next (
    let k := 64 * stack + pc
    if stack < 4 ∧ pc < 64 ∧ memServes s stack ∧ (mget s.hbm.pass k).isNone ∧ !rdB s (R.hbmRateGo stack) ∧
        !catching s stack ∧ rd s (R.hbmPcRole stack pc) ≠ 2 ∧ passDue s stack pc then
      { s with hbm := { s.hbm with pass := mset s.hbm.pass k (uptime s) } }
    else s)

/-- A stack starts a rate change: debt repaid, self-refresh, relock, retraining (R313). -/
def beginRate (s : State) (stack : Nat) : State :=
  wrs (repayDebt s stack) [(R.hbmStatState stack, 5), (R.hbmRateHeld stack, 0)]

/-- Channel `k` has trained now, at the temperature now (R312). -/
def notePass (s : State) (k : Nat) : State :=
  { s with hbm := { s.hbm with
      passTemp := mset s.hbm.passTemp k (rd s (R.hbmThermTemp (k / 64)))
      passAt := mset s.hbm.passAt k (uptime s) } }

/-- A pass ends (R312, R313). One that a rate change found gathering is discarded; another's delays are applied, and a
channel that fails is retired (R316). The change that waited is made when no pass is left. -/
def execRetrainPassDone (stack pc : Nat) (ok : Bool) (s : State) : Res := whenLive s <|
  .next (
    let k := 64 * stack + pc
    if (mget s.hbm.pass k).isSome then
      let s := { s with hbm := { s.hbm with pass := mdel s.hbm.pass k } }
      let s := if s.hbm.again.contains k then bump s (R.hbmCntCount stack 9)
        else
          let s := bump s (R.hbmCntCount stack 8)
          if ok then notePass s k else failChannel stack s pc
      if rdB s (R.hbmRateGo stack) && passesOf s stack == [] && !s.hbm.initial.contains stack then beginRate s stack
      else s
    else s)

/-- A change of pin rate is asked for (R313): held while training data are gathered, put off while a pass applies, else
made at once. -/
def askRate (s : State) (stack rate : Nat) : State :=
  let s := wrs s [(R.hbmRateTarget stack, rate), (R.hbmRateGo stack, 1)]
  let g := (passesOf s stack).filter (gathering s)
  if s.hbm.initial.contains stack || g != [] then
    wr { s with hbm := { s.hbm with again := s.hbm.again ++ g } } (R.hbmRateHeld stack) 1
  else if passesOf s stack != [] then s
  else beginRate s stack

/-- A write of HBM_RATE.GO: firmware's thermal policy asks for a change (R313). It is refused as MEM_RATE is
(log 37). -/
def rateWritten (s : State) (stack rate : Nat) : State :=
  if !live s ∨ 4 ≤ stack then s
  else if 2 < rate ∨ rd s (R.hbmIdRating stack) < rate then wrStat s (R.hbmRateStatus stack) .invalid
  else if memBusy s stack then wrStat s (R.hbmRateStatus stack) .busy
  else askRate s stack rate

/-- MEM_RATE (R313, R317). -/
def execMemRate (hdr : CmdHdr) (stack rate : Nat) (s : State) : Res := whenLive s <|
  .next (guarded s hdr (some 3) (fun s => inModes commandModes s (fun s =>
    if 4 ≤ stack ∨ 2 < rate ∨ rd s (R.hbmIdRating stack) < rate then refuse .invalid s
    else if memBusy s stack then refuse .busy s
    else okay (askRate s stack rate))))

/-- A rate change completes: every channel has retrained, but for those of `done.bad`, which are retired; the stack
resumes, discarded passes run again and waiting triggers go on (R313, R316, R317). -/
def execRateChangeDone (done : RateEnd) (s : State) : Res := whenLive s <|
  let stack := done.stack
  .next (
    if rd s (R.hbmStatState stack) = 5 then
      let s := setPinRate s stack (rd s (R.hbmStatRate stack)) (rd s (R.hbmRateTarget stack))
      let s := wrStat (wrs s [(R.hbmStatState stack, 3), (R.hbmRateGo stack, 0)]) (R.hbmRateStatus stack) .ok
      let s := (upFrom (64 * stack) 64).foldl notePass s
      let mine := s.hbm.again.filter (fun k => k / 64 == stack)
      let s := { s with hbm := { s.hbm with pass := mine.foldl (fun m k => mset m k (uptime s)) s.hbm.pass,
                                            again := s.hbm.again.filter (fun k => k / 64 != stack) } }
      resumeAuto ((done.bad.filter (fun p => decide (p < 64))).foldl (failChannel stack) s) stack
    else s)

/-- PC_RETIRE (R315–R317). -/
def execPcRetire (hdr : CmdHdr) (stack pc rmode : Nat) (s : State) : Res := whenLive s <|
  .next (guarded s hdr (some 3) (fun s => inModes commandModes s (fun s =>
    if 4 ≤ stack ∨ 64 ≤ pc ∨ 1 < rmode ∨ rd s (R.hbmPcRole stack pc) ≠ 0 then refuse .invalid s
    else if memBusy s stack then refuse .busy s
    else if rmode = 0 then
      match (pcsWith s stack 1).head? with
      | some d => okay (startMigration s stack pc d)
      | none => refuse .noRoom s
    else okay (retireNow s stack pc))))

/-- Migration ends: the destination serves and the source is retired (R315). -/
def endMigration (s : State) (stack : Nat) (m : MigS) : State :=
  let s := setRole (setRole s stack m.dst 0 m.logical) stack m.src 2 0x3F
  let s := { s with hbm := { s.hbm with mig := mdel s.hbm.mig stack } }
  resumeAuto (syncRoles (memJournal s stack m.src 1 0 0 0) stack) stack

/-- The copy of granule `i` of the block at `base` (R315): an ordinary read of it, and a poison mark at the destination
where that read is uncorrectable, with a record of kind 4 unless the granule carried a mark already. -/
def copyGranule (stack base : Nat) (errs : List (Nat × Nat × Nat)) (s : State) (i : Nat) : State :=
  let g := base / 64 + i
  let r := readGranule s stack copyPort.share g (errAt errs i)
  if !r.bad then r.st
  else
    let t := bump (setMark r.st stack g) (R.hbmCntCount stack 5)
    if marked s stack g then t else logErr t stack copyPort.share 4 g r.syn

/-- One row-block is copied by an ordinary read; `errs` disturbs its granules (R300, R315). -/
def execMigrationBlockCopy (stack : Nat) (errs : List (Nat × Nat × Nat)) (s : State) : Res := whenLive s <|
  .next (
    match mget s.hbm.mig stack with
    | some m =>
      let r := rd s (R.hbmMigStatMark stack)
      let base := (r * 62 + m.logical) * 1024
      let s := touchRow (bump s (R.hbmCntCount stack 0)) copyPort stack base 16
      let s := (List.range 16).foldl (copyGranule stack base errs) s
      let s := bump (wr s (R.hbmMigStatMark stack) (r + 1)) (R.hbmCntCount stack 10)
      if blkCount s stack ≤ r + 1 then endMigration s stack m else s
    | none => s)

end Sys2Proof.Machine
end

