-- ==== Sys2Proof/Machine/FreezeOps.lean ====
section
/-!
DEFINITION. Shared operations of counters, the sample buffer, the indirect windows and Freeze Frame (R440–R461,
R468).
-/

namespace Sys2Proof.Machine

open Sys2Proof

/-! ### Programmable counters (R440–R445) -/

/-- An address is that of a fixed counter's 64-only COUNT register, outside the CTR and SMP blocks (R440). -/
def countAddr (a : Nat) : Bool :=
  match regAt a with
  | some (d, home) =>
    home == a && d.only64 && d.fields.any (fun f => f.lo == 0 && f.wid == 48 && f.acc == .ro) &&
      !(decide (0x80000 ≤ a) && decide (a < 0x90000))
  | none => false

/-- The selection a write of `v` to CTR_SEL[n] names is one R440 and R442 allow. -/
def selOk (n v : Nat) : Bool :=
  let src := bits v 0 2
  src != 3 && !(src == 1 && !countAddr (8 * bits v 8 25)) &&
    !(src == 2 && !(decide (1 ≤ bits v 16 5) && decide (bits v 16 5 ≤ 18))) && !(n % 2 == 0 && bit v 33)

/-- Show a selection, and count with it: a chained odd counter counts only its neighbour's overflows. -/
def applySel (s : State) (n v : Nat) : State :=
  let s := wrs s [(R.ctrSelSrc n, bits v 0 2), (R.ctrSelAddr n, bits v 8 25), (R.ctrSelChain n, bits v 33 1),
    (R.ctrSelIntOvf n, bits v 34 1)]
  let rest := s.ctr.watch.filter (fun e => e.1 != n)
  let w := if bits v 0 2 = 1 ∧ !bit v 33 then rest ++ [(n, 8 * bits v 8 25)] else rest
  { s with ctr := { s.ctr with watch := w } }

/-- Counter `n` would overflow by `inc`. -/
def wouldOvf (s : State) (n inc : Nat) : Bool := decide (2 ^ 48 ≤ rd s (R.ctrValCount n) + inc)

/-- The snapshot of CTR_VAL[n] (R443). -/
def snapshot (s : State) (n : Nat) : Nat :=
  rd s (R.ctrValCount n) +
    (if n % 2 = 0 ∧ rdB s (R.ctrSelChain (n + 1)) then rd s (R.ctrValCount (n + 1)) % 2 ^ 16 * 2 ^ 48 else 0)

/-! ### The sample buffer (R451) -/

/-- Show the sample buffer in SMP_STAT. -/
def syncSmp (s : State) : State :=
  wrs s [(R.smpStatCount, s.ctr.smpBuf.length), (R.smpStatFull, b2n (decide (2048 ≤ s.ctr.smpBuf.length)))]

/-- A record enters the buffer with its SEQ, or is discarded when it is full. -/
def writeSample (s : State) (r : List Byte) : State :=
  if 2048 ≤ s.ctr.smpBuf.length then bump s (R.smpCntCount 0)
  else
    let r := putBytes r 2 (toLe 2 s.ctr.smpSeq)
    let s := { s with ctr := { s.ctr with smpBuf := s.ctr.smpBuf ++ [r], smpSeq := (s.ctr.smpSeq + 1) % 2 ^ 16 } }
    let s := syncSmp (bump s (R.smpCntCount 2))
    if rd s R.smpCfgIntAt ≠ 0 ∧ s.ctr.smpBuf.length = rd s R.smpCfgIntAt then raiseVec s 0 83 else s

/-! ### Indirect windows (R468) -/

/-- A window's space and the byte of it that BAR0 address `a` reads. -/
def winByte (s : State) (a : Nat) : Nat × Nat × Nat :=
  let w := (a - 0x8000000) / 0x1000000 % 8
  (rd s (R.hifWinSelSpace w), rd s (R.hifWinSelQuad w), rd s (R.hifWinSelBase w) * 2 ^ 24 + a % 0x1000000)

/-- Bytes of a space. -/
def winSize (s : State) (sp q : Nat) : Nat :=
  match sp with
  | 0 => fieldLe (sec s 2 0) (0x0A + 8 * q) 1 * 2 ^ 24
  | 1 => 32 * 0x20000
  | 2 => 32 * 0x10000
  | 3 => fieldLe (sec s 2 0) (0x09 + 8 * q) 1 * 65536 * 0x10
  | 4 => 128 * 0x4000
  | 5 => 2048 * 0x20
  | 6 => hbmU s q
  | _ => fieldLe (sec s 2 0) (0x08 + 8 * q) 1 * 131072 * 0x80

/-- The item of a space at an offset, and the offset within it; none: bytes the spec does not place. -/
def spaceItem (s : State) (sp q x : Nat) : Option (List Byte × Nat) :=
  match sp with
  | 0 => nodeAt s q x
  | 1 =>
    let b := x / 0x20000
    let a := x % 0x20000 / 0x20
    let w := bankWidth s q b
    some (sliceBytes (slotWords s q b (a / 2 ^ w)) w (a % 2 ^ w), x % 0x20)
  | 2 =>
    let b := x / 0x10000
    some (toLe 16 (actionWord s q b (x % 0x10000 / 0x10)), x % 0x10)
  | 3 => some (descBytes (mget s.cel.cells (x / 0x10 + q * 2 ^ 25)), x % 0x10)
  | 4 =>
    let p := 128 * q + x / 0x4000
    let l := if x % 0x4000 < 0x2000 then operList s p else mgetD s.tim.admBank p noList
    let e := l.entries.getD (x % 0x2000 / 8) (0, 0)
    some (toLe 2 e.1 ++ [0, 0] ++ toLe 4 e.2, x % 8)
  | 5 => some ((s.ctr.smpBuf[x / 0x20]?).getD (List.replicate 32 0), x % 0x20)
  | 6 => some (hbmPeek s q (x / 64 * 64) 64, x % 64)
  | 7 =>
    match mget s.flo.lines (q * 2 ^ 24 + x / 0x80) with
    | some l => some (toLe 128 l.content, x % 0x80)
    | none => none
  | _ => none

/-- Eight bytes of a space; bytes the spec places nowhere are free. -/
def spaceRead (s : State) (sp q x : Nat) : List Byte × State :=
  match spaceItem s sp q x with
  | some (b, o) => (slice b o 8, s)
  | none =>
    let r := freeBytes s 8
    ((List.range 8).map (fun i => match mget s.eng.tstore (q * 2 ^ 32 + x + i) with
      | some b => if sp = 0 then b else r.1.getD i 0
      | none => r.1.getD i 0), r.2)

/-! ### Freeze Frame (R454–R460) -/

/-- Steps 1–4 of R456: the trigger is recorded and journalled, SEC is zeroized, the quadrants, SerDes, fabric and
HIF stop. -/
def freezeNow (s : State) (code unit : Nat) : State :=
  let s := wrs s [(R.frzLastTrigger, code), (R.frzLastUnit, unit), (R.frzLastLost, 0), (R.frzLastUptimeUs, uptimeUs s)]
  let s := journal s 0x0061 1 0 (.num code) 0 0
  let s := if code = 4 then
      journal s 0x0040 3 (rd s R.safFirstUnit) (.num (rd s R.safFirstCode)) 0 0 else s
  let s := (List.range 2).foldl (fun s i => if rdB s (R.timSynceSquelched i) then s else squelch s i true) (zeroize false s)
  let s := { s with ctr := { s.ctr with frzReq := none, frzCmd := none, frzAt := none, frzStep := 4, frzDataRo := rdB s R.frzCfgDataRo,
                                        frzDump := 0, frzWarm := false }
                    host := { s.host with link := .down } }
  setMode s .freeze

/-- Steps 5–7 of R456: the tail is committed without the mirror, the stacks enter self-refresh, and every domain
has stopped. -/
def freezeStop (s : State) : State :=
  let s := wr s R.frzLastLost (min 65535 s.saf.jOver.length)
  let s := commitTail s false
  let s := (List.range 4).foldl (fun s st => if rd s (R.hbmStatState st) = 3 then wr s (R.hbmStatState st) 4 else s) s
  { s with hbm := { s.hbm with debt := [] }, ctr := { s.ctr with frzStep := 7 } }

/-- The bytes of a rushes frame (R458): preamble nibbles, header, data, trailer. -/
def rushesFrame (space tag addr : Nat) (st : Status) (data : List Byte) (poisoned : Nat) : List Byte :=
  let h := toLe 1 (space % 16) ++ toLe 1 tag ++ toLe 2 (Config.statusCode st).toNat ++ toLe 4 data.length ++ toLe 8 addr
  let t := toLe 4 poisoned
  [0x55, 0x55, 0x55, 0xD5] ++ h ++ data ++ t ++ toLe 4 (crc32c 0xFFFFFFFF (h ++ data ++ t))

/-- Send a rushes frame on RUSHES_D, or on TDO (R458). -/
def sendRushes (s : State) (b : List Byte) : State := emit s (if s.ctr.rushesTo then .tdo b else .rushes b)

/-- Granules of a range that read as poisoned: marked ones, and those whose re-read fails (R460). -/
def poisonedCount (s : State) (st a n : Nat) (hurt : List Nat) : Nat :=
  ((upFrom (a / 64) (n / 64)).filter (fun g => marked s st g || hurt.contains g)).length

end Sys2Proof.Machine
end

