-- ==== Sys2Proof/Machine/ImageCheck.lean ====
section
/-!
DEFINITION. The Script image: its container, the chain of signatures, and the content rules of every section
(R45–R59, R495 and the rules of the sections' own chapters).
-/

namespace Sys2Proof.Machine

open Sys2Proof

/-! ### The container (R45–R50) -/

def imFormat (b : List Byte) : Nat := fieldLe b 4 2
def imVer (b : List Byte) : Nat := fieldLe b 8 4
def imRollback (b : List Byte) : Nat := fieldLe b 0x0C 2
def imKind (b : List Byte) : Nat := fieldLe b 0x0E 1
def imEncrypted (b : List Byte) : Bool := bit (fieldLe b 0x0F 1) 0
def imVariants (b : List Byte) : Nat := bits (fieldLe b 0x0F 1) 1 2
def imTotal (b : List Byte) : Nat := fieldLe b 0x10 4
def imSecs (b : List Byte) : Nat := fieldLe b 0x14 2
def imRegs (b : List Byte) : Nat := fieldLe b 0x16 2
def imSecOff (b : List Byte) : Nat := fieldLe b 0x18 4
def imRegOff (b : List Byte) : Nat := fieldLe b 0x1C 4
def imSigOff (b : List Byte) : Nat := fieldLe b 0x20 4
def imBase (b : List Byte) : Nat := fieldLe b 0x24 4
def imLineage (b : List Byte) : Nat := fieldLe b 0x28 8

/-- A section-table entry (R47). -/
structure SecEnt where
  kind : Nat
  region : Nat
  inst : Nat
  enc : Bool
  off : Nat
  len : Nat
  crc : Nat
  deriving DecidableEq, Repr

/-- The section table. -/
def secTable (b : List Byte) : List SecEnt :=
  (List.range (imSecs b)).map (fun i =>
    let o := imSecOff b + 32 * i
    ⟨fieldLe b o 2, fieldLe b (o + 2) 2, fieldLe b (o + 4) 2, bit (fieldLe b (o + 6) 1) 0, fieldLe b (o + 8) 4,
     fieldLe b (o + 12) 4, fieldLe b (o + 16) 4⟩)

/-- The region map: region and REGION_VER (R48). -/
def regionMap (b : List Byte) : List (Nat × Nat) :=
  (List.range (imRegs b)).map (fun i => (fieldLe b (imRegOff b + 16 * i) 2, fieldLe b (imRegOff b + 16 * i + 4) 4))

/-- The ranges of bytes that the container places: section table, region map, payloads. -/
def imRanges (b : List Byte) : List (Nat × Nat) :=
  (imSecOff b, 32 * imSecs b) :: (imRegOff b, 16 * imRegs b) ::
    ((secTable b).filter (fun e => e.len != 0)).map (fun e => (e.off, e.len))

/-- Ranges (first, length) that do not overlap. -/
def disjoint (l : List (Nat × Nat)) : Bool :=
  decide (l.Pairwise (fun a b => a.1 + a.2 ≤ b.1 ∨ b.1 + b.2 ≤ a.1))

/-- The layout complies with R45 and its counts with R46 and R49. -/
def layoutOk (b : List Byte) : Bool :=
  decide (1 ≤ imSecs b) && decide (imSecs b ≤ 1024) && decide (1 ≤ imRegs b) && decide (imRegs b ≤ 146) &&
  imSecOff b % 64 == 0 && imRegOff b % 64 == 0 && imSigOff b % 64 == 0 &&
  (secTable b).all (fun e => e.off % 64 == 0) &&
  (imRanges b).all (fun r => decide (128 ≤ r.1) && decide (r.1 + r.2 ≤ imSigOff b)) && disjoint (imRanges b) &&
  imTotal b == imSigOff b + 14856 && decide (imTotal b ≤ 2 ^ 25)

/-- The first section whose CRC fails twice; `hurt`: sections whose second read fails too (R64). -/
def badCrc (b : List Byte) (hurt : List Nat) : Option Nat :=
  (List.range (imSecs b)).find? (fun i =>
    match (secTable b)[i]? with
    | some e => hurt.contains i || crc32c 0xFFFFFFFF (slice b e.off e.len) != e.crc
    | none => false)

/-! ### The chain (R57, R58) -/

/-- The first failing check of the chain, as the load error table numbers it; a signature block with a wrong SB_MAGIC
or SB_FORMAT fails the first. Its reserved and padding bytes are not checked (log 38). `d`: the digest D; `sb`: the
signature block. -/
def chainFails (f : FuseS) (d sb : List Byte) : Option Nat :=
  let e := sha (slice sb 0x70 97 ++ slice sb 0xBB8 2592)
  if fieldLe sb 0 4 ≠ 0x53424B53 ∨ fieldLe sb 4 2 ≠ 1 ∨ sha (slice sb 8 97 ++ slice sb 0x198 2592) ≠ f.rootHash then some 4
  else if f.ownerHash ≠ some e then some 5
  else if !Config.ecdsaOk (slice sb 8 97) e (slice sb 0xD8 96) then some 6
  else if !Config.mldsaOk (slice sb 0x198 2592) e (slice sb 0x15D8 4627) then some 7
  else if !Config.ecdsaOk (slice sb 0x70 97) d (slice sb 0x138 96) then some 8
  else if !Config.mldsaOk (slice sb 0xBB8 2592) d (slice sb 0x27F0 4627) then some 9
  else none

/-- The chain of an image. -/
def imChain (s : State) (b : List Byte) : Option Nat :=
  chainFails s.fuse (sha (slice b 0 (imSigOff b))) (slice b (imSigOff b) 14856)

/-! ### Sections in the clear (R59) -/

/-- Key-encryption key and content key of an encrypted image. -/
def imKek (s : State) (b : List Byte) : List Byte := kdf (slotKey s 1) "SKIS-KEK" (slice b 0x28 8 ++ slice b 8 4) 2
def imKey (s : State) (b : List Byte) : List Byte :=
  aesD (imKek s b) (slice b 0x30 16) ++ aesD (imKek s b) (slice b 0x40 16)

/-- The assigned, non-empty sections of an image, decrypted. -/
def imSections (s : State) (b : List Byte) : List SecS :=
  let k := imKey s b
  ((secTable b).filter (fun e => e.len != 0 && decide (1 ≤ e.kind) && decide (e.kind ≤ 14))).map (fun e =>
    let p := slice b e.off e.len
    ⟨e.kind, e.region, e.inst, if e.enc then ctrAt k (slice b 0x50 12) e.off p else p⟩)

/-! ### Presence (R50, R51, R495) -/

/-- A region index is assigned. -/
def regionAssigned (n : Nat) : Bool := decide (n ≤ 17) || (decide (64 ≤ n) && decide (n ≤ 191))

/-- The region R51 gives a section of a kind and instance; none: no such instance. -/
def regionFor (kind inst : Nat) : Option Nat :=
  if kind = 3 then (if inst = 0 then some 1 else none)
  else if kind = 4 then (if inst < 8 then some (2 + inst) else none)
  else if kind = 8 then (if inst < 8 then some (10 + inst) else none)
  else if kind = 9 then (if inst < 64 then some (64 + inst) else none)
  else if kind = 10 then (if inst < 64 then some (128 + inst) else none)
  else if inst = 0 then some 0 else none

/-- The region map lists assigned indices, each once. -/
def mapOk (b : List Byte) : Bool :=
  let r := (regionMap b).map (·.1)
  r.all regionAssigned && decide r.Nodup

/-- Entry `i` of the section table stands where R51 puts it and has no earlier duplicate. -/
def entryOk (b : List Byte) (i : Nat) : Bool :=
  match (secTable b)[i]? with
  | some e =>
    if e.len = 0 ∨ e.kind = 0 ∨ 15 ≤ e.kind then true
    else regionFor e.kind e.inst == some e.region && ((regionMap b).map (·.1)).contains e.region &&
      ((secTable b).take i).all (fun x => x.len == 0 || x.kind != e.kind || x.inst != e.inst)
  | none => true

/-- Every listed region but a Shutter region carries a section of its class (R495). -/
def regionsFilled (b : List Byte) (l : List SecS) : Bool :=
  ((regionMap b).map (·.1)).all (fun r => decide (128 ≤ r) || l.any (fun x => x.region == r))

/-- The failing section of the presence checks: its index, or 0xFFFF. -/
def placesFail (b : List Byte) (l : List SecS) : Option Nat :=
  if !mapOk b then some 0xFFFF
  else match (List.range (imSecs b)).find? (fun i => !entryOk b i) with
    | some i => some i
    | none => if regionsFilled b l then none else some 0xFFFF

/-- A section is present. -/
def hasSec (l : List SecS) (kind inst : Nat) : Bool := l.any (fun x => x.kind == kind && x.inst == inst)

/-- Pipe class of slot `s`, engine class of group `e`, in a port map (R52). -/
def pmPipe (l : List SecS) (s : Nat) : Nat := fieldLe (secBytes l 1 0) (0x08 + s) 1
def pmEng (l : List SecS) (e : Nat) : Nat := fieldLe (secBytes l 1 0) (0x28 + e) 1

/-- The ports a port map declares in a port group. -/
def pmPorts (l : List SecS) (g : Nat) : List Nat :=
  ((portDecls (secBytes l 1 0)).map (·.port)).filter (fun p => portPg p == g)

/-- A full image carries every section R51 asks for. -/
def fullPresent (l : List SecS) : Bool :=
  [1, 2, 3, 5, 6, 7, 0xB, 0xC, 0xD, 0xE].all (fun k => hasSec l k 0) &&
  (List.range 32).all (fun i => decide (8 ≤ pmPipe l i) || hasSec l 4 (pmPipe l i)) &&
  (List.range 32).all (fun i => decide (8 ≤ pmEng l i) || hasSec l 8 (pmEng l i)) &&
  (List.range 64).all (fun g => pmPorts l g == [] || hasSec l 9 g)

/-! ### Section content: port map and memory (R21, R22, R31, R32, R52, R53) -/

/-- Lanes of a speed code, and its lane mode. -/
def lanesOf (speed : Nat) : Nat := if speed = 5 then 8 else if speed = 4 then 4 else if speed = 3 then 2 else 1
def laneMode (speed : Nat) : Nat := if speed = 6 then 0 else if speed = 1 then 1 else 2

def portMapOk (b : List Byte) : Bool :=
  let n := fieldLe b 0 2
  let ds := portDecls b
  decide (n ≤ 512) && decide (0x48 + 8 * n ≤ b.length) &&
  (List.range 32).all (fun i => decide (fieldLe b (8 + i) 1 ≤ 7) &&
    (decide (fieldLe b (0x28 + i) 1 ≤ 7) || fieldLe b (0x28 + i) 1 == 0xFF)) &&
  ds.all (fun d => decide (d.port < 512) && decide (1 ≤ d.speed) && decide (d.speed ≤ 6) && decide (d.frameMax ≤ 9216) &&
    decide (d.port % 8 + lanesOf d.speed ≤ 8)) &&
  disjoint (ds.map (fun d => (d.port, lanesOf d.speed))) &&
  ds.all (fun d => ds.all (fun e => portPg d.port != portPg e.port || laneMode d.speed == laneMode e.speed))

/-- FC_UNITS, PB_UNITS, TS_UNITS and POOL1_GIB of a quadrant. -/
def mpFc (b : List Byte) (q : Nat) : Nat := fieldLe b (8 + 8 * q) 1
def mpPb (b : List Byte) (q : Nat) : Nat := fieldLe b (9 + 8 * q) 1
def mpTs (b : List Byte) (q : Nat) : Nat := fieldLe b (10 + 8 * q) 1
def mpPool1 (b : List Byte) (q : Nat) : Nat := fieldLe b (12 + 8 * q) 2

def memoryOk (b : List Byte) : Bool :=
  decide (0x26 ≤ b.length) && decide (24 ≤ fieldLe b 0 1) && decide (fieldLe b 0 1 ≤ 29) &&
  (List.range 4).all (fun q =>
    decide (4 ≤ mpFc b q) && decide (mpFc b q ≤ 10) && decide (2 ≤ mpPb b q) && decide (mpPb b q ≤ 6) &&
    decide (2 ≤ mpTs b q) && decide (mpTs b q ≤ 6) && mpFc b q + mpPb b q + mpTs b q == 16 && mpFc b q == mpFc b 0)

/-- MiB of region `r` of a stack (R295); region 7 takes the rest. -/
def regionMib (b : List Byte) (st r : Nat) : Nat :=
  match r with
  | 0 => 64 | 1 => 2048 | 2 => 64 | 3 => 640
  | 4 => 2 ^ (fieldLe b 0 1 - 2) * 128 / 2 ^ 20
  | 5 => mpPool1 b st * 16
  | _ => mpPool1 b st * 1024

/-- MiB of regions 0 to `n` − 1. -/
def regionsMib (b : List Byte) (st n : Nat) : Nat := ((List.range n).map (regionMib b st)).sum

/-! ### Parser graph and stage programs (R68–R82) -/

/-- Bits of the fixed fields an extract may write; a stage result may write DISP too (R76). -/
def fixedOk (stage : Bool) (i : Nat) : Bool :=
  i == 63 || (decide (80 ≤ i) && decide (i ≤ 93)) || (decide (96 ≤ i) && decide (i ≤ 103)) ||
  (decide (221 ≤ i) && decide (i ≤ 254)) || (stage && (i == 126 || i == 127))

/-- The declared metadata fields of a parser graph: position and width (R77). -/
def declsOf (g : List Byte) : List (Nat × Nat) :=
  (List.range (fieldLe g 8 2)).map (fun i =>
    let o := 0x40 + 192 * fieldLe g 0 2 + 8 * i
    (fieldLe g o 2 % 1024, fieldLe g (o + 2) 2 % 1024))

/-- Bits `d … d + w − 1` lie in one declared field. -/
def inDecl (g : List Byte) (d w : Nat) : Bool :=
  (declsOf g).any (fun x => decide (x.1 ≤ d) && decide (d + w ≤ x.1 + x.2))

/-- A write of `w` bits from `d` on is one R76 and R77 allow. -/
def writeOk (stage : Bool) (g : List Byte) (d w : Nat) : Bool :=
  if d < 256 then (upFrom d w).all (fixedOk stage) else inDecl g d w

def graphPorts (g : List Byte) : Nat := fieldLe g 6 2 % 1024

/-- An EXTRACT word. -/
def extractOk (g : List Byte) (x : Nat) : Bool :=
  let w := bits x 12 8
  decide (1 ≤ w) && decide (w ≤ 128) && writeOk false g (bits x 20 10) w &&
  (decide (w ≤ 32) || (bits x 0 12 % 8 == 0 && bits x 20 10 % 8 == 0))

/-- A state entry; it names no state at or above STATE_COUNT `n`, in DEFAULT_NEXT or in a NEXT (R72). -/
def parseStateOk (g : List Byte) (n i : Nat) : Bool :=
  let o := stEntry i
  let tc := fieldLe g (o + 0x0D) 1 % 16
  let xc := fieldLe g (o + 0x0E) 1 % 16
  fieldLe g o 1 == i && decide (fieldLe g (o + 1) 1 % 16 ≤ 10) && decide (fieldLe g (o + 0x0A) 1 % 64 ≤ 32) &&
  decide (tc ≤ 8) && decide (xc ≤ 8) &&
  decide (fieldLe g (o + 0x0B) 1 < n) && (List.range tc).all (fun j => decide (fieldLe g (o + 0x38 + 16 * j) 1 < n)) &&
  (List.range xc).all (fun j => extractOk g (fieldLe g (o + 0x10 + 4 * j) 4))

def parserOk (g : List Byte) : Bool :=
  let n := fieldLe g 0 2
  let dc := fieldLe g 8 2
  let ds := declsOf g
  decide (1 ≤ n) && (decide (256 < n) ||
  (decide (dc ≤ 128) && decide (0x40 + 192 * n + 8 * dc ≤ g.length) &&
  decide (fieldLe g 2 1 < n) && decide (fieldLe g 3 1 < n) && decide (fieldLe g 4 1 < n) &&
  graphPorts g % 8 == 0 && decide (256 ≤ graphPorts g) && decide (graphPorts g ≤ 992) &&
  ds.all (fun d => decide (256 ≤ d.1) && decide (1 ≤ d.2) && decide (d.2 ≤ 768) && decide (d.1 + d.2 ≤ 1024)) &&
  disjoint ds && (upFrom (graphPorts g) 32).all (fun i => inDecl g i 1) &&
  (List.range n).all (parseStateOk g n)))

/-- Offset of a stage entry. -/
def stageAt (i : Nat) : Nat := 0x10 + 128 * i

def stKind (b : List Byte) (i : Nat) : Nat := fieldLe b (stageAt i + 1) 1 % 16
def stTable (b : List Byte) (i : Nat) : Nat := fieldLe b (stageAt i + 2) 2
def stBanks (b : List Byte) (i : Nat) : Nat := fieldLe b (stageAt i + 8) 4

/-- The result writes of a stage: SRC, WIDTH, DST. -/
def stWrites (b : List Byte) (i : Nat) : List (Nat × Nat × Nat) :=
  (List.range (fieldLe b (stageAt i + 0x0F) 1 % 16)).map (fun j =>
    let w := fieldLe b (stageAt i + 0x50 + 4 * j) 4
    (bits w 0 7, bits w 7 8, bits w 15 10))

/-- The stage can drop (R81). -/
def stDrops (b : List Byte) (i : Nat) : Bool :=
  stKind b i != 0 && (fieldLe b (stageAt i + 6) 1 % 4 == 1 ||
    (stWrites b i).any (fun w => decide (w.2.2 ≤ 127) && decide (126 < w.2.2 + w.2.1)))

/-- Key slices of a stage: SRC and WIDTH. -/
def stSlices (b : List Byte) (i : Nat) : List (Nat × Nat) :=
  (List.range (fieldLe b (stageAt i + 0x0E) 1 % 32)).map (fun j =>
    let w := fieldLe b (stageAt i + 0x10 + 4 * j) 4
    (bits w 0 10, bits w 10 8))

/-- A stage entry (R79–R81); `rs`: the REASONS of the policy section (R56). A slice or a result write that reaches past
the metadata or the result is refused (log 38). -/
def stageOk (g rs b : List Byte) (i : Nat) : Bool :=
  let o := stageAt i
  let kl := fieldLe b (o + 4) 2
  let dc := fieldLe b (o + 7) 1
  fieldLe b o 1 == i && decide (stKind b i ≤ 4) && decide (kl ≤ 640) && (stKind b i == 0 || kl != 0) &&
  decide (fieldLe b (o + 6) 1 % 4 ≤ 2) && decide ((stSlices b i).length ≤ 16) && decide ((stWrites b i).length ≤ 8) &&
  ((stSlices b i).map (·.2)).sum == kl &&
  (stSlices b i).all (fun x => decide (1 ≤ x.2) && decide (x.2 ≤ 128) && decide (x.1 + x.2 ≤ 1024)) &&
  (stWrites b i).all (fun w => decide (1 ≤ w.2.1) && decide (w.1 + w.2.1 ≤ 128) && writeOk true g w.2.2 w.2.1) &&
  (!stDrops b i || dc == 5 || dc == 6 || dc == 8 || bit (fieldLe rs (8 + dc / 8) 1) (dc % 8))

def stagesOk (g rs b : List Byte) : Bool :=
  let n := fieldLe b 0 1
  decide (24 < n) || (decide (16 + 128 * n ≤ b.length) && decide (fieldLe b 1 1 ≤ n) &&
    (List.range n).all (stageOk g rs b))

/-- The stage-program sections of an image, with their classes. -/
def stageSecs (l : List SecS) : List (Nat × List Byte) := (l.filter (fun x => x.kind == 4)).map (fun x => (x.inst, x.bytes))

/-- Quadrants in which a pipe class runs. -/
def classQuads (l : List SecS) (cls : Nat) : List Nat :=
  (List.range 4).filter (fun q => (List.range 8).any (fun p => pmPipe l (8 * q + p) == cls))

/-- A pipe class with a flow stage runs in quadrant `q`. -/
def flowIn (l : List SecS) (q : Nat) : Bool :=
  (List.range 8).any (fun p => flowEn (secBytes l 4 (pmPipe l (8 * q + p))))
def flowAny (l : List SecS) : Bool := (List.range 4).any (flowIn l)

/-! ### Tables and banks (R98–R104, R115–R120, R138) -/

def tblsOf (l : List SecS) : List TblDecl := tblDecls (secBytes l 5 0)

/-- Width code of a care-mask key length (R102). -/
def widthCode (n : Nat) : Nat := if n ≤ 80 then 0 else if n ≤ 160 then 1 else if n ≤ 320 then 2 else 3

def tblOk (d : TblDecl) : Bool :=
  decide (d.num ≤ 255) && decide (1 ≤ d.kind) && decide (d.kind ≤ 4) && (d.kind == 2 || !d.v6) &&
  (!d.learn || d.kind == 1) &&
  (match d.kind with
    | 1 => decide (1 ≤ d.keyLen) && decide (d.keyLen ≤ if d.learn then 64 else 352) && decide (d.ageMs ≤ 16383000)
    | 2 => d.keyLen == (if d.v6 then 142 else 46)
    | 3 => decide (1 ≤ d.keyLen) && decide (d.keyLen ≤ 640)
    | _ => decide (1 ≤ d.keyLen) && decide (d.keyLen ≤ 20)) &&
  (match d.kind with
    | 1 | 2 => decide (4 ≤ d.sizeLog2) && decide (d.sizeLog2 ≤ 21) && d.seed0 != d.seed1
    | 3 => d.sizeLog2 == 0
    | _ => d.sizeLog2 == d.keyLen) &&
  (if d.kind = 2 then decide (1 ≤ d.classes) && decide (d.classes ≤ 16) else d.classes == 0) &&
  (!d.learn || (bits d.lk0 10 8 + bits d.lk1 10 8 == d.keyLen && decide (bits d.lk0 10 8 ≤ 128) &&
    decide (bits d.lk0 0 10 + bits d.lk0 10 8 ≤ 1024) && decide (bits d.lk1 0 10 + bits d.lk1 10 8 ≤ 1024)))

/-- R118 for one stage of a class. -/
def stageTblOk (l : List SecS) (cls : Nat) (b : List Byte) (i : Nat) : Bool :=
  stKind b i == 0 ||
  (match (tblsOf l).find? (fun d => d.num == stTable b i) with
    | some d => d.kind == stKind b i && !d.egress && (classQuads l cls).all (fun q => bit d.quads q) &&
        (!d.learn || decide (d.learnAfter ≤ fieldLe b 0 1))
    | none => false)

/-- R118 for a stage-program section. -/
def stagesTblOk (l : List SecS) (x : Nat × List Byte) : Bool :=
  (List.range (min 24 (fieldLe x.2 0 1))).all (stageTblOk l x.1 x.2)

/-- Bank `e` of a bank assignment: table, width, role (R103). -/
def bkTable (l : List SecS) (e : Nat) : Nat := fieldLe (secBytes l 6 0) (0x10 + 8 * e) 2
def bkWidth (l : List SecS) (e : Nat) : Nat := fieldLe (secBytes l 6 0) (0x12 + 8 * e) 1 % 4
def bkRole (l : List SecS) (e : Nat) : Nat := fieldLe (secBytes l 6 0) (0x12 + 8 * e) 1 / 4 % 4

/-- The banks of quadrant `q` that a table holds in a role. -/
def bkOf (l : List SecS) (t role q : Nat) : List Nat :=
  (List.range 32).filter (fun b => bkRole l (32 * q + b) == role && bkTable l (32 * q + b) == t)

/-- R104 for the stages of a section. -/
def stagesBankOk (l : List SecS) (x : Nat × List Byte) : Bool :=
  (List.range (min 24 (fieldLe x.2 0 1))).all (fun i =>
    stKind x.2 i != 3 || (stBanks x.2 i != 0 && (classQuads l x.1).all (fun q =>
      (List.range 32).all (fun b => !bit (stBanks x.2 i) b || (bkOf l (stTable x.2 i) 1 q).contains b))))

def banksOk (l : List SecS) (b : List Byte) : Bool :=
  b.length == 1040 && fieldLe b 0 1 != 1 &&
  (List.range 128).all (fun e => bkRole l e == 0 ||
    (match (tblsOf l).find? (fun d => d.num == bkTable l e) with
      | some d => decide (bkRole l e ≤ 2) && bkWidth l e == widthCode d.keyLen &&
          d.kind == (if bkRole l e = 1 then 3 else 1)
      | none => false)) &&
  (tblsOf l).all (fun d =>
    let qs := quadsOf d
    if d.kind = 3 then qs.all (fun q => bkOf l d.num 1 q == bkOf l d.num 1 (qs.headD 0))
    else if d.kind = 1 then qs.all (fun q => (bkOf l d.num 2 q).length == 2 ^ widthCode d.keyLen)
    else true) &&
  (stageSecs l).all (stagesBankOk l)

/-- The nodes of a queue-tree section that belong to port `p`: level, class, and the place of the parent among
them: the tree's shape. -/
def treeShape (b : List Byte) (p : Nat) : List (Nat × Nat × Nat) :=
  let ns := nodesOf b 0
  let mine := (List.range ns.length).filter (fun i => listPort ns 4 i == some p)
  mine.map (fun i => match ns[i]? with
    | some n => (n.level, n.tc, (mine.findIdx? (· == n.parent)).getD 0)
    | none => (0, 0, 0))

def shapeOf (l : List SecS) (p : Nat) : List (Nat × Nat × Nat) := treeShape (secBytes l 9 (portPg p)) p

/-- The logical ports (R119, R120). -/
def lportsOk (l : List SecS) : Bool :=
  let ps := lportDecls (secBytes l 5 0)
  let aggs := ps.filter (fun d => d.typ == 1)
  ps.all (fun d => decide (552 ≤ d.port) && decide (d.port ≤ 1023) && (d.typ == 1 || d.typ == 2) &&
    decide (1 ≤ d.members.length) && decide (d.members.length ≤ if d.typ = 1 then 16 else 1) &&
    d.members.all (fun m => decide (m < 512)) &&
    (d.typ == 2 || d.members.all (fun m => shapeOf l m == shapeOf l (d.members.headD 0)))) &&
  decide (ps.map (·.port)).Nodup &&
  (List.range 512).all (fun p => decide ((aggs.filter (fun d => d.members.contains p)).length ≤ 1))

def tablesOk (l : List SecS) (b : List Byte) : Bool :=
  let n := fieldLe b 0 2
  let k := fieldLe b 6 2
  decide (n ≤ 256) && decide (1 ≤ fieldLe b 2 2) && decide (1 ≤ fieldLe b 4 2) && (decide (472 < k) ||
  (decide (0x20 + 48 * (n + k) ≤ b.length) && decide (fieldLe b 0x0A 1 ≤ 128) &&
  decide (fieldLe b 8 2 % 1024 + fieldLe b 0x0A 1 ≤ 1024) &&
  (tblDecls b).all tblOk && decide ((tblDecls b).map (·.num)).Nodup &&
  (stageSecs l).all (stagesTblOk l) && lportsOk l))

/-- Bytes a replica of a table takes in the table store (R117). -/
def tblStoreBytes (d : TblDecl) : Nat :=
  match d.kind with
  | 1 => 64 * 2 ^ d.sizeLog2
  | 2 => 64 * 2 ^ d.sizeLog2 + 262144 + 16384 + d.classes * 4194304
  | 4 => 32 * 2 ^ d.keyLen
  | _ => 0

/-- Bytes the image needs in the table store of quadrant `q` (R117, R184, R185, R251, R258, R286). -/
def storeNeed (l : List SecS) (q : Nat) : Nat :=
  (((tblsOf l).filter (fun d => bit d.quads q)).map tblStoreBytes).sum +
  ((upFrom (16 * q) 16).map (fun g => 64 * (treeHdrOf (secBytes l 9 g)).nodeCount)).sum +
  65536 * 8 + 262144 * 4 + 4096 * 32 + 16384 * 32 + (if flowIn l q then 16777216 else 0) + Config.storeOverhead

/-- The image needs more table store than quadrant `q` has. -/
def storeOver (l : List SecS) (q : Nat) : Bool := decide (mpTs (secBytes l 2 0) q * 16777216 < storeNeed l q)

/-! ### Flow layout and microcode (R154, R155, R206–R221) -/

def flowLayoutOk (g b : List Byte) : Bool :=
  let a := fieldLe b 2 2 % 1024
  let r := fieldLe b 4 2 % 1024
  let p := graphPorts g
  b.length == 96 && decide (fieldLe b 0 1 ≤ 1) && a % 8 == 0 && decide (256 ≤ a) && decide (a ≤ 768) && r % 8 == 0 &&
  decide (256 ≤ r) && decide (r ≤ 896) && decide (fieldLe b 6 1 ≤ 2) && decide (fieldLe b 7 1 ≤ 10) &&
  decide ([fieldLe b 8 4, fieldLe b 12 4, fieldLe b 16 4, fieldLe b 20 4]).Nodup &&
  decide (fieldLe b 0x18 2 ≤ 4096) && decide (fieldLe b 0x1A 2 ≤ 600) && decide (fieldLe b 0x1C 2 ≤ 250) &&
  inDecl g a 256 && inDecl g r 128 && disjoint [(a, 256), (r, 128), (p, 32)] &&
  (List.range 16).all (fun s => decide (fieldLe b (0x20 + 4 * s) 4 < 2 ^ 23))

/-- A microword without an invalid code and with its unused bits 0 (R206–R216, R221). -/
def microOk (w : Nat) : Bool :=
  let cond := fun c => decide (c ≤ 47) && c != 15
  let m := bits w 128 64
  cond (bits w 17 6) && cond (bits w 25 6) && bits w 23 1 == 0 && bits w 31 1 == 0 && bits w 57 7 == 0 &&
  decide (bits w 64 5 ≤ 23) && decide (bits w 96 5 ≤ 23) &&
  decide (bits m 0 3 ≤ 6) && decide (bits m 3 3 ≤ 5) && decide (bits m 6 4 ≤ 8) && bits m 21 3 == 0 &&
  decide (bits m 24 3 ≤ 6) && bits m 33 31 == 0

def microcodeOk (inst : Nat) (b : List Byte) : Bool :=
  let n := fieldLe b 0 2
  decide (1 ≤ n) && (decide (16384 < n) ||
  (b.length == 0x300 + 24 * n && fieldLe b 2 1 == inst &&
  (List.range n).all (fun i => microOk (leNat (slice b (0x300 + 24 * i) 24))) &&
  [8, 0x0A, 0x0C, 0x0E, 0x10].all (fun o => decide (fieldLe b o 2 % 16384 < n)) &&
  (List.range 64).all (fun i => let e := fieldLe b (0x40 + 8 * i) 8; !bit e 14 || decide (e % 16384 < n))))

/-- Hardware kinds 0–2 each have exactly one class, with a group in every quadrant, where a flow stage runs (R221). -/
def kindsOk (l : List SecS) : Bool :=
  !flowAny l || [0, 1, 2].all (fun k =>
    match (List.range 8).filter (fun c => (List.range 32).any (fun e => pmEng l e == c) &&
        bit (fieldLe (secBytes l 8 c) 3 1) k) with
    | [c] => (List.range 4).all (fun q => (List.range 8).any (fun e => pmEng l (8 * q + e) == c))
    | _ => false)

/-! ### Queue trees and Shutter defaults (R246, R250–R253, R281, R282) -/

/-- The queue-tree sections of an image. -/
def treeSecs (l : List SecS) : List (List Byte) := (l.filter (fun x => x.kind == 9)).map (·.bytes)

/-- Entry `i` of a tree is well formed. -/
def nodeOk (ns : List NodeS) (nq i : Nat) : Bool :=
  match ns[i]? with
  | some n =>
    (n.level == 1 || n.tc == 0) && (n.level == 3) == decide (ns.length - nq ≤ i) &&
    (match ns[i + 1]? with
      | some m => decide (n.level ≤ m.level)
      | none => true) &&
    (n.level == 0 || (match ns[n.parent]? with
      | some m => m.level + 1 == n.level
      | none => false)) &&
    (n.level != 3 || decide (n.f14 ≤ 1000000))
  | none => false

def treeOk (l : List SecS) (inst : Nat) (b : List Byte) : Bool :=
  let h := treeHdrOf b
  let ns := nodesOf b 0
  decide (17 ≤ h.nodeCount) && decide (h.nodeCount ≤ 2097152 + 136) && decide (0x20 + 32 * h.nodeCount ≤ b.length) &&
  fieldLe b 0 2 == inst && decide (1 ≤ h.qcount) && decide (h.qbase + h.qcount ≤ 2 ^ 21) &&
  decide (h.qcount ≤ h.nodeCount) &&
  h.egrPos % 8 == 0 && decide (256 ≤ h.egrPos) && decide (h.egrPos ≤ 896) && h.replPos % 8 == 0 &&
  decide (256 ≤ h.replPos) && decide (h.replPos ≤ 1008) &&
  (List.range ns.length).all (nodeOk ns h.qcount) &&
  (pmPorts l inst).all (fun p =>
    ((ns.filter (fun n => n.level == 0 && n.f10 % 1024 == p)).length == 1) &&
    (List.range 16).all (fun t => ((List.range ns.length).filter (fun i =>
      match ns[i]? with
      | some n => n.level == 1 && n.tc == t && listPort ns 4 i == some p
      | none => false)).length == 1)) &&
  (treeSecs l).all (fun x => (treeHdrOf x).egrPos == h.egrPos && (treeHdrOf x).replPos == h.replPos) &&
  disjoint ((treeSecs l).map (fun x => ((treeHdrOf x).qbase, (treeHdrOf x).qcount)))

/-- Reservations of the front-port owners of a quadrant: RSV of each of the port's four owners (R246, R250). -/
def rsvUnits (l : List SecS) (q : Nat) : Nat :=
  (((upFrom (16 * q) 16).flatMap (fun g => nodesOf (secBytes l 9 g) 0)).map (fun n =>
    if n.level = 0 then 4 * n.f14 else 0)).sum

/-- R246, with TAIL_RSV `t`. -/
def ownersFit (l : List SecS) (t q : Nat) : Bool := decide (rsvUnits l q + t ≤ mpPb (secBytes l 2 0) q * 65536)

def shutterOk (l : List SecS) (inst : Nat) (b : List Byte) : Bool :=
  let n := bits (fieldLe b 2 1) 0 4
  let bs := shutterBlocks b n 16
  fieldLe b 0 2 == inst && decide (1 ≤ n) && decide (n ≤ 8) &&
  decide (16 + ((bs.map (fun x => 32 + 8 * x.2.entries.length)).sum) ≤ b.length) &&
  bs.all (fun x => (pmPorts l inst).contains x.1 && listOk x.2) && decide (bs.map (·.1)).Nodup

/-! ### Safety scope, keys, cluster role, policy (R54–R56, R414) -/

/-- A table is in the scope a section declares. -/
def scopeHas (b : List Byte) (t : Nat) : Bool := bit (fieldLe b (0x10 + t / 8) 1) (t % 8)

/-- Bytes of the storage image of a table under a bank assignment (R139). -/
def storageLen (l : List SecS) (d : TblDecl) : Nat :=
  banksOff d + ((quadsOf d).map (fun q => (bkOf l d.num 1 q).length + (bkOf l d.num 2 q).length)).sum * bankImage

/-- A serving group has another serving group of its class, or an idle group, in its quadrant. -/
def drainable (l : List SecS) (e : Nat) : Bool :=
  (List.range 8).any (fun k => let o := 8 * (e / 8) + k; o != e && (pmEng l o == pmEng l e || pmEng l o == 0xFF))

def safetyOk (l : List SecS) (vS : Bool) (b : List Byte) : Bool :=
  let ts := tblsOf l
  b.length == 128 && !(vS && bit (fieldLe b 0 1) 0) &&
  (List.range 256).all (fun t => !scopeHas b t || ts.any (fun d => d.num == t)) &&
  ts.all (fun d => !scopeHas b d.num || (decide (1 ≤ d.conMs) && decide (d.conMs ≤ 8))) &&
  fieldLe b 4 4 != fieldLe b 8 4 && decide (1 ≤ fieldLe b 2 1 % 16) && decide (fieldLe b 2 1 % 16 ≤ 8) &&
  decide ((((ts.filter (fun d => scopeHas b d.num)).map (storageLen l)).sum) + 2 * 2 ^ 20 ≤ 24 * 2 ^ 20) &&
  (!vS || (List.range 32).all (fun e => pmEng l e == 0xFF || drainable l e))

def keysOk (b : List Byte) : Bool :=
  let n := fieldLe b 0 1
  decide (n ≤ 32) && decide (8 + 2704 * n ≤ b.length) &&
  decide ((List.range n).map (fun i => fieldLe b (8 + 2704 * i) 2)).Nodup &&
  (List.range n).all (fun i => Config.onCurve (slice b (8 + 2704 * i + 8) 97))

def clusterOk (l : List SecS) (b : List Byte) : Bool :=
  let n := fieldLe b 6 1
  b.length == 40 && decide (fieldLe b 0 1 ≤ 2) && decide (n ≤ 8) && !(fieldLe b 0 1 == 0 && n != 0) &&
  !(fieldLe b 0 1 == 2 && fieldLe b 1 1 % 64 == fieldLe b 3 1 % 64) &&
  (List.range n).all (fun i =>
    (portDecls (secBytes l 1 0)).any (fun d => d.port == fieldLe b (8 + 2 * i) 2 && d.bolvis))

def policyOk (b : List Byte) : Bool :=
  b.length == 40 && decide (fieldLe b 0 1 ≤ 2) && decide (fieldLe b 1 1 ≤ 2) && decide (fieldLe b 4 4 ≤ 4000000) &&
  fieldLe b 8 16 == 0

/-! ### The checks in their order (R62–R65) -/

/-- A section's content is valid within the sections `l`; `tailRsv`: TAIL_RSV of a quadrant (R246), `vS`: the part is
an SK10240-S (R3). -/
def contentOk (l : List SecS) (tailRsv : Nat → Nat) (vS : Bool) (x : SecS) : Bool :=
  let g := secBytes l 3 0
  let rs := secBytes l 0xE 0
  match x.kind with
  | 1 => portMapOk x.bytes
  | 2 => memoryOk x.bytes
  | 3 => parserOk x.bytes
  | 4 => stagesOk g rs x.bytes && !Config.egressOver x.bytes
  | 5 => tablesOk l x.bytes
  | 6 => banksOk l x.bytes
  | 7 => flowLayoutOk g x.bytes
  | 8 => microcodeOk x.inst x.bytes && kindsOk l
  | 9 => treeOk l x.inst x.bytes && ownersFit l (tailRsv (x.inst / 16)) (x.inst / 16)
  | 10 => shutterOk l x.inst x.bytes
  | 11 => safetyOk l vS x.bytes
  | 12 => keysOk x.bytes
  | 13 => clusterOk l x.bytes
  | 14 => policyOk x.bytes
  | _ => true

/-- A section exceeds a limit of R42, R117 or R296; `u`: MiB of a stack's space. -/
def overLimit (l : List SecS) (u : Nat → Nat) (x : SecS) : Bool :=
  match x.kind with
  | 2 => (List.range 4).any (fun q => decide (32 < mpPool1 x.bytes q) || decide (u q < regionsMib x.bytes q 7)) ||
      decide (128 < ((List.range 4).map (mpPool1 x.bytes)).sum)
  | 3 => decide (256 < fieldLe x.bytes 0 2)
  | 4 => decide (24 < fieldLe x.bytes 0 1) || (List.range 4).any (storeOver l)
  | 5 => decide (16384 < fieldLe x.bytes 2 2) || decide (256 < fieldLe x.bytes 4 2) || decide (472 < fieldLe x.bytes 6 2) ||
      (List.range 4).any (storeOver l)
  | 8 => decide (16384 < fieldLe x.bytes 0 2)
  | 9 => (List.range 4).any (storeOver l)
  | _ => false

/-- Index in the section table of a section. -/
def secIndex (b : List Byte) (x : SecS) : Nat :=
  ((secTable b).findIdx? (fun e => e.len != 0 && e.kind == x.kind && e.inst == x.inst)).getD 0xFFFF

/-- The first section, in kind order, that fails a check. -/
def firstBad (b : List Byte) (l : List SecS) (ok : SecS → Bool) : Option Nat :=
  ((upFrom 1 14).findSome? (fun k => l.find? (fun x => x.kind == k && !ok x))).map (secIndex b)

/-- What the checks of an image end in: a refusal's DETAIL and SECTION, or its sections. -/
abbrev CheckRes := Except (Nat × Nat) (List SecS)

/-- A refusal without a section. -/
def failWith (d : Nat) : CheckRes := .error (d, 0xFFFF)

/-- The checks of every image up to 0x09 (R62). -/
def checkFront (s : State) (b : List Byte) (hurt : List Nat) : Option (Nat × Nat) :=
  if fieldLe b 0 4 ≠ 0x53494B53 then some (1, 0xFFFF)
  else if imFormat b / 256 ≠ 1 ∨ fieldLe b 6 2 ≠ 128 then some (2, 0xFFFF)
  else if !layoutOk b then some (3, 0xFFFF)
  else match badCrc b hurt with
    | some i => some (0x13, i)
    | none => (imChain s b).map (fun d => (d, 0xFFFF))

/-- The first section with ENC = 1 in an image whose header has ENCRYPTED = 0. The loader otherwise ignores an entry
of a reserved kind (R51) and takes an empty one as absent (R49). -/
def badEnc (b : List Byte) : Option Nat :=
  if imEncrypted b then none
  else (List.range (imSecs b)).find? (fun i =>
    match (secTable b)[i]? with
    | some e => e.enc && e.len != 0 && decide (1 ≤ e.kind) && decide (e.kind ≤ 14)
    | none => false)

/-- TAIL_RSV of a quadrant (R246). -/
def tailRsvOf (s : State) (q : Nat) : Nat := rd s (R.celCfgTailRsv q)

/-- The variant bit of the part is set (R46). -/
def variantOk (s : State) (b : List Byte) : Bool := bit (imVariants b) (rd s R.idPartVariant)

/-- Four stacks of one supported capacity (R293, R294). -/
def stacksOk (s : State) : Bool :=
  (List.range 4).all (fun st => rdB s (R.hbmIdPresent st) && rd s (R.hbmStatInitErr st) == 0) &&
  (List.range 4).all (fun st => rd s (R.hbmIdPcMib st) == rd s (R.hbmIdPcMib 0))

/-- MiB of a stack's logical space. -/
def stackMib (s : State) (st : Nat) : Nat := hbmU s st / 2 ^ 20

/-- The checks of a full load before decryption, in the order of R62. -/
def fullFront (s : State) (b : List Byte) (hurt : List Nat) : Option (Nat × Nat) :=
  match checkFront s b hurt with
  | some e => some e
  | none =>
    if 64 < imRollback b then some (0x0B, 0xFFFF)
    else if imRollback b < rd s R.imgFuseRollbackFuses then some (0x0A, 0xFFFF)
    else if imKind b ≠ 0 then some (0x0F, 0xFFFF)
    else if !variantOk s b then some (0x0D, 0xFFFF)
    else match badEnc b with
      | some i => some (0x0F, i)
      | none => if imEncrypted b && s.fuse.imageKey.isNone then some (0x0C, 0xFFFF) else none

/-- The checks of a full load after decryption. -/
def fullRest (s : State) (b : List Byte) : CheckRes :=
  let l := imSections s b
  match placesFail b l with
  | some i => .error (0x0E, i)
  | none =>
    if !fullPresent l then failWith 0x0E
    else match firstBad b l (contentOk l (tailRsvOf s) (isS s)) with
      | some i => .error (0x0F, i)
      | none =>
        if !stacksOk s then failWith 0x10
        else match firstBad b l (fun x => !overLimit l (stackMib s) x) with
          | some i => .error (0x10, i)
          | none => .ok l

/-- The checks of a full load, in the order of R62. -/
def checkFull (s : State) (b : List Byte) (hurt : List Nat) : CheckRes :=
  match fullFront s b hurt with
  | some e => .error e
  | none => fullRest s b

/-- STATUS of a load error code (R64). -/
def detailStatus (d : Nat) : Status :=
  if 4 ≤ d ∧ d ≤ 9 then .refusedUnauthenticated
  else if d = 0x0A ∨ d = 0x0B ∨ d = 0x11 ∨ d = 0x14 then .versionConflict
  else .invalid

/-! ### Partial images (R65, R253, R407, R500) -/

/-- The running sections with those of a partial image in their place. -/
def mergedSecs (s : State) (b : List Byte) (l : List SecS) : List SecS :=
  let r := (regionMap b).map (·.1)
  s.img.running.filter (fun x => !r.contains x.region) ++ l

/-- A queue tree changes nothing that R253 forbids it to change. -/
def treeKeeps (s : State) (x : SecS) : Bool :=
  let o := sec s 9 x.inst
  let h := treeHdrOf x.bytes
  let k := treeHdrOf o
  let ports := fun b => ((nodesOf b 0).filter (fun n => n.level == 0)).map (fun n => n.f10 % 1024)
  h.qbase == k.qbase && h.qcount == k.qcount && h.egrPos == k.egrPos && h.replPos == k.replPos &&
  (ports x.bytes).all (fun p => (ports o).contains p) && (ports o).all (fun p => (ports x.bytes).contains p)

/-- A group of an engine class in a quadrant can be drained: another serving group of the class, or an idle one. -/
def groupsDrain (s : State) (cls : Nat) : Bool :=
  (List.range 32).all (fun g =>
    rd s (R.engUcodeVerClass (grpQuad g) (grpIdx g)) != cls || grpState s g != 1 || hasSibling s g ||
    (List.range 8).any (fun k => grpState s (grpOf (grpQuad g) k) == 0))

/-- The sequencer reaches every serving pipe of a class, or of every class (R407). -/
def pipesReach (s : State) (cls : Option Nat) : Bool :=
  (List.range 4).all (fun q =>
    !(List.range 9).any (fun p => pipeServes s (9 * q + p) && (cls.isNone || cls == some (progOf s q p).cls)) ||
    (rd s (R.modSpareRetired q) == 0 && !quadParked s q))

/-- The lists of a Shutter region meet no refusal of GATE_SET (R500). -/
def shutterFits (s : State) (g : Nat) (b : List Byte) : Bool :=
  (groupPorts s g).all (fun p => (listRefusal s p (listFor b p)).isNone)

/-- A section of a partial image is valid on the running device. -/
def partialOk (s : State) (l : List SecS) (x : SecS) : Bool :=
  contentOk l (tailRsvOf s) (isS s) x &&
  (match x.kind with
    | 3 => (stageSecs l).all (fun y => stagesOk x.bytes (secBytes l 0xE 0) y.2) &&
        flowLayoutOk x.bytes (secBytes l 7 0) && pipesReach s none
    | 4 => stagesTblOk l (x.inst, x.bytes) && stagesBankOk l (x.inst, x.bytes) && kindsOk l &&
        pipesReach s (some x.inst)
    | 8 => groupsDrain s x.inst
    | 9 => treeKeeps s x && lportsOk l
    | 10 => shutterFits s x.inst x.bytes
    | _ => true)

/-- A region listed without a Shutter section (R495) fits too. -/
def emptyShutterFits (s : State) (b : List Byte) (l : List SecS) : Bool :=
  ((regionMap b).map (·.1)).all (fun r => decide (r < 128) || hasSec l 10 (r - 128) || shutterFits s (r - 128) [])

/-- Region `n` may be loaded partially, with a version not below the live one (R50, R65). -/
def partRegionOk (s : State) (e : Nat × Nat) : Bool :=
  e.1 != 0 && decide (rd s (R.imgRegionVerVer e.1) ≤ e.2)

/-- The checks of R65 before decryption, in their order. -/
def partFront (s : State) (b : List Byte) : Option (Nat × Nat) :=
  match checkFront s b [] with
  | some e => some e
  | none =>
    if imLineage b ≠ rd s R.imgLineageLineage then some (0x14, 0xFFFF)
    else if imBase b ≠ rd s R.imgImageVerImageVer then some (0x11, 0xFFFF)
    else if imRollback b ≠ rd s R.imgImageVerRollback then some (0x0A, 0xFFFF)
    else if imKind b ≠ 1 then some (0x0F, 0xFFFF)
    else if !variantOk s b then some (0x0D, 0xFFFF)
    else match placesFail b (imSections s b) with
      | some i => some (0x0E, i)
      | none =>
        if !(regionMap b).all (partRegionOk s) then some (0x12, 0xFFFF)
        else match badEnc b with
          | some i => some (0x0F, i)
          | none => if imEncrypted b && s.fuse.imageKey.isNone then some (0x0C, 0xFFFF) else none

/-- The checks of R65 after decryption. -/
def partRest (s : State) (b : List Byte) : CheckRes :=
  let l := imSections s b
  let m := mergedSecs s b l
  match firstBad b l (partialOk s m) with
  | some i => .error (0x0F, i)
  | none =>
    if !emptyShutterFits s b l then failWith 0x0F
    else match firstBad b l (fun x => !overLimit m (stackMib s) x) with
      | some i => .error (0x10, i)
      | none => .ok l

/-- The checks of R65, in their order. -/
def checkPartial (s : State) (b : List Byte) : CheckRes :=
  match partFront s b with
  | some e => .error e
  | none => partRest s b

end Sys2Proof.Machine
end

