-- ==== Sys2Proof/Machine/LoadOps.lean ====
section
/-!
DEFINITION. Refusing and applying a full image, and accepting a partial one (R25, R61–R66, R117, R222, R294, R295,
R390, R403).
-/

namespace Sys2Proof.Machine

open Sys2Proof

/-! ### Refusals (R61, R64) -/

/-- The key-encryption key and the content key of an encrypted image enter slots 3 and 2 (R59, R351). -/
def placeImageKeys (s : State) (b : List Byte) : State :=
  if imEncrypted b then placeKey (placeKey s 3 (imKek s b) 4 0 false) 2 (imKey s b) 2 0 false else s

/-- An image whose checks reach decryption fills its key slots, also where a later check refuses it (R59). -/
def reachKeys (s : State) (b : List Byte) (front : Option (Nat × Nat)) : State :=
  if front.isNone then placeImageKeys s b else s

/-- IMG_STAT and the journal record of a refusal (R64). -/
def imageRefused (s : State) (b : List Byte) (part : Bool) (d sect : Nat) : State :=
  let s := wrs s [(R.imgStatPhase, 6), (R.imgStatDetail, d), (R.imgStatSection, sect), (R.imgStatPartial, b2n part)]
  let s := wrStat s R.imgStatStatus (detailStatus d)
  eraseContentKey (journal s 0x0010 2 d (.code (detailStatus d)) sect (imVer b))

/-- A refused full load: the other slot once if FALLBACK_EN is set, else the device stays in LOAD and releases its
QSPI pins after its record is committed. -/
def loadRefused (s : State) (b : List Byte) (d sect : Nat) : State :=
  let seq := rd s R.jnlStatSeq
  let s := imageRefused s b false d sect
  if rdB s R.imgBootFallbackEn ∧ !s.img.fellBack then
    wr { s with img := { s.img with loadSlot := 1 - s.img.loadSlot, fellBack := true } } R.imgStatPhase 1
  else qspiRelease { s with img := { s.img with qspiAfter := some seq } }

/-- The image a full load reads. -/
def slotImage (s : State) (slot : Nat) : List Byte := if slot = 0 then s.img.slot0 else s.img.slot1

/-! ### Stack identities (R293, R294) -/

/-- MiB of a pseudo-channel of an option; none: unsupported. -/
def pcMibOf (i : StackId) : Option Nat :=
  match i.height, i.density with
  | 0, 0 => some 576
  | 0, 1 => some 768
  | 1, 0 => some 768
  | 1, 1 => some 1024
  | _, _ => none

/-- HBM_ID and INIT_ERR of stack `st` as its test port gives them. -/
def identify (ids : List StackId) (s : State) (st : Nat) : State :=
  let i := ids.getD st ⟨false, 0, 0, 0⟩
  let m := (pcMibOf i).getD 0
  let first := ((ids.getD 0 ⟨false, 0, 0, 0⟩))
  let err := if !i.present then 1 else if m = 0 then 2 else if pcMibOf i ≠ pcMibOf first then 3 else 0
  let s := wrs s [(R.hbmIdPresent st, b2n i.present), (R.hbmIdHeight st, i.height), (R.hbmIdDensity st, i.density),
    (R.hbmIdRating st, min 2 i.rating), (R.hbmIdPcMib st, if i.present then m else 0), (R.hbmStatInitErr st, err)]
  if rd s (R.hbmStatState st) = 0 then wr s (R.hbmStatState st) 1 else s

/-! ### Application (R25, R63) -/

/-- Region versions by region. -/
def verOf (b : List Byte) (r : Nat) : Nat := (((regionMap b).find? (fun e => e.1 == r)).map (·.2)).getD 0

/-- Ports, crossbar and programs of a quadrant. -/
def applyQuad (b : List Byte) (l : List SecS) (s : State) (q : Nat) : State :=
  let s := (List.range 16).foldl (fun s n =>
    wr s (R.modXbarPg q n) (if pmPorts l (16 * q + n) = [] then 15 else n / 2)) s
  let put := fun (s : State) (t cls : Nat) =>
    loadProg s q t ⟨secBytes l 3 0, secBytes l 4 cls, cls⟩ (verOf b (2 + cls)) (verOf b 1)
  let s := (List.range 8).foldl (fun s p => put s p (pmPipe l (8 * q + p))) s
  match (List.range 8).find? (fun p => pipeServes s (9 * q + p)) with
  | some p => put s 8 (pmPipe l (8 * q + p))
  | none => s

/-- Registers a declared front port takes from the image. -/
def applyPort (s : State) (d : PortDecl) : State :=
  let s := wr s (R.macFrameMaxMax (d.port / 128) (d.port % 128)) d.frameMax
  setGates s d.port (idleGates s d.port)

/-- The lanes of a declared port (R21). -/
def laneOf (d : PortDecl) (n : Nat) : Bool :=
  decide (d.port ≤ n) && decide (n < d.port + lanesOf d.speed)

/-- A lane of no declared port is powered down (R21). -/
def applyLanes (ds : List PortDecl) (s : State) : State :=
  ((List.range 512).filter (fun n => !ds.any (fun d => laneOf d n))).foldl (fun s n => wr s (R.pwrPortState n) 0) s

/-- A declared table's initial registers (R116, R143). -/
def applyTable (s : State) (d : TblDecl) : State :=
  wrs s [(R.conTblPeriodMs d.num, d.conMs), (R.fwdTblAgeAgeMs d.num, d.ageMs)]

/-- Care-mask banks of a quadrant (R103). -/
def applyBanks (l : List SecS) (s : State) (q : Nat) : State :=
  let s := wr s (R.cmsCfgHoleInterval q) (fieldLe (secBytes l 6 0) 0 1)
  (List.range 32).foldl (fun s i =>
    let e := 32 * q + i
    wrs s [(R.cmsBankTable q i, bkTable l e), (R.cmsBankWidth q i, bkWidth l e), (R.cmsBankRole q i, bkRole l e)]) s

/-- Flow-table registers of a quadrant (R33, R53, R154). -/
def applyFlow (l : List SecS) (s : State) (q : Nat) : State :=
  let b := secBytes l 7 0
  let m := secBytes l 2 0
  let s := wrs s [(R.fltCfgFlowLog2 q, fieldLe m 0 1), (R.fltCfgKickDepth q, fieldLe b 6 1), (R.fltCfgLayout q, fieldLe b 0 1),
    (R.fltCfgInner q, fieldLe b 1 1 % 2), (R.fltSeedASeedq q, fieldLe b 8 4), (R.fltSeedASeed0 q, fieldLe b 12 4),
    (R.fltSeedBSeed1 q, fieldLe b 16 4), (R.fltSeedBSeed2 q, fieldLe b 20 4), (R.fltBudgetMissGbps q, fieldLe b 0x1A 2),
    (R.fltBudgetSetupMps q, fieldLe b 0x1C 2), (R.fltSetupCfgLimitUs q, fieldLe b 7 1),
    (R.fltPinStatPinLimit q, min 262144 (mpFc m q * 131072 / 4)), (R.fltAgeCfgPeriodS q, fieldLe b 0x18 2)]
  (List.range 16).foldl (fun s st => wr s (R.fltTimeoutTicks q st) (fieldLe b (0x20 + 4 * st) 4)) s

/-- Pools and owners of a quadrant (R31, R245, R246, R296). -/
def applyPools (l : List SecS) (s : State) (q : Nat) : State :=
  let m := secBytes l 2 0
  let s := setFree (setFree s 0 q (mpPb m q * 65536)) 1 q (mpPool1 m q * 2 ^ 20)
  let others := (ownersOf q).filter (fun o => decide (2048 ≤ o))
  let s := others.foldl (fun s o => wrs s [(R.celOwnerRsv q o, 0), (R.celOwnerMax q o, 16384)]) s
  ((upFrom (16 * q) 16).flatMap (fun g => nodesOf (secBytes l 9 g) 0)).foldl (fun s n =>
    if n.level = 0 ∧ n.f10 % 1024 < 512 then
      (List.range 4).foldl (fun s c =>
        wrs s [(R.celOwnerRsv q (4 * (n.f10 % 1024) + c), n.f14), (R.celOwnerMax q (4 * (n.f10 % 1024) + c), n.f18)]) s
    else s) s

/-- The queue tree of port group `g` (R250). -/
def applyTree (l : List SecS) (s : State) (g : Nat) : State :=
  let b := secBytes l 9 g
  if b = [] then s
  else
    let h := treeHdrOf b
    wrs (putTree s g h (nodesOf b (nowNs s))) [(R.quePgQbase (g / 16) (g % 16), h.qbase), (R.quePgQcount (g / 16) (g % 16), h.qcount)]

/-- Engine group `g` (R52, R222, R228). -/
def applyGroup (l : List SecS) (s : State) (g : Nat) : State :=
  let few := decide (((List.range 32).filter (fun e => pmEng l e != 0xFF)).length ≤ 8)
  let s := wr s (R.engGrpStatAffinity (grpQuad g) (grpIdx g)) (b2n few)
  let cls := pmEng l g
  if cls = 0xFF then setGrpState s g 0 else serveGroup (loadStore s g cls (secBytes l 8 cls)) g

/-- Initial training of a stack starts (R311). -/
def startTraining (s : State) (st : Nat) : State :=
  let s := wr s (R.hbmStatState st) 2
  syncRoles { s with hbm := { s.hbm with initial := s.hbm.initial.filter (· != st) ++ [st] } } st

/-- The stack's map (R295), its pin rate (R293) and its training (R311). -/
def applyStack (l : List SecS) (s : State) (st : Nat) : State :=
  let m := secBytes l 2 0
  let u := stackMib s st
  let s := (List.range 8).foldl (fun s r =>
    let base := regionsMib m st r
    wrs s [(R.hbmMapBaseMib st r, base), (R.hbmMapSizeMib st r, if r = 7 then u - base else regionMib m st r)]) s
  startTraining (setPinRate s st 2 (rd s (R.hbmIdRating st))) st

/-- CLU_STAT of a device that is not standalone (R367, R368). -/
def applyCluster (s : State) (b : List Byte) : State :=
  let r := fieldLe b 0 1
  if r = 0 then s
  else
    let id := fieldLe b 1 1 % 64
    wrs s [(R.cluStatRole, r), (R.cluStatActing, r), (R.cluStatDeviceId, id), (R.cluStatClusterId, fieldLe b 2 1 % 16),
      (R.cluStatDeputyId, fieldLe b 3 1 % 64), (R.cluStatDirectorId, if r = 1 then id else 0)]

/-- The safety scope (R3, R413, R427): a load with ROT_OFF is journalled. -/
def applySafety (s : State) (b : List Byte) : State :=
  let off := bit (fieldLe b 0 1) 0
  let s := wrs s [(R.safCfgBeSafe, fieldLe b 1 1 % 2), (R.conTblPeriodMs 256, fieldLe b 2 1 % 16),
    (R.modRotEn, if off then 0 else 15), (R.safStatDiagOff, b2n off)]
  if off then journal s 0x0046 1 0 (.num 0) 0 0 else s

/-- BST_ENG.UNTESTED: serving groups that no sibling and no idle group relieves (R414). -/
def applyUntested (l : List SecS) (s : State) (q : Nat) : State :=
  wr s (R.bstEngUntested q) ((List.range 8).foldl (fun m k =>
    if pmEng l (8 * q + k) ≠ 0xFF ∧ !drainable l (8 * q + k) then setBit m k else m) 0)

/-- The image's own registers (R46, R50, R64). -/
def applyHeader (s : State) (b : List Byte) : State :=
  let s := wrs s [(R.imgStatPhase, 5), (R.imgStatDetail, 0), (R.imgStatSection, 0xFFFF), (R.imgStatSlot, s.img.loadSlot),
    (R.imgStatPartial, 0), (R.imgImageVerImageVer, imVer b), (R.imgImageVerRollback, imRollback b),
    (R.imgImageVerFormatVer, imFormat b), (R.imgLineageLineage, imLineage b)]
  let s := wrStat s R.imgStatStatus .ok
  (regionMap b).foldl (fun s e => wrs s [(R.imgRegionVerVer e.1, e.2), (R.imgRegionVerPresent e.1, 1)]) s

/-- All sections are applied (R62, R63). -/
def applyImage (s : State) (b : List Byte) : State :=
  let l := imSections s b
  let s := applyHeader { s with img := { s.img with running := l, staged := none } } b
  let s := (portDecls (secBytes l 1 0)).foldl applyPort (applyLanes (portDecls (secBytes l 1 0)) s)
  let s := (List.range 4).foldl (applyQuad b l) s
  let s := (tblDecls (secBytes l 5 0)).foldl applyTable s
  let s := (List.range 4).foldl (applyBanks l) s
  let s := (List.range 4).foldl (applyFlow l) s
  let s := (List.range 4).foldl (applyPools l) s
  let s := (List.range 64).foldl (applyTree l) s
  let s := (List.range 32).foldl (applyGroup l) s
  let s := (List.range 4).foldl (applyUntested l) s
  let s := applyCluster s (secBytes l 0xD 0)
  let s := applySafety s (secBytes l 0xB 0)
  eraseContentKey ((List.range 4).foldl syncNext s)

/-- The image's gate lists are written (R282, R390, R495). -/
def writeLists (s : State) : State :=
  ((List.range 64).flatMap (fun g => shutterLists (sec s 0xA g))).foldl (fun s e => installList s e.1 e.2) s

/-! ### Entering TEST (R390, R438) -/

/-- The device enters TEST: stacks train, the hold-up pulse starts, and every check is still to come. -/
def enterTest (s : State) (v0 : Nat) : State :=
  let l := s.img.running
  let s := (List.range 4).foldl (applyStack l) s
  let s := { s with mod := { s.mod with trained := [], cleared := [], holdup := none, failed := [], tested := false }
                    saf := { s.saf with v0 := v0, holdupTest := true } }
  let s := emit (wr s R.safHoldupV0Mv v0) (.pin "HOLDUP_TEST" true)
  writeLists (setMode s .test)

/-! ### Partial images (R62, R65, R403) -/

/-- An accepted partial image: its regions wait in ascending order, and the splice begins. -/
def acceptPartial (s : State) (b : List Byte) (l : List SecS) : State :=
  let s := placeImageKeys s b
  let todo := (regionMap b).mergeSort (fun x y => decide (x.1 ≤ y.1))
  let s := wrs s [(R.imgStatPhase, 4), (R.imgStatDetail, 0), (R.imgStatSection, 0xFFFF), (R.imgStatPartial, 1)]
  let s := wrStat s R.imgStatStatus .ok
  let s := todo.foldl (fun s e => wr s (R.imgRegionVerPending e.1) 1) s
  let s := { s with img := { s.img with part := some ⟨l, todo⟩ } }
  startRegion 256 (setMode s .splice)

end Sys2Proof.Machine
end

