-- ==== Sys2Proof/Machine/ResetOps.lean ====
section
/-!
DEFINITION. Shared operations of the resets (R17, R37, R393–R398, R402, R408, R484): what each reset class restores,
the whole-device reset, the boot record, the check of a firmware image, and the start of firmware.
-/

namespace Sys2Proof.Machine

open Sys2Proof

/-! ### Register fields (R17) -/

/-- The field with a key, and its register's home address. -/
def descOf (k : Nat) : Option (FieldDesc × Nat) :=
  match regAt (k / 64) with
  | some (d, home) => (d.fields.find? (fun f => f.lo == k % 64)).map (fun f => (f, home))
  | none => none

/-- A whole-device reset class. -/
def wholeDevice (c : RClass) : Bool := c == .P || c == .C || c == .W

/-- A reset of class `c` restores a field; a live field without a class starts anew with the device. A domain
reset keeps the domain's programs (R237, R397), and so the fields that show them; `resetGroup` loads the flag masks
again. -/
def restores (c : RClass) (f : FieldDesc) : Bool :=
  (f.cls.contains c && !(c == .D && f.src == .image)) || (f.cls == [] && f.src != .fuse && wholeDevice c)

/-- The field with key `k` keeps its value under class `c`. -/
def keepsKey (c : RClass) (k : Nat) : Bool :=
  match descOf k with
  | some (f, _) => !restores c f
  | none => false

/-- Fields of class `c` whose keys are in a range are restored to their reset values. -/
def restoreRegs (c : RClass) (inRange : Nat → Bool) (s : State) : State :=
  { s with regs := s.regs.filter (fun e => !inRange (e.1 / 64) || keepsKey c e.1)
           stats := s.stats.filter (fun e => !inRange (e.1 / 64) || keepsKey c e.1) }

/-- Fields marked flash take what the boot flash holds. -/
def reloadFlash (c : RClass) (s : State) : State :=
  s.flashRegs.foldl (fun s e =>
    match descOf e.1 with
    | some (f, home) => if f.src == .flash && f.cls.contains c then wr s (fieldOf home f) e.2 else s
    | none => s) s

/-! ### The boot record (R484) -/

/-- The valid copy whose SEQ is newer. -/
def newestBoot (i : ImgS) : Option BootRecS :=
  match i.bootA, i.bootB with
  | some a, some b => some (if serialNewer 32 b.seq a.seq then b else a)
  | some a, none => some a
  | none, b => b

/-- A boot record as the registers' flash copies give it; none: slot A, image slot 0, no fallback. -/
def loadBoot (s : State) : State :=
  let b := (newestBoot s.img).getD ⟨0, 0, 0, false⟩
  let m := mset (mset s.flashRegs (fkey R.modFwSlotNext) b.fwSlot) (fkey R.imgBootSlot) b.imgSlot
  { s with flashRegs := mset m (fkey R.imgBootFallbackEn) (b2n b.fallback) }

/-- Firmware rewrites the boot record: the older copy takes SEQ = newest + 1. -/
def writeBoot (s : State) (fw slot : Nat) (fb : Bool) : State :=
  let n := (newestBoot s.img).map (·.seq)
  let r : BootRecS := ⟨((n.getD 0) + (if n.isSome then 1 else 0)) % 2 ^ 32, fw, slot, fb⟩
  let oldA := match s.img.bootA, s.img.bootB with
    | some a, some b => serialNewer 32 b.seq a.seq
    | some _, none => false
    | none, _ => true
  let s := { s with img := (if oldA then { s.img with bootA := some r } else { s.img with bootB := some r }) }
  wrFlash (wrFlash (wrFlash s R.modFwSlotNext fw) R.imgBootSlot slot) R.imgBootFallbackEn (b2n fb)

/-! ### Whole-device resets (R394–R396, R402) -/

/-- Migrations that a warm reset cuts: the source serves again and the destination is a spare (log 21). -/
def cutMigrations (s : State) : State :=
  s.hbm.mig.foldl (fun s e => holdRole (holdRole s e.1 e.2.src 0 e.2.logical) e.1 e.2.dst 1 0x3F) s

/-- An address of a stack lies in the stores of chapter 7: rings, services and backends, pools and subscribers (regions
1–3 of R295), which every device reset loses (R203). -/
def inSvcStores (s : State) (k : Nat) : Bool :=
  let st := k / 2 ^ 40
  decide (hbmBase s st 1 ≤ k % 2 ^ 40) && decide (k % 2 ^ 40 < hbmBase s st 4)

/-- HBM under a warm reset: contents, marks and roles stay but for the stores of chapter 7, and the stacks hold
self-refresh (R203, R318, R396). -/
def keepStacks (old : State) (s : State) : State :=
  let keep := fun k => !inSvcStores old k
  let s := { s with hbm := { HbmS.reset with
    mem := old.hbm.mem.filter (fun e => keep e.1), poison := old.hbm.poison.filter keep, lost := old.hbm.lost } }
  (List.range 4).foldl (fun s st =>
    let v := rd old (R.hbmStatState st)
    syncRoles (if 2 ≤ v ∧ v ≤ 5 then wr s (R.hbmStatState st) 4 else s) st) s

/-- The outputs that a reset puts to rest (R477). -/
def restPins (old : State) (s : State) : State :=
  let s := if old.saf.holdupTest then emit s (.pin "HOLDUP_TEST" false) else s
  let s := if old.tim.ppsHigh then emit s (.pin "PPS_OUT" false) else s
  if old.host.wakeN then emit s (.pin "WAKE_N" true) else s

/-- Every register field and every item of state behaves as its reset class and R402 give under class `c`: what
lies in flash, in fuses or outside the domains stays. SAF_FAULT bits 1 and 17 survive a warm reset (R416). -/
def deviceReset (c : RClass) (old : State) : State :=
  let s := if c == .W then cutMigrations old else old
  let s := reloadFlash c (restoreRegs c (fun _ => true) s)
  let s := { s with
    host := { HostS.reset with refclk := old.host.refclk }
    saf := { SafeS.reset with
      standing := if c == .W then old.saf.standing.filter (fun e => e.1 == 1 || e.1 == 17) else []
      pfwN := old.saf.pfwN
      boardRecord := old.saf.boardRecord
      jFlash := old.saf.jFlash
      jMirror := if c == .W then old.saf.jMirror else [] }
    ctr := { CtrS.reset with jtag := old.ctr.jtag, preload := old.ctr.preload }
    cel := .reset
    tim := .reset
    img := { ImgS.reset with slot0 := old.img.slot0, slot1 := old.img.slot1, bootA := old.img.bootA, bootB := old.img.bootB }
    mod := { ModS.reset with fwA := old.mod.fwA, fwB := old.mod.fwB, strapFlash := old.mod.strapFlash,
                             strapSmb := old.mod.strapSmb }
    pipe := .reset
    keys := .reset
    take := .reset
    tab := .reset
    hbm := .reset
    flo := .reset
    eng := .reset
    clu := .reset }
  let s := if c == .W then
      wr (keepStacks old s) R.safFaultFault (rd old R.safFaultFault &&& (2 ^ 1 + 2 ^ 17))
    else s
  let s := wrs s [(R.safStatSafeN, rd old R.safStatSafeN), (R.safStatFaultN, rd old R.safStatFaultN)]
  syncPins (restPins old s)

/-- PWR_RST_CAUSE after a reset. -/
def setCause (s : State) (cause : Nat) (frz lost : Bool) : State :=
  wrs s [(R.pwrRstCauseCause, cause), (R.pwrRstCauseFromFreeze, b2n frz), (R.pwrRstCauseTailLost, b2n lost)]

/-- The straps are sampled at t0 of a power-on or cold reset (R481). -/
def sampleStraps (s : State) (flash smb : Nat) : State :=
  { s with mod := { s.mod with strapFlash := flash % 4, strapSmb := smb % 8 } }

/-- What a board programmer left in the flash, if it wrote any (R61, R477, R483). -/
def reprogram (s : State) (f : Option FlashS) : State :=
  match f with
  | some f => { s with
      img := { s.img with slot0 := f.slot0, slot1 := f.slot1, bootA := f.bootA, bootB := f.bootB }
      mod := { s.mod with fwA := f.fwA, fwB := f.fwB }
      saf := { s.saf with boardRecord := f.board } }
  | none => s

/-- A power-on or cold reset (R395). -/
def coldReset (c : RClass) (cause flash smb : Nat) (f : Option FlashS) (s : State) : State :=
  let lost := c == .C && s.saf.jTail != []
  let frz := modeIn s [.freeze]
  let s := deviceReset c (loadBoot (reprogram s f))
  sampleStraps (setCause s cause (c == .C && frz) lost) flash smb

/-- Steps 2–4 of R396: the tail is committed, the stacks hold self-refresh and the domains are reset. After PF_DONE
with PFW_N asserted nothing is committed (R436). -/
def warmCommit (s : State) : State :=
  if rdB s R.jnlStatPfDone && s.saf.pfwN then s else commitTail s (mirrorOn s)

/-- Step 4 of R396. -/
def warmReset (cause : Nat) (frz : Bool) (s : State) : State :=
  setCause (deviceReset .W s) cause frz (s.saf.jTail != [])

/-- Step 1 of R396: traffic stops and frames in flight are discarded. -/
def warmStart (cause : Nat) (s : State) : State :=
  let s := setMode { s with cel := .reset } .reset
  { s with mod := { s.mod with seq := .commit, cause := cause, warmDue := false } }

/-- A warm reset begins; in FREEZE it waits for the journal commit of the freeze (R456). -/
def beginWarm (cause : Nat) (s : State) : State :=
  if modeIn s [.freeze] then
    if s.ctr.frzStep = 7 then warmReset cause true s
    else { s with ctr := { s.ctr with frzWarm := true }, mod := { s.mod with cause := cause } }
  else if s.mod.seq = .running ∨ s.mod.seq = .failed then warmStart cause s
  else s

/-! ### Firmware images (R408) -/

def fwCodeLen (b : List Byte) : Nat := fieldLe b 0x10 4
def fwRelease (b : List Byte) : Nat := fieldLe b 4 4
def fwCompat (b : List Byte) : Nat := fieldLe b 8 4
def fwRollback (b : List Byte) : Nat := fieldLe b 0x0C 2

/-- Offset of the signature block. -/
def fwSig (b : List Byte) : Nat := 64 + cdiv (fwCodeLen b) 64 * 64

/-- The refusal of a firmware image, if any: fields that place its parts, its chain, its ROLLBACK, then its CRC and
the other fields. -/
def fwRefusal (s : State) (b : List Byte) : Option Status :=
  let n := fwCodeLen b
  if fieldLe b 0 4 ≠ 0x57464B53 ∨ n = 0 ∨ 8373696 < n ∨ b.length < fwSig b + 14856 then some .invalid
  else if (chainFails s.fuse (sha (slice b 0 (fwSig b))) (slice b (fwSig b) 14856)).isSome then some .refusedUnauthenticated
  else if fwRollback b < rd s R.imgFuseRollbackFuses ∨ 64 < fwRollback b then some .versionConflict
  else if crc32c 0xFFFFFFFF (slice b 64 n) ≠ fieldLe b 0x14 4 ∨ fieldLe b 0x0E 2 ≠ 0 ∨ leNat (slice b 0x18 40) ≠ 0 ∨
      leNat (slice b (64 + n) (fwSig b - 64 - n)) ≠ 0 then some .invalid
  else none

/-- Firmware slot A or B. -/
def fwImage (s : State) (slot : Nat) : List Byte := if slot = 0 then s.mod.fwA else s.mod.fwB

/-! ### The start of firmware (R395 step 5) -/

/-- TAIL_MAX for `n` bytes that the flash programs in 1.8 ms: the largest multiple of 64, within 4,096–65,536 (R435). -/
def tailMaxOf (n : Nat) : Nat := max 4096 (min 65536 (n / 64 * 64))

/-- The newest record of the flash ring. -/
def newestSeq (l : List JRec) : Option Nat :=
  l.foldl (fun a r => match a with
    | some x => some (if serialNewer 32 r.seq x then r.seq else x)
    | none => some r.seq) none

end Sys2Proof.Machine
end

