-- ==== Sys2Proof/Machine/Rings.lean ====
section
/-!
DEFINITION. Meanings of the packet-ring and event-ring rows (R323–R326). Host memory is outside the block: what
the device reads there is an operand, what it writes there is sent.
-/

namespace Sys2Proof.Machine

open Sys2Proof

/-- R320, R323, R469: the host writes TAIL at PF1's BAR4 offset `off`, the doorbell of packet ring `off` / 0x40. A write
to no doorbell is as R15 states. -/
def execTxRingDoorbell (off tail : Nat) (s : State) : Res := whenLive s <|
  let r := off / 0x40
  let n := ringSize s r
  if off % 0x40 ≠ 0 ∨ 128 ≤ r then .next (hifErr s R.hifErrStatUnmapped)
  else if n = 0 then .next s
  else .next { s with host := { s.host with ringTail := mset s.host.ringTail r (tail % n) } }

/-- The transmit ring that a host port serves next: round robin over its rings that have a frame (R324). -/
def txTurn (s : State) (p : Nat) : Option Nat :=
  let a := mgetD s.host.txNext p 0
  ((List.range 8).map (fun i => 8 * (p - 544) + (a + i) % 8)).find? (fun r => decide (0 < ringPosted s r))

/-- A descriptor is completed: written back, HEAD moves on, PF1's vector of the ring is raised. -/
def completeDesc (s : State) (r : Nat) (desc : List Byte) : State :=
  let h := rd s (R.hifRingCfgHead r)
  let s := emit s (.dma (rd s (R.hifRingBaseAddr r) * 4096 + h * 32) desc)
  raiseVec (wr s (R.hifRingCfgHead r) ((h + 1) % ringSize s r)) 1 r

/-- A receive descriptor breaks its format (R325). -/
def rxDescBad (d : List Byte) : Bool := bits (fieldLe d 8 4) 24 7 != 0 || fieldLe d 12 4 != 0

/-- A transmit descriptor breaks its format. -/
def txDescBad (d : List Byte) : Bool := bits (fieldLe d 8 4) 14 17 != 0 || fieldLe d 14 18 != 0

/-- Count a frame that the host transmit path drops. -/
def hostDrop (s : State) (p n reason : Nat) : State :=
  countDrop (bumpBy (bump s (R.ctrPortCount p 0)) (R.ctrPortCount p 1) (n + 4)) reason p

/-- R324: the device processes the descriptor at transmit ring `r`'s HEAD, `desc`, whose frame in host memory is
`frame`. -/
def execTxDescriptor (r : Nat) (desc frame : List Byte) (s : State) : Res := whenLive s <|
  let p := 544 + r / 8
  if 64 ≤ r ∨ !carries s ∨ bit (rd s R.pwrParkParked) (portQuad p) ∨ txTurn s p ≠ some r then .next s
  else
    let d := slice desc 0 32
    let n := bits (fieldLe d 8 4) 0 14
    let done := putBytes d 8 (toLe 4 (setBit (fieldLe d 8 4) 31))
    let s := { s with host := { s.host with txNext := mset s.host.txNext p ((r + 1) % 8) } }
    let s := completeDesc s r done
    if txDescBad d then .next (hifErr s R.hifErrStatDescErr)
    else if n < 60 then .next (hostDrop s p n 0x02)
    else if 9212 < n then .next (hostDrop s p n 0x03)
    else
      let b := slice frame 0 n
      .next (wholeFrame s p (portQuad p) (4 * p) (b ++ fcsOf b)).2

/-- The record a frame is delivered with: the kept one (R275), or one with VALID = 0: NS from TS_IN, the fields of a
receive record that the format fixes, and SUBNS, ALIGN_PS, ASYM and PORT, which are not known, free (R274). -/
def deliveredTs (s : State) (head : Nat) : List Byte × State :=
  match mget s.tim.rxStore head with
  | some t => (tsBytes t, s)
  | none =>
    let a := freeVal s 47
    let ts := ((mget s.cel.frames head).map (·.tsIn)).getD 0
    (tsBytes ⟨ts, bits a.1 0 16, 0, bits a.1 16 20, 0, bit a.1 36, false, bits a.1 37 10⟩, a.2)

/-- A copy is written into a receive buffer at `addr`, with its descriptor (R325). -/
def deliver (s : State) (p cp : Nat) (c : CopyS) (f : FrameS) (addr : Nat) (out : Option (List Byte)) : State :=
  let r := rxRing s p c.queue
  let b := sendBody s c out 0 0 0
  let t := deliveredTs s c.head
  let s := emit t.2 (.dma addr b)
  let s := completeDesc s r (toLe 8 addr ++ toLe 4 (b.length % 2 ^ 14 + f.inPort % 1024 * 2 ^ 14 + 2 ^ 31) ++ toLe 4 0 ++ t.1)
  sentCopy s cp c (b.length + 4)

/-- R325: the copy that host port `p` sends is written into the buffer of `desc`, the descriptor at its receive ring's
HEAD; a descriptor that breaks its format is completed, and the copy waits for the next (R323). `fault` and `out` are
as in the egress of any port; a copy with a fault or of an aborted frame is dropped, since no part of it is delivered
before its end. -/
def execRxFrameWrite (p fault : Nat) (desc : List Byte) (out : Option (List Byte)) (s : State) : Res :=
  whenLive s <| settle s <|
  match (mget s.cel.tx p).bind (fun cp => (mget s.cel.copies cp).map (fun c => (cp, c))) with
  | some (cp, c) =>
    match mget s.cel.frames c.head with
    | some f =>
      if p < 544 ∨ ringPosted s (rxRing s p c.queue) = 0 then .next s
      else if fault = 1 then .next (txDone (crcFault (dropCopy s cp 0x13) f cp c) p)
      else if fault = 2 ∧ f.pool = 1 then .next (txDone (dropCopy s cp 0x14) p)
      else if c.dropAs ≠ 0 then .next (txDone (dropCopy s cp c.dropAs) p)
      else if f.abortUnsent ≠ 0 then .next (txDone (dropCopy s cp f.abortUnsent) p)
      else if !f.ended then .next s
      else if rxDescBad desc then
        let done := putBytes (slice desc 0 32) 8 (toLe 4 (setBit (fieldLe desc 8 4) 31))
        .next (hifErr (completeDesc s (rxRing s p c.queue) done) R.hifErrStatDescErr)
      else
        let r := if f.pool = 1 then cellsIn s (frameCells s c.head) 0 else (none, s)
        if r.1.isSome then .next (txDone (dropCopy r.2 cp 0x14) p)
        else .next (txDone (deliver r.2 p cp c f (fieldLe desc 0 8) out) p)
    | none => .next (txDone s p)
  | none => .next s

/-- The counter of the source that loses an event: of a station move, its table's (R136); of a translation event, its
quadrant's (R193); the other types have none of their own. -/
def eventLost (typ quad : Nat) (payload : List Byte) : Option Fld :=
  if typ = 1 then some (R.fwdTblCntCount (fieldLe payload 0 2) 9)
  else if typ = 3 then some (R.fltSvcCntCount (quad % 4) 15) else none

/-- R326: an event of type 1–5 with a payload of 1–64 bytes is posted. -/
def execEventPost (typ quad : Nat) (ctl : Bool) (payload : List Byte) (s : State) : Res := whenLive s <|
  if typ = 0 ∨ 5 < typ ∨ payload = [] ∨ 64 < payload.length then .next s
  else .next (postEvent s typ (quad % 4) ctl payload (eventLost typ quad payload))

/-- R326: the host returns event entries by writing HEAD. -/
def execEventRingHead (head : Nat) (s : State) : Res := whenClocked s <|
  .next (wr s R.hifEvtStatHead head)

end Sys2Proof.Machine
end

