-- ==== Sys2Proof/Machine/Resets.lean ====
section
/-!
DEFINITION. Resets and their sequences: power-on, cold and warm, the start of firmware, resets of masters and of the
host interface, and domain resets (R237, R318, R333, R393–R398, R480).
-/

namespace Sys2Proof.Machine

open Sys2Proof

/-! ### Power-on, cold and warm resets (R393–R396, R456, R461) -/

/-- R395, R487: every rail is good and PWR_RST_N is released. `flash` is what a programmer left in the boot flash. -/
def execPowerGood (strapFlash strapSmb : Nat) (flash : Option FlashS) (s : State) : Res := act s <|
  .next (coldReset .P 1 strapFlash strapSmb flash s)

/-- R395: PWR_RST_N held low for 1 µs and released. -/
def execPwrRstN (strapFlash strapSmb : Nat) (flash : Option FlashS) (s : State) : Res := act s <|
  if s.mod.seq = .off then .next s else .next (coldReset .C 2 strapFlash strapSmb flash s)

/-- R393, R402: power is removed; SAFE_N and FAULT_N are no longer driven. -/
def execPowerRemoval (s : State) : Res := act s <|
  let s := deviceReset .P s
  let s := drivePin (drivePin s R.safStatSafeN ["SAFE_N"] false) R.safStatFaultN ["FAULT_N", "SMB_ALERT_N"] false
  .next { s with mod := { s.mod with seq := .off } }

/-- R396: WARM_RST_N held low for 1 µs. -/
def execWarmRstN (s : State) : Res := act s <| .next (beginWarm 3 s)

/-- R394: WARM_RESET is answered OK; its reset follows 100 µs after the response. -/
def execWarmReset (h : CmdHdr) (s : State) : Res := whenLive s <|
  .next (guarded s h (some 3) (fun s => okay { s with mod := { s.mod with
    warmDue := true, warmAt := if 32 ≤ h.mbx ∧ h.mbx < 64 then none else some (uptime s) } }))

/-- R394, R396: the warm reset of a WARM_RESET starts, 100 µs after its response. -/
def execWarmResetStart (s : State) : Res := act s <|
  if s.mod.warmDue ∧ s.mod.warmAt.any (fun t => decide (t + 100000 ≤ uptime s)) ∧ !modeIn s [.freeze] then .next (beginWarm 4 s) else .next s

/-- R396 steps 2–4: the tail is committed, the stacks enter self-refresh, and every domain but AON is reset. -/
def execWarmResetCommitDone (s : State) : Res := act s <|
  if s.mod.seq = .commit then .next (warmReset s.mod.cause false (warmCommit s)) else .next s

/-- R456 steps 5–7: the journal is committed and every domain stops; a warm reset that waited runs now. -/
def execFreezeJournalCommitDone (s : State) : Res := act s <|
  if modeIn s [.freeze] ∧ s.ctr.frzStep = 4 then
    let s := freezeStop s
    .next (if s.ctr.frzWarm then warmReset s.mod.cause true s else s)
  else .next s

/-! ### The reset sequence (R395, R480) -/

/-- What the fuses hold is known from the first sensing on: `part` and `fuses` are taken then (log 7). -/
def senseFuses (s : State) (part : PartS) (fuses : FuseS) : State :=
  if s.fuse.sensed then s
  else
    let s := { s with fuse := { fuses with sensed := true } }
    let s := wrs s [(R.idPartPart, part.part), (R.idPartStep, part.step), (R.idPartVariant, part.variant),
      (R.imgFuseRollbackFuses, min 64 part.rollback), (R.imgFuseOwnerProv, b2n fuses.ownerHash.isSome),
      (R.imgFuseImgkeyProv, b2n fuses.imageKey.isSome)]
    if part.variant % 2 = 1 then
      wrs s [(R.idLotLot, part.lot), (R.idLotWafer, part.wafer), (R.idLotX, part.x), (R.idLotY, part.y)]
    else s

/-- R395 step 2, R351: the fuses are sensed, and key slots 0 and 1 are filled. -/
def execFuseSense (part : PartS) (fuses : FuseS) (s : State) : Res := act s <|
  if s.mod.seq ≠ .fuses then .next s
  else
    let s := senseFuses s part fuses
    let s := placeKey s 0 s.fuse.deviceKey 4 0 false
    let s := match s.fuse.imageKey with
      | some k => placeKey s 1 k 4 0 false
      | none => s
    .next { s with mod := { s.mod with seq := .plls } }

/-- The PLLs are locked: the fabric's links run, and the boot ROM reads the firmware slot of the boot record. -/
def pllsLocked (s : State) : State :=
  let s := (List.range 10).foldl (fun s l => if rd s (R.fabLinkState l) = 2 then s else wr s (R.fabLinkState l) 1) s
  { s with mod := { s.mod with seq := .verify, fwSlot := rd s R.modFwSlotNext, fwTried := false } }

/-- R395 step 3, R480: the PLLs lock, or the device waits for a missing reference clock. -/
def execPllLock (clocksOk : Bool) (s : State) : Res := act s <|
  if s.mod.seq ≠ .plls then .next s
  else if !clocksOk then .next { s with mod := { s.mod with clkWait := true } }
  else if s.mod.clkWait then .next s
  else .next (pllsLocked s)

/-- R480: the missing clock appears; the sequence continues from step 3, and firmware will journal the delay. -/
def execRefclkAppear (s : State) : Res := act s <|
  if s.mod.seq = .plls ∧ s.mod.clkWait then
    .next { s with mod := { s.mod with clkWait := false, clkLate := true } }
  else .next s

/-- PWR_RST_CAUSE as a number. -/
def causeWord (s : State) : Nat :=
  rd s R.pwrRstCauseCause + 16 * rd s R.pwrRstCauseFromFreeze + 32 * rd s R.pwrRstCauseTailLost

/-- The records that firmware writes first: BOOT, the faults found before it ran (R389), and a late clock (R480). -/
def firstRecords (s : State) : State :=
  let s := journal s 0x0001 0 0 (.num (causeWord s)) (rd s R.idFwVerRelease) (rd s R.modFwStatCoreSlot)
  let l := s.saf.unposted
  let s := { s with saf := { s.saf with unposted := [] } }
  let s := l.foldl (fun s e => journal s 0x0040 (if classS e.1 then 3 else 2) e.2.1 (.num e.1) e.2.2 0) s
  if s.mod.clkLate then
    journal { s with mod := { s.mod with clkLate := false } } 0x0040 3 0 (.num 11) 0 0
  else s

/-- R395 step 5: firmware starts from `slot` on all four cores; `tail`: bytes that the flash programs in 1.8 ms. -/
def startFirmware (s : State) (slot tail : Nat) : State :=
  let s := wrFlash s R.timBootBoot (rd s R.timBootBoot + 1)
  let s := wrFlash (wrFlash s R.idFwVerRelease (fwRelease (fwImage s slot))) R.modFwStatCoreSlot (15 * slot)
  let s := wrs s [(R.jnlStatSeq, ((newestSeq s.saf.jFlash).map (· + 1)).getD 0), (R.jnlCfgTailMax, tailMaxOf tail)]
  let s := (List.range 32).foldl (fun s n =>
    wrs s [(R.mbxCfgWriter n, (mailboxPair n).1), (R.mbxCfgReader n, (mailboxPair n).2)]) s
  let s := match s.saf.boardRecord with
    | some (w, v) => wrs s [(R.safHoldupCfgLoadMw, w), (R.safHoldupCfgVminMv, v)]
    | none => s
  let s := (List.range 4).foldl startWdt s
  let s := { s with saf := { s.saf with aonFault := false }
                    mod := { s.mod with seq := .running }
                    img := { s.img with loadSlot := rd s R.imgBootSlot, fellBack := false } }
  let s := firstRecords (setMode (wr s R.imgStatPhase 1) .load)
  if tail / 64 * 64 < 4096 then raiseFault (wr s R.jnlStatSlow 1) 21 0 0 else s

/-- R395 step 4, R408: the boot ROM ends the verification of a firmware slot: firmware starts, the other slot is
tried once, or both have failed. -/
def execFwVerifyDone (tail : Nat) (s : State) : Res := act s <|
  if s.mod.seq ≠ .verify then .next s
  else match fwRefusal s (fwImage s s.mod.fwSlot) with
    | none => .next (startFirmware s s.mod.fwSlot tail)
    | some _ =>
      if !s.mod.fwTried then .next { s with mod := { s.mod with fwSlot := 1 - s.mod.fwSlot, fwTried := true } }
      else
        let s := wr s R.modStatFwErr 1
        .next { s with mod := { s.mod with seq := .failed, failAt := some (uptime s) } }

/-- R395: 100 ms after both firmware slots have failed the QSPI pins are released. -/
def execFwFailQspiRelease (s : State) : Res := act s <|
  if s.mod.seq = .failed ∧ s.mod.failAt.any (fun t => decide (t + 10 ^ 8 ≤ uptime s)) then
    .next { s with img := { s.img with qspiOut := true } }
  else .next s

/-! ### The host interface and masters (R333, R350, R366, R398) -/

/-- Every job of ring 2 that is not done ends with KEY_ERASED (R361, R366); the ring is disabled. -/
def endHostRing (s : State) : State :=
  let n := (ringJobs s 2).length
  let s := (List.range n).foldl (fun s i =>
    match (ringJobs s 2)[i]? with
    | some j =>
      if j.st != .done then
        let a := groupStart (ringJobs s 2) i
        endGroup true s 2 a (groupLen ((ringJobs s 2).drop a)) .keyErased
      else s
    | none => s) s
  wr s (R.cipRingCfgSizeLog2 2) 0

/-- The island under a PCIe reset or an FLR of PF0 (R366). -/
def hostKeys (s : State) : State :=
  (List.range 64).foldl (fun s k =>
    if rd s (R.keySlotState k) ≠ 0 ∧ rd s (R.keySlotOwner k) = 1 then emergencyErase s k else s) (endHostRing s)

/-- R350: the host's registers, rings, sessions, locks and inbound mailboxes. -/
def hostReset (s : State) : State :=
  let s := (upFrom 1 18).foldl resetMaster s
  let s := hostKeys (restoreRegs .E (fun _ => true) s)
  { s with host := { s.host with ringTail := [], batches := [], vecHeld := [], txNext := [], link := .down,
                                    msixMask := [], msixPend := [], aerUr := [] } }

/-- R332, R398: PERST_N asserts (`low`) or deasserts. The assertion that ends a wake resets no master. -/
def execPerstN (low : Bool) (s : State) : Res := act s <|
  if s.mod.seq ≠ .running ∨ modeIn s [.freeze] then .next s
  else if low then
    if s.host.wakeN then .next { s with host := { s.host with wakeEnding := true, link := .down } }
    else .next (hostReset s)
  else if s.host.wakeN then
    .next (emit { s with host := { s.host with wakeN := false, wakeEnding := false } } (.pin "WAKE_N" true))
  else .next s

/-- An FLR of PF `fn` leaves none of its vectors masked, pending or held (log 47). -/
def dropVectors (s : State) (fn : Nat) : State :=
  let out := fun (l : List (Nat × Nat)) => l.filter (fun v => v.1 != fn)
  { s with host := { s.host with msixMask := out s.host.msixMask, msixPend := out s.host.msixPend,
                                 vecHeld := out s.host.vecHeld } }

/-- R398: an FLR of host function `r` (1 PF0, 2 PF1, 3–18 the VFs). -/
def execFlr (r : Nat) (s : State) : Res := whenLive s <|
  if r = 0 ∨ 18 < r then .next s
  else
    let s := resetMaster s r
    .next (if r = 1 then dropVectors (hostKeys s) 0
      else if r = 2 then
        let s := dropVectors s 1
        (List.range 128).foldl (fun s i => wr s (R.hifRingCfgSizeLog2 i) 0) { s with host := { s.host with ringTail := [] } }
      else s)

/-- R333: a reset of master `r`. -/
def execMasterReset (r : Nat) (s : State) : Res := whenLive s <| .next (resetMaster s r)

/-! ### Domain resets (R237, R318, R397) -/

/-- Show a domain reset's request. -/
def domRequest (s : State) (t q i : Nat) (c : Status) : State :=
  wrStat (wrs s [(R.pwrDomRstType, t), (R.pwrDomRstQuad, q), (R.pwrDomRstIndex, i)]) R.pwrDomRstStatus c

/-- A request by `r` for a domain of `n` instances: refused, or its effect. -/
def domainReset (r t q i n : Nat) (busy : State → Bool) (f : State → State) (s : State) : State :=
  if !isCore r then protectedWrite s r
  else if 4 ≤ q ∨ 16 ≤ i then s
  else if n ≤ i then domRequest s t q i .invalid
  else if t ≠ 3 ∧ quadParked s q then domRequest s t q i .refusedMode
  else if busy s then domRequest s t q i .busy
  else f (domRequest s t q i .ok)

/-- Restore the domain's registers in a range of addresses (R17). -/
def domRegs (a n : Nat) (s : State) : State := restoreRegs .D (fun x => decide (a ≤ x) && decide (x < a + n)) s

/-- A handover names a pipe. -/
def handNames (s : State) (q p : Nat) : Bool :=
  match mget s.pipe.hand q with
  | some h => h.target == p || h.spare == p
  | none => false

/-- A pipe's domain reset: state cleared, programs kept; the spare is no spare until its slice passes. -/
def resetPipe (q p : Nat) (s : State) : State :=
  let s := domRegs (0x1000000 + q * 0x1000000 + p * 0x20000) 0x20000 s
  if spareOf s q = p then
    wr { s with pipe := { s.pipe with load := mdel s.pipe.load q, testing := mset s.pipe.testing q p } } (R.modSpareSpare q) 15
  else s

/-- R397: domain reset of pipe `p` of quadrant `q`. -/
def execDomainResetPipe (r q p : Nat) (s : State) : Res := whenLive s <|
  let s := dropLatch s r
  .next (domainReset r 0 q p 9 (fun s => pipeServes s (9 * q + p) || handNames s q p) (resetPipe q p) s)

/-- R237, R397: domain reset of engine group `k` of quadrant `q`. -/
def execDomainResetGroup (r q k : Nat) (s : State) : Res := whenLive s <| settle s <|
  let s := dropLatch s r
  .next (domainReset r 1 q k 8 (fun _ => false)
    (fun s => domRegs (0x1500000 + q * 0x1000000 + k * 0x2000) 0x2000 (resetGroup s (8 * q + k))) s)

/-- Outstanding misses of a quadrant end with the flow default action, and its pool 1 reads in flight drop their
copies (R397). -/
def endMemWork (s : State) (q : Nat) : State :=
  let ls := s.flo.lines.filter (fun e => e.1 / 2 ^ 24 == q && e.2.st == .filling && e.2.miss != .setup)
  let s := ls.foldl (fun s e => endDefault s e.1 0x0A) s
  let cs := s.cel.tx.filter (fun e => ((mget s.cel.copies e.2).bind (fun c => mget s.cel.frames c.head)).any
    (fun f => f.pool == 1 && f.quad == q))
  cs.foldl (fun s e => txDone (dropCopy s e.2 0x14) e.1) s

/-- The controller and PHY of a stack are reset, and the stack retrains (R318). -/
def resetStack (q : Nat) (s : State) : State :=
  let s := endMemWork (domRegs (0x100000 + q * 0x40000) 0x40000 s) q
  let mine := fun (k : Nat) => k / 64 == q
  let s := repayDebt { s with hbm := { s.hbm with
    pass := s.hbm.pass.filter (fun e => !mine e.1), again := s.hbm.again.filter (fun k => !mine k),
    autoWait := s.hbm.autoWait.filter (fun e => e.1 != q) } } q
  startTraining (wr s (R.hbmStatRate q) (rd s (R.hbmIdRating q))) q

/-- R318, R397: domain reset of HBM stack `q`. -/
def execDomainResetStack (r q i : Nat) (s : State) : Res := whenLive s <| settle s <|
  let s := dropLatch s r
  .next (domainReset r 2 q i 16 (fun s => memBusy s q) (resetStack q) s)

/-- Management core 32 + `c` is reset, and its watchdog counts anew (log 48). -/
def resetCore (s : State) (c : Nat) : State := startWdt (resetMaster s (32 + c)) c

/-- R333, R397: domain reset of management core `c`. -/
def execDomainResetCore (r q c : Nat) (s : State) : Res := whenLive s <|
  let s := dropLatch s r
  .next (domainReset r 3 q c 4 (fun _ => false) (fun s => resetCore s c) s)

/-- R397, R415: the watchdog of core `c` has counted TIMEOUT_US since its last kick and expires; a suspended one does
not (R409). -/
def execWatchdogExpire (c : Nat) (s : State) : Res := whenLive s <| settle s <|
  if 4 ≤ c ∨ rdB s (R.safWdtSuspended c) ∨
      uptime s < mgetD s.saf.wdtAt c 0 + 1000 * rd s (R.safWdtTimeoutUs c) then .next s
  else .next (resetCore (raiseFault s 15 c 0) c)

end Sys2Proof.Machine
end

