-- ==== Sys2Proof/Machine/Firmware.lean ====
section
/-!
DEFINITION. The hitless restart of management firmware (R409).
-/

namespace Sys2Proof.Machine

open Sys2Proof

/-- Why SLOT_NEXT may not be restarted into, if so. -/
def restartRefusal (s : State) (b : List Byte) : Option Status :=
  match fwRefusal s b with
  | some c => some c
  | none => if rd s R.idFwVerRelease < fwCompat b then some .versionConflict else none

/-- Core 32 + `c` hands its duties to the next core: its mailboxes' readers, and its watchdog is suspended. -/
def lendCore (s : State) (c : Nat) : State :=
  let l := (List.range 32).filter (fun n => rd s (R.mbxCfgReader n) == 32 + c)
  let s := l.foldl (fun s n => wr s (R.mbxCfgReader n) (32 + (c + 1) % 4)) s
  let s := wrs s [(R.safWdtSuspended c, 1), (R.modFwStatCore, c)]
  { s with mod := { s.mod with restart := s.mod.restart.map (fun r => { r with moved := l }) } }

/-- R409 step 1: a management core writes RESTART = 1. -/
def execFwRestart (r : Nat) (s : State) : Res := whenLive s <|
  let s := dropLatch s r
  if !isCore r then .next (protectedWrite s r)
  else if !modeIn s commandModes then .next (wrStat s R.modFwStatus .refusedMode)
  else if rd s R.modFwStatPhase ≠ 0 then .next (wrStat s R.modFwStatus .busy)
  else
    let slot := rd s R.modFwSlotNext
    let b := fwImage s slot
    match restartRefusal s b with
    | some c => .next (wrStat s R.modFwStatus c)
    | none =>
      let s := writeBoot s slot (rd s R.imgBootSlot) (rdB s R.imgBootFallbackEn)
      let s := wrs s [(R.modFwRestart, 1), (R.modFwStatPhase, 2), (R.modFwStatRelease, fwRelease b)]
      .next (lendCore { s with mod := { s.mod with restart := some ⟨slot, rd s R.idFwVerRelease, []⟩ } } 3)

/-- R409 step 3: the last core runs the new release. -/
def restartEnds (s : State) (x : RestartS) : State :=
  let new := rd s R.modFwStatRelease
  let s := wrFlash s R.idFwVerRelease new
  let s := wrs s [(R.modFwStatPhase, 0), (R.modFwRestart, 0)]
  let s := wrStat { s with mod := { s.mod with restart := none } } R.modFwStatus .ok
  journal s 0x0013 1 32 (.code .ok) x.old new

/-- R409 step 2: the restarting core resumes its duties from the new slot; it holds no command any more. -/
def execFwCoreRestartDone (s : State) : Res := whenLive s <|
  match s.mod.restart with
  | some x =>
    let c := rd s R.modFwStatCore
    if s.host.takenBy.any (fun e => e.2 == 32 + c) then .next s
    else
      let old := rd s R.modFwStatCoreSlot
      let s := wrFlash s R.modFwStatCoreSlot (if x.slot = 1 then setBit old c else clrBit old c)
      let s := x.moved.foldl (fun s n => wr s (R.mbxCfgReader n) (32 + c)) s
      let s := startWdt (wr s (R.safWdtSuspended c) 0) c
      .next (if c = 0 then restartEnds s x else lendCore s (c - 1))
  | none => .next s

end Sys2Proof.Machine
end

