-- ==== Sys2Proof/Machine/Mailbox.lean ====
section
/-!
DEFINITION. Mailboxes, locks, command carriage and sessions (R328–R346).
-/

namespace Sys2Proof.Machine

open Sys2Proof

/-! ### Mailboxes -/

/-- Master `m` may write mailbox `n` now (R331, R337). -/
def mbxWritable (s : State) (m n : Nat) : Bool :=
  if n < 32 then rd s (R.mbxCfgWriter n) == m && m != 0 && mbxState s n == 0
  else lockOwner s n == m && m != 0 && m != 0x3F && mbxState s n == 0

/-- R331, R337, R338: a write of word `j` of mailbox `n`. -/
def execMbxDataWrite (m n j v : Nat) (s : State) : Res := whenClocked s <|
  let s := dropLatch s m
  if 32 ≤ j then .next s
  else match boxOf s m n with
    | some n => .next (if mbxWritable s m n then wr s (R.mbxDataBytes n j) v else mbxReject s m n)
    | none => .next (portReject s m n)

/-- A firmware message to the host that finds its mailbox FULL waits in the outbound ring (R334, R42). -/
def queueOutbound (s : State) (n len cookie : Nat) (msg : List Byte) : State :=
  let e := (n, toLe 8 cookie ++ slice msg 0 len)
  if s.host.outRing.length < 16 ∧ s.host.held = [] then
    { s with host := { s.host with outRing := s.host.outRing ++ [e] } }
  else { s with host := { s.host with held := s.host.held ++ [e] } }

/-- R331, R337, R338: a write of MBX_HDR[n] with value `v`. `msg`, if not empty, is a message of firmware to the host,
which firmware puts into its own ring when the mailbox is FULL (R334), in place of a write that would be rejected. -/
def execMbxDoorbell (m n v : Nat) (msg : List Byte) (s : State) : Res := whenClocked s <|
  let s := dropLatch s m
  match boxOf s m n with
  | none => .next (portReject s m n)
  | some n =>
    let len := bits v 0 9
    let cookie := bits v 32 32
    if len ≤ 256 ∧ mbxWritable s m n then
      let s := setHeader s n len m 0 cookie
      if n < 32 then
        let s := wr s (R.mbxStatState n) 1
        .next (if rdB s (R.mbxCfgFillInt n) then notifyMaster s (rd s (R.mbxCfgReader n)) n else s)
      else .next (emit (wr s (R.mbxStatState n) 1) (.coreInt "COMMAND" n))
    else if msg ≠ [] ∧ len ≤ 256 ∧ 8 ≤ n ∧ n < 16 ∧ isCore m ∧ rd s (R.mbxCfgWriter n) = m then
      .next (queueOutbound s n len cookie msg)
    else .next (mbxReject s m n)

/-- Core `c` takes the command of mailbox `n`, and its header is returned (R330, R337). -/
def takeCommand (s : State) (c n : Nat) : State :=
  let s := { s with host := { s.host with takenBy := mset s.host.takenBy n c,
                                          responseDue := mdel s.host.responseDue n } }
  emit (wr s (R.mbxStatState n) 2) (.read c (mbxHeader s n) 8)

/-- R330, R331, R337, R338: a read of MBX_TAKE[n] by master `m`. -/
def execMbxTake (m n : Nat) (s : State) : Res := whenClocked s <|
  let s := dropLatch s m
  let none := emit s (.read m 0 8)
  match boxOf s m n with
  | .none => .next (if byPort m n then none else s)
  | some n =>
  if n < 32 then
    if rd s (R.mbxCfgReader n) = m ∧ m ≠ 0 ∧ mbxState s n = 1 then
      let s := emit s (.read m (mbxHeader s n) 8)
      let s := wrs s [(R.mbxStatState n, 0), (R.mbxHdrValid n, 0)]
      let s := if rdB s (R.mbxCfgEmptyInt n) then notifyMaster s (rd s (R.mbxCfgWriter n)) n else s
      .next (postOutbound s n)
    else .next none
  else if lockOwner s n = m ∧ m ≠ 0 ∧ mbxState s n = 3 then
    .next (emptyCommand (emit s (.read m (mbxHeader s n) 8)) n)
  else if isCore m ∧ mbxState s n = 1 then .next (takeCommand s m n)
  else .next none

/-! ### Locks -/

/-- Masters that reach the locks (R335). -/
def reachesLocks (r : Nat) : Bool :=
  r == 1 || (decide (3 ≤ r) && decide (r ≤ 18)) || isCore r || r == 48

/-- R335, R336: a read of LCK[i] by requester `r`. -/
def execLockAcquire (r i : Nat) (s : State) : Res := whenClocked s <|
  let s := dropLatch s r
  if 32 ≤ i ∨ !reachesLocks r then .next s
  else if lockOwner s (32 + i) = 0 then .next (emit (setLock s (32 + i) r) (.read r 0 8))
  else .next (emit s (.read r (lockOwner s (32 + i)) 8))

/-- R335, R336: a write of `v` to LCK[i] by requester `r`. -/
def execLockRelease (r i v : Nat) (s : State) : Res := whenClocked s <|
  let s := dropLatch s r
  if 32 ≤ i ∨ !reachesLocks r then .next s
  else if v = r ∧ lockOwner s (32 + i) = r then .next (releaseLock s (32 + i))
  else .next (bump (hifErr s R.hifErrStatLockBadrel) (R.hifCntCount 2))

/-- R335: a management core writes LCK_FORCE with GO. -/
def execLckForce (core lock : Nat) (s : State) : Res := whenLive s <|
  let s := dropLatch s core
  if !isCore core ∨ 32 ≤ lock then .next s
  else
    let s := wr s R.lckForceLock lock
    let o := lockOwner s (32 + lock)
    let s := journal s 0x0021 1 lock (.num 0) o 0
    .next (if o = 0 ∨ o = 0x3F then s else releaseLock s (32 + lock))

/-! ### Carriage of commands -/

/-- R337: management core `c` takes the command of mailbox `n`. -/
def execCommandTake (c n : Nat) (s : State) : Res := whenLive s <|
  let s := dropLatch s c
  if isCore c ∧ 32 ≤ n ∧ n < 64 ∧ mbxState s n = 1 then
    .next (takeCommand s c n)
  else .next s

/-- The answer firmware gives for mailbox `n`: the one it holds, or INVALID to a code not in R341. -/
def answerFor (s : State) (n : Nat) : Option Answer :=
  match mget s.host.responseDue n with
  | some a => some a
  | none =>
    let head := slice (mbxBytes s n) 0 32
    if knownCode (fieldLe head 0 2) then none else some ⟨head, none, .invalid, []⟩

/-- The response of a WARM_RESET or a FREEZE is written, or discarded: its 100 µs begin (R394, R454). -/
def dueAnswered (s : State) (a : Answer) : State :=
  if s.mod.warmDue && s.mod.warmAt.isNone && fieldLe a.head 0 2 == 0x0408 then
    { s with mod := { s.mod with warmAt := some (uptime s) } }
  else if s.ctr.frzCmd.isSome && s.ctr.frzAt.isNone && fieldLe a.head 0 2 == 0x0407 then
    { s with ctr := { s.ctr with frzAt := some (uptime s) } }
  else s

/-- R337: management core `c` writes the response of mailbox `n`. -/
def execCommandResponse (c n : Nat) (s : State) : Res := whenLive s <|
  let s := dropLatch s c
  if isCore c ∧ 32 ≤ n ∧ n < 64 ∧ mbxState s n = 2 then
    match answerFor s n with
    | some a =>
      let s := dueAnswered { s with host := { s.host with responseDue := mdel s.host.responseDue n } } a
      if lockOwner s n = 0x3F then .next (emptyCommand s n)
      else
        let r := responseMsg a
        let s := match r.2.1 with
          | some (addr, b) => emit s (.dma addr b)
          | none => s
        let s := setHeader (putMsg s n r.1) n r.1.length c 1 (rd s (R.mbxHdrCookie n))
        let s := emit (wr s (R.mbxStatState n) 3) (.response n a.status a.payload r.2.2)
        .next (notifyMaster s (lockOwner s n) n)
    | none => .next s
  else .next s

/-! ### Sessions -/

/-- R343: SESSION_CHALLENGE. The nonce's bytes are free values. -/
def execSessionChallenge (h : CmdHdr) (s : State) : Res := whenLive s <|
  .next (openCmd s h (fun s =>
    let x := freeBytes s 32
    let nonces := ⟨h.requester, x.1, uptime s, false⟩ :: s.host.nonces
    sizedResponse h x.1 { x.2 with host := { x.2.host with nonces := nonces.take 16 } }))

/-- The nonce is held for the requester, unused and younger than 10 s (R343, R345). -/
def nonceGood (s : State) (r : Nat) (nd : List Byte) : Bool :=
  s.host.nonces.any (fun n => n.requester == r && n.value == nd && !n.used && decide (uptime s < n.issued + 10 ^ 10))

/-- Spend a nonce. -/
def spendNonce (s : State) (r : Nat) (nd : List Byte) : State :=
  { s with host := { s.host with nonces := s.host.nonces.map (fun n =>
      if n.requester = r ∧ n.value = nd then { n with used := true } else n) } }

/-- Count a verification or key agreement of the signature verifier (SIG_CNT). -/
def sigCount (s : State) (agreement ok : Bool) : State :=
  bump s (R.sigCntCount ((if agreement then 2 else 0) + (if ok then 0 else 1)))

/-- The shared secrets of a SESSION_OPEN (R345): ML-KEM, then ECDH. -/
def sharedSecrets (s : State) (p : List Byte) : Option (List Byte × List Byte) :=
  match s.keys.devKem, s.keys.devEcdh with
  | some z, some d =>
    match Config.mlkemDecaps z (slice p 0xB0 1568), Config.ecdh d (slice p 0x48 97) with
    | some a, some b => some (toBe 32 a.toNat, toBe 48 b.toNat)
    | _, _ => none
  | _, _ => none

/-- The lowest closed session number. -/
def freeSession (s : State) : Option Nat := (upFrom 1 16).find? (fun n => (sessSlots s n).isNone)

/-- The two lowest empty slots of 8–63. -/
def twoSlots (s : State) : Option (Nat × Nat) :=
  match emptyFrom s 8 with
  | some a => (emptyFrom s (a + 1)).map (fun b => (a, b))
  | none => none

/-- Firmware loads key bytes into one of its own slots; GEN advances if the slot was not empty (R360). -/
def firmwareLoad (s : State) (k : Nat) (key : List Byte) (use : Nat) : State :=
  let s := if rd s (R.keySlotState k) = 0 then s else nextGen s k
  placeKey s k key use 0 false

/-- The session of an accepted SESSION_OPEN (R345). -/
def openSession (s : State) (r n a b : Nat) (p ss1 ss2 : List Byte) (rights : Nat) : State :=
  let q := sha (slice p 0 0x6D0)
  let kdk := (sha (ss1 ++ ss2 ++ q)).take 32
  let ks := kdf kdk "SKHC-SESS" (slice p 0 2 ++ toLe 1 n ++ slice p 8 32 ++ slice p 0x28 32) 4
  let s := firmwareLoad s 4 kdk 4
  let s := placeKey (placeKey s a (slice ks 0 32) 12 0 false) b (slice ks 32 32) 1 0 false
  let s := { s with keys := { s.keys with sess := mset s.keys.sess n (a, b) } }
  wrStat (wrs s [(R.hifSessOpen n, 1), (R.hifSessReq n, r), (R.hifSessKeyId n, fieldLe p 0 2),
    (R.hifSessRights n, rights), (R.hifSessSeqSeq n, 0)]) (R.hifSessLastStatus n) .ok

/-- R344, R345: SESSION_OPEN with its indirect payload `p`. -/
def execSessionOpen (h : CmdHdr) (p : List Byte) (s : State) : Res := whenLive s <|
  let nd := slice p 0x28 32
  let good := nonceGood s h.requester nd
  if h.dmaErr then .next (dmaAborted s h)
  else if h.requester ≠ 1 ∧ h.requester ≠ 48 then .next (refuseAuth (spendNonce s h.requester nd) h)
  else if rdB s R.keyStatZeroized then .next (holdAnswer s h none .keyErased [])
  else
    let s := spendNonce s h.requester nd
    match authKey s (fieldLe p 0 2) with
    | some (pubE, pubM, rights) =>
      if !good then .next (refuseAuth s h)
      else
        let q := sha (slice p 0 0x6D0)
        let okE := Config.ecdsaOk pubE q (slice p 0x6D0 96)
        let okM := Config.mldsaOk pubM q (slice p 0x730 4627)
        let s := sigCount (sigCount s false okE) false okM
        if !(okE && okM) then .next (refuseAuth s h)
        else match sharedSecrets s p with
          | some (ss1, ss2) =>
            let s := sigCount (sigCount s true true) true true
            match freeSession s, twoSlots s with
            | some n, some (a, b) =>
              let granted := rights &&& fieldLe p 2 2
              let s := openSession s h.requester n a b p ss1 ss2 granted
              .next (holdAnswer s h (some (keyRsp s n)) .ok (toLe 1 n ++ [0] ++ toLe 2 granted))
            | _, _ => .next (holdAnswer s h none .noRoom [])
          | none => .next (refuseAuth (sigCount s true false) h)
    | none => .next (refuseAuth s h)

/-- R346: SESSION_CLOSE closes the session that carries it. -/
def execSessionClose (h : CmdHdr) (s : State) : Res := whenLive s <|
  .next (guarded s h none (fun s => okay (closeSession s (cmdSession h))))

/-- R343: DEVICE_KEYS, through the indirect buffer. -/
def execDeviceKeys (h : CmdHdr) (s : State) : Res := whenLive s <|
  .next (openCmd s h (fun s =>
    match s.keys.devEcdh, s.keys.devKem with
    | some d, some z =>
      let p := toBe 97 (Config.p384Pub d).toNat ++ toBe 1568 (Config.mlkemPub z).toNat
      if cmdBufLen h < p.length then refuse .invalid s else ⟨.ok, p, s⟩
    | _, _ => refuse .keyErased s))

/-- R337: SESSION_STATUS of session `n`: its last accepted SEQ and that command's status. -/
def execSessionStatus (h : CmdHdr) (n : Nat) (s : State) : Res := whenLive s <|
  .next (openCmd s h (fun s =>
    if n = 0 ∨ 16 < n then refuse .invalid s
    else sizedResponse h (toLe 8 (rd s (R.hifSessSeqSeq n)) ++
      toLe 2 (statNum s (R.hifSessLastStatus n))) s))

end Sys2Proof.Machine
end

