-- ==== Sys2Proof/Machine/Keys.lean ====
section
/-!
DEFINITION. Key commands, the cipher engine's rings and jobs, and the signature verifier (chapter 13).
-/

namespace Sys2Proof.Machine

open Sys2Proof

/-! ### Key commands (R365) -/

/-- The slot a KEY_LOAD names: the lowest empty allocatable slot for 0xFF. -/
def loadSlot (s : State) (slot : Nat) : Option Nat := if slot = 0xFF then emptyFrom s 8 else some slot

/-- The bits a KEY_LOAD unwraps (R363, R365): under KW of the session, derived into slot 4; a management
core's load carries the key itself. -/
def unwrapped (s : State) (h : CmdHdr) (wrapped : List Byte) : List Byte × State :=
  if isCore h.requester then (slice wrapped 0 32, s)
  else
    let kw := kdf (keyCmd s (cmdSession h)) "SKHC-WRAP" (toLe 8 (cmdSeq h)) 2
    (aesD kw (slice wrapped 0 16) ++ aesD kw (slice wrapped 16 16), firmwareLoad s 4 kw 4)

/-- Load or schedule the load of a slot (R360): at once into an empty slot, else a pending rewrite. -/
def loadKey (h : CmdHdr) (k use owner : Nat) (key128 : Bool) (wrapped : List Byte) (s : State) : CmdOut :=
  let x := unwrapped s h wrapped
  let s := if rd x.2 (R.keySlotState k) = 0 then placeKey x.2 k x.1 use owner key128
    else requestRewrite x.2 k (.load x.1 use owner key128)
  ⟨.ok, toLe 1 k ++ toLe 1 (rd s (R.keySlotGen k)), s⟩

/-- R365: KEY_LOAD. -/
def execKeyLoad (h : CmdHdr) (slot use owner : Nat) (key128 : Bool) (wrapped : List Byte) (s : State) : Res := whenLive s <|
  .next (guarded s h (some 5) (fun s => inModes commandModes s (fun s =>
    if rdB s R.keyStatZeroized then refuse .keyErased s
    else if slot ≤ 4 ∨ slot = 7 ∨ (64 ≤ slot ∧ slot ≠ 0xFF) ∨ 16 ≤ use ∨
        ((slot = 5 ∨ slot = 6) ∧ owner ≠ 0) ∨ (owner ≠ 0 ∧ owner ≠ 1 ∧ owner ≠ 48) then refuse .invalid s
    else if (sessionOf s slot).isSome then refuse .busy s
    else match loadSlot s slot with
      | some k => loadKey h k use owner key128 wrapped s
      | none => refuse .noRoom s)))

/-- R365: KEY_ERASE, ordinary (mode 0, R360) or emergency (mode 1, R361). -/
def execKeyErase (h : CmdHdr) (slot emode : Nat) (s : State) : Res := whenLive s <|
  .next (guarded s h (some 5) (fun s => inModes commandModes s (fun s =>
    if rdB s R.keyStatZeroized then refuse .keyErased s
    else if slot ≤ 4 ∨ 64 ≤ slot ∨ 1 < emode then refuse .invalid s
    else
      let own := (sessSlots s (cmdSession h)).map (fun p => p.1 == slot || p.2 == slot) == some true
      let s' := if emode = 1 then emergencyErase s slot
        else if rd s (R.keySlotState slot) = 0 then s
        else requestRewrite s slot .erase
      if own && emode == 1 then ⟨.keyErased, [], s'⟩ else okay s')))

/-- R362, R365: KEY_ZEROIZE, journalled. The session that carries it loses its own key slots meanwhile (R346). -/
def execKeyZeroize (h : CmdHdr) (s : State) : Res := whenLive s <|
  .next (guarded s h (some 5) (fun s => inModes commandModes s (fun s =>
    ⟨if isCore h.requester then .ok else .keyErased, [],
      journalFull (zeroize true s) 0x0022 1 h.requester 0xFF (.num 0) 0 0 0⟩)))

/-- R360: the pending rewrite of slot `k` is applied when its leases are gone; GEN advances. -/
def execKeyRewriteApply (k : Nat) (s : State) : Res := whenLive s <|
  if rd s (R.keySlotLeases k) ≠ 0 then .next s
  else match mget s.keys.pend k with
    | some (.load key use owner key128) => .next (placeKey (nextGen s k) k key use owner key128)
    | some .erase =>
      match sessionOf s k with
      | some n => .next (closeSession s n)
      | none => .next (emptySlot s k)
    | none => .next s

/-! ### Rings and jobs -/

/-- Descriptors a cipher ring holds; 0 while it is disabled. -/
def cipSize (s : State) (r : Nat) : Nat :=
  let k := rd s (R.cipRingCfgSizeLog2 r)
  if k = 0 then 0 else 2 ^ k

/-- Who writes the TAIL of a ring (R354 and the register text): cores any ring, PF0 ring 2, the agent ring 3. -/
def mayRing (r m : Nat) : Bool := isCore m || (r == 2 && m == 1) || (r == 3 && m == 48)

/-- R354: a write of CIP_RING_TAIL; `descs` are the descriptors the device reads from the ring. -/
def execCipherRingDoorbell (m r tail : Nat) (descs : List (List Byte)) (s : State) : Res := whenLive s <|
  let s := dropLatch s m
  if 4 ≤ r then .next s
  else if !mayRing r m then .next (protectedWrite s m)
  else if cipSize s r = 0 then .next s
  else
    let t := tail % cipSize s r
    let old := mgetD s.keys.tail r 0
    let n := (t + cipSize s r - old) % cipSize s r
    let fresh := (List.range n).map (fun i =>
      (⟨slice (listAt descs i []) 0 64, .waiting, .ok, [], [], [], 0, []⟩ : JobS))
    let s := setJobs s r (ringJobs s r ++ fresh)
    .next { s with keys := { s.keys with tail := mset s.keys.tail r t } }

/-- The master a ring is bound to; 0 for the management cores' rings, which may name any slot (R354). -/
def ringMaster (r : Nat) : Nat := if r = 2 then 1 else if r = 3 then 48 else 0

/-- The ring may name a slot (R354). -/
def ringMayName (s : State) (r k : Nat) : Bool :=
  decide (r < 2) || rd s (R.keySlotOwner k) == ringMaster r

/-- Reserved bits of a descriptor are 0 and every field holds a valid value (R355). -/
def jobFieldsOk (j : JobS) : Bool :=
  (jobOp j == 1 || jobOp j == 2) && jobSub j != 3 && !(jobOp j == 2 && jobSub j != 0) && !bit (jobW j) 15 &&
  decide (fieldLe j.desc 2 1 < 64) && decide (fieldLe j.desc 3 1 < 64) &&
  decide (fieldLe j.desc 4 2 < 0x2000) && decide (jobBlocks j ≤ (if jobChain j then 256 else 4096)) &&
  decide (fieldLe j.desc 6 1 < 32) && fieldLe j.desc 7 1 == 0 && bits (fieldLe j.desc 0x18 4) 16 15 == 0 &&
  fieldLe j.desc 0x1C 4 == 0 &&
  !(jobOut j == 2 && (decide (jobTagLen j < 4) || decide (16 < jobTagLen j)))

/-- The slot is usable as a key (R353). -/
def slotUsable (s : State) (j : JobS) : Bool :=
  let k := jobSlot j
  rd s (R.keySlotState k) == 2 ||
    (jobKey128 j && rd s (R.keySlotState k) == 1 && ((mget s.keys.slots k).bind (·.lo)).isSome)

/-- USE permits the job's output path (R352). -/
def usePermits (s : State) (j : JobS) : Bool :=
  let u := rd s (R.keySlotUse (jobSlot j))
  match jobOut j with
  | 0 => if jobOp j = 1 then bit u 0 else bit u 1
  | 1 => bit u 2
  | 2 => bit u 3
  | _ => true

/-- The descriptor is valid on ring `r`, `first` telling whether it opens its group (R357). -/
def jobValid (s : State) (r : Nat) (first : Bool) (j : JobS) : Bool :=
  jobFieldsOk j && slotUsable s j && ringMayName s r (jobSlot j) && usePermits s j &&
  !(jobOut j == 1 && (decide (jobDst j < 4) || jobDst j == jobSlot j || !ringMayName s r (jobDst j))) &&
  !(first && jobCont j) && !(jobOut j == 2 && jobLink j)

/-- A slot the job needs waits for a rewrite (R360). -/
def jobWaits (s : State) (j : JobS) : Bool :=
  rd s (R.keySlotState (jobSlot j)) == 3 || (jobOut j == 1 && rd s (R.keySlotState (jobDst j)) == 3)

/-- The first waiting job of a ring, if it opens a group. -/
def nextGroup (s : State) (r : Nat) : Option Nat :=
  let l := ringJobs s r
  match l.findIdx? (fun j => j.st == .waiting) with
  | some i => (if groupStart l i = i then some i else none)
  | none => none

/-- The ring served next: round robin, one group at a time (R354). -/
def nextRing (s : State) : Option (Nat × Nat) :=
  (upFrom 1 4).findSome? (fun d =>
    let r := (s.keys.rr + d) % 4
    (nextGroup s r).map (fun i => (r, i)))

/-- Move core `c` past its current job: to the group's next job, or away from the group at its end. -/
def coreOn (s : State) (c : Nat) (g : GroupRun) (j : JobS) : State :=
  let cores := if jobLink j then mset s.keys.cores c { g with next := g.next + 1, busy := false }
    else mdel s.keys.cores c
  { s with keys := { s.keys with cores := cores } }

/-- The key bits a job computes with: those its slot holds at its start, until its end (R360). -/
def jobKey (s : State) (j : JobS) : List Byte :=
  if jobKey128 j then (slotKey s (jobSlot j)).take 16 else slotKey s (jobSlot j)

/-- Core `c` begins job `g.next` of its group (R357, R360). -/
def beginJob (s : State) (c : Nat) (g : GroupRun) (first : Bool) (input old : List Byte) (dmaErr : Bool) : State :=
  match (ringJobs s g.ring)[g.next]? with
  | some j =>
    if jobWaits s j then s
    else if rdB s R.keyStatZeroized then
      endGroup true s g.ring (groupStart (ringJobs s g.ring) g.next)
        (groupLen ((ringJobs s g.ring).drop (groupStart (ringJobs s g.ring) g.next))) .keyErased
    else if listAt g.gens (jobSlot j) 0 ≠ rd s (R.keySlotGen (jobSlot j)) then
      let a := groupStart (ringJobs s g.ring) g.next
      endGroup true s g.ring a (groupLen ((ringJobs s g.ring).drop a)) .keyErased
    else if !jobValid s g.ring first j then
      coreOn (updJob s g.ring g.next (fun j => { j with st := .done, status := .invalid })) c g j
    else if dmaErr then
      let s := if g.ring = 2 then hifErr s R.hifErrStatDmaErr else s
      coreOn (updJob s g.ring g.next (fun j => { j with st := .done, status := .aborted })) c g j
    else
      let s := wr s (R.keySlotLeases (jobSlot j)) (rd s (R.keySlotLeases (jobSlot j)) + 1)
      let s := if jobOut j = 1 then wr s (R.keySlotLeases (jobDst j)) (rd s (R.keySlotLeases (jobDst j)) + 1) else s
      let s := updJob s g.ring g.next (fun j =>
        { j with st := .running, input := input, old := old, key := jobKey s j })
      { s with keys := { s.keys with cores := mset s.keys.cores c { g with busy := true } } }
  | none => s

/-- R360: AES core `c` begins a job: the next of its group, or the first of the group served next.
`input` and `old` are the bytes at IN_ADDR and OUT_ADDR. -/
def execCipherJobStart (c : Nat) (input old : List Byte) (dmaErr : Bool) (s : State) : Res := whenLive s <|
  if 4 ≤ c then .next s
  else match mget s.keys.cores c with
    | some g => if g.busy then .next s else .next (beginJob s c g false input old dmaErr)
    | none =>
      match nextRing s with
      | some (r, i) =>
        let g : GroupRun := ⟨r, i, (List.range 64).map (fun k => rd s (R.keySlotGen k)), zeroBlock, false⟩
        if (ringJobs s r)[i]?.any (jobWaits s) then .next s
        else
          .next (beginJob { s with keys := { s.keys with rr := r, cores := mset s.keys.cores c g } } c g true input old dmaErr)
      | none => .next s

/-- One block of R356: the carried value and the outputs so far. -/
def jobBlock (j : JobS) (key : List Byte) (p : List Byte × List (List Byte)) (i : Nat) :
    List Byte × List (List Byte) :=
  let x0 := blockAt j.input i
  let mix := fun y => if jobXor j then xorBytes y (blockAt j.old i) else y
  if jobOp j = 1 then
    let x := if jobChain j then xorBytes x0 p.1 else x0
    let x := if i + 1 = jobBlocks j ∧ jobSub j = 1 then xorBytes x (subK1 key)
      else if i + 1 = jobBlocks j ∧ jobSub j = 2 then xorBytes x (subK2 key) else x
    let y := aesE key x
    (y, p.2 ++ [mix y])
  else
    let y := aesD key x0
    if jobChain j then (x0, p.2 ++ [mix (xorBytes y p.1)]) else (p.1, p.2 ++ [mix y])

/-- The job's computation (R356): carried value and output blocks. -/
def runJob (j : JobS) (key carry : List Byte) : List Byte × List (List Byte) :=
  (List.range (jobBlocks j)).foldl (jobBlock j key) (if jobCont j then carry else slice j.desc 0x20 16, [])

/-- The output of a job is written (R356). -/
def jobOutput (s : State) (r i : Nat) (j : JobS) (out : List (List Byte)) : State :=
  match out.getLast? with
  | none => s
  | some last =>
    match jobOut j with
    | 0 =>
      let b := if jobLastOnly j then last else out.flatten
      updJob (ringWrite s r (jobOutAddr j) b) r i (fun j => { j with wrote := b.length, last := last })
    | 1 => updJob (writeHalf s (jobDst j) (jobHalf j) last) r i (fun j => { j with wrote := 16, last := last })
    | _ => updJob s r i (fun j => { j with last := last })

/-- R356, R360: core `c` finishes its job, returns the leases, and the output is written. -/
def execCipherJobDone (c : Nat) (s : State) : Res := whenLive s <|
  match mget s.keys.cores c with
  | some g =>
    match (ringJobs s g.ring)[g.next]? with
    | some j =>
      if g.busy && j.st == .running then
        let x := runJob j j.key g.carry
        let s := returnLeases s j
        let s := updJob s g.ring g.next (fun j => { j with st := .done, status := .ok })
        let s := jobOutput s g.ring g.next j x.2
        .next (bumpBy (coreOn s c { g with carry := x.1 } j) (R.cipCntCount 1) (jobBlocks j))
      else .next s
    | none => .next s
  | none => .next s

/-- Post one completion: STATUS and DONE in the descriptor, HEAD and the counters (R355, R358). -/
def postJob (r : Nat) (s : State) (j : JobS) : State :=
  let n := cipSize s r
  let head := rd s (R.cipRingStatHead r)
  let addr := rd s (R.cipRingBaseAddr r) * 64 + head * 64 + 0x18
  let s := ringWrite s r addr (toLe 2 (Config.statusCode j.status).toNat ++ [0, 0x80])
  let s := if n = 0 then s else wr s (R.cipRingStatHead r) ((head + 1) % n)
  let s := bump s (R.cipCntCount 0)
  match j.status with
  | .keyErased => bump s (R.cipCntCount 3)
  | .invalid => bump s (R.cipCntCount 4)
  | _ => s

/-- The group's last job compares its output with EXPECT and they differ (R358). -/
def tagDiffers (g : List JobS) : Bool :=
  match g.getLast? with
  | some j => jobOut j == 2 && j.status == .ok && decide (0 < jobBlocks j) &&
      j.last.take (jobTagLen j) != (slice j.desc 0x30 16).take (jobTagLen j)
  | none => false

/-- R358: the group at the head of ring `r` has ended: its tag is compared and every member's completion
is posted together. -/
def execCipherGroupComplete (r : Nat) (s : State) : Res := whenLive s <|
  let l := ringJobs s r
  let n := groupLen l
  let g := l.take n
  if g = [] ∨ !(g.all (fun j => j.st == .done)) ∨ (g.getLast?.any jobLink) then .next s
  else
    let bad := tagDiffers g
    let s := if bad then endGroup true (bump s (R.cipCntCount 2)) r 0 n .refusedUnauthenticated else s
    let g := (ringJobs s r).take n
    let s := g.foldl (postJob r) s
    let s := setJobs s r ((ringJobs s r).drop n)
    let cores := s.keys.cores.map (fun c => if c.2.ring = r then (c.1, { c.2 with next := c.2.next - n }) else c)
    let s := { s with keys := { s.keys with cores := cores } }
    .next (if r = 2 then raiseVec s 0 82 else s)

/-! ### The signature verifier (R363, R364) -/

/-- R363: one request served: function 1 SHA-384, 2 ECDSA, 3 ML-DSA, 4 ECDH, 5 ML-KEM, over the public
key or ciphertext `pub`, the message `msg` and the signature `sig`. -/
def execSigRequest (func : Nat) (pub msg sig : List Byte) (s : State) : Res := whenLive s <|
  match func with
  | 2 => .next (sigCount s false (Config.ecdsaOk pub msg sig))
  | 3 => .next (sigCount s false (Config.mldsaOk pub msg sig))
  | 4 => .next (match s.keys.devEcdh with
      | some d => sigCount s true (Config.ecdh d pub).isSome
      | none => sigCount s true false)
  | 5 => .next (match s.keys.devKem with
      | some z => sigCount s true (Config.mlkemDecaps z pub).isSome
      | none => sigCount s true false)
  | _ => .next s

/-- R364: in LOAD the verifier derives the device key pairs from slot 0. -/
def execDeviceKeyDerive (s : State) : Res := whenLive s <|
  if modeIn s [.load] && !rdB s R.keyStatZeroized && rd s (R.keySlotState 0) == 2 then
    let k0 := slotKey s 0
    let d := beNat (kdf k0 "SKDK-ECDH" [] 4) % (Config.p384Order - 1) + 1
    let z := kdf k0 "SKDK-MLKEM" [] 4
    .next (wr { s with keys := { s.keys with devEcdh := some d, devKem := some z } } R.keyStatDevkeys 1)
  else .next s

end Sys2Proof.Machine
end

