-- ==== Sys2Proof/Machine/Observe.lean ====
section
/-!
DEFINITION. Programmable counters, matches, the user counter windows, the sampler's buffer, the indirect windows,
the SMBus target, the IEEE 1149.1 port, and Freeze Frame up to its end (chapters 17 to 19).
-/

namespace Sys2Proof.Machine

open Sys2Proof

/-! ### Counters -/

/-- R440, R442, R444: a write of `v` to CTR_SEL[n]. `inc` and `incEven`: what the counter and its even neighbour
count, under the old selection, in the CTL cycle in which the write arrives. -/
def execCtrSelWrite (n v inc incEven : Nat) (s : State) : Res := whenClocked s <|
  if 512 ≤ n then .next s
  else if !selOk n v then .next (wr s R.ctrStatSelErr 1)
  else
    let chain := rd s (R.ctrSelChain n) != bits v 33 1
    let ovf := wouldOvf s n inc || (chain && n % 2 == 1 && wouldOvf s (n - 1) incEven)
    let s := if n % 2 = 1 ∧ incEven ≠ 0 then countProg s (n - 1) incEven else s
    let s := if inc ≠ 0 then countProg s n inc else s
    let s := applySel s n v
    .next (if ovf then wrs s [(R.ctrStatOvfAtChange, 1), (R.ctrStatPair, n / 2)] else s)

/-- R444: a write of `v` to CTR_VAL[n]; `inc` is what the counter counts in that cycle. -/
def execCtrValWrite (n v inc : Nat) (s : State) : Res := whenClocked s <|
  if 512 ≤ n then .next s
  else
    let v := v % 2 ^ 48
    let old := rd s (R.ctrValCount n)
    let t := countProg (wr s (R.ctrValCount n) v) n inc
    if v + inc < 2 ^ 48 ∧ old < v then .next ((List.range 4).foldl (matchStep n old v) t) else .next t

/-- R440–R442: a counter that counts a domain's cycles adds those of a CTL cycle and passes 2^48. -/
def execCounterOverflow (n inc : Nat) (s : State) : Res := whenLive s <|
  if n < 512 ∧ rd s (R.ctrSelSrc n) = 2 ∧ !rdB s (R.ctrSelChain n) ∧ wouldOvf s n inc then .next (countProg s n inc)
  else .next s

/-- R445: the counter that match unit `j` watches counts `inc` cycles of its domain and reaches VALUE. -/
def execMatchFire (j inc : Nat) (s : State) : Res := whenLive s <|
  let n := rd s (R.ctrMatchCounter j)
  if j < 4 ∧ rd s (R.ctrSelSrc n) = 2 ∧ !rdB s (R.ctrSelChain n) then .next (countProg s n inc) else .next s

/-- Host function `r` reaches page `k` of BAR2: PF0 every page, VF k page k through its own BAR2 (R320, R469). -/
def reachesPage (r k : Nat) : Bool :=
  if r = 1 then decide (k < 256) else decide (3 ≤ r) && decide (r ≤ 18) && decide (r = k + 2)

/-- R449: an access of page `k`'s counter window; a write, or a read the page may not make, sets USER_DENIED. -/
def execCounterWindowAccess (r k slot : Nat) (write narrow : Bool) (s : State) : Res := whenClocked s <|
  let s := dropLatch s r
  if !reachesPage r k ∨ 256 ≤ slot then .next s
  else if narrow then
    let s := hifErr s R.hifErrStatNarrow
    .next (if write then s else emit s (.read r 0xFFFFFFFF 4))
  else
    let i := rd s (R.ctrUserEnBase k) + slot
    if !write ∧ rdB s (R.ctrUserEnEn k) ∧ slot < rd s (R.ctrUserEnCount k) ∧ i < 512 then
      .next (emit s (.read r (snapshot s i) 8))
    else
      let s := wr s (R.ctrUserEnUserDenied k) 1
      .next (if write then s else emit s (.read r 0 8))

/-! ### The sampler's buffer -/

/-- R451: the oldest record of a quadrant's FIFO is written to the buffer, unless STOP holds it. -/
def execSampleRecord (q : Nat) (s : State) : Res := whenLive s <|
  match mgetD s.ctr.smpFifo q [] with
  | r :: l =>
    if rdB s R.smpCtlStop then .next s
    else .next (writeSample { s with ctr := { s.ctr with smpFifo := mset s.ctr.smpFifo q l } } r)
  | [] => .next s

/-- R451: a write of 1 to SMP_CTL.CLEAR. -/
def execSmpClear (s : State) : Res := whenClocked s <|
  .next (syncSmp { s with ctr := { s.ctr with smpBuf := [], smpSeq := 0 } })

/-! ### Indirect windows -/

/-- R468: a read at BAR0 address `a` of a window. `bad`: an uncorrectable HBM read. -/
def execIndirectWindowRead (r a : Nat) (narrow bad : Bool) (s : State) : Res := whenClocked s <|
  if a < 0x8000000 ∨ 0x10000000 ≤ a then .next s
  else if narrow then .next (emit (hifErr s R.hifErrStatNarrow) (.read r 0xFFFFFFFF 4))
  else
    let (sp, q, x) := winByte s (a / 8 * 8)
    if winSize s sp q ≤ x then .next (emit (hifErr s R.hifErrStatUnmapped) (.read r 0 8))
    else if sp = 6 then
      let h := hbmRead s otherPort q x 8 (if bad then [(0, 1, 1)] else [])
      .next (emit h.st (.read r (if h.bad then 0 else leNat h.bytes) 8))
    else
      let b := spaceRead s sp q x
      .next (emit b.2 (.read r (leNat b.1) 8))

/-- R468: a write to a window has no effect. -/
def execIndirectWindowWrite (a : Nat) (s : State) : Res := whenClocked s <|
  if a < 0x8000000 ∨ 0x10000000 ≤ a then .next s else .next (hifErr s R.hifErrStatProtected)

/-! ### The SMBus target (R493) -/

/-- The packet error code over SMBus bytes: CRC-8 of polynomial 0x07. PRESUMED, the SMBus specification (log 23). -/
def pecBit : Nat → Nat → Nat
  | 0, c => c
  | n + 1, c => pecBit n (if c / 128 % 2 = 1 then (c * 2 % 256) ^^^ 7 else c * 2 % 256)

def pecOf (bs : List Byte) : Nat := bs.foldl (fun c b => pecBit 8 (c ^^^ b.toNat)) 0

/-- The highest known temperature of a range of units; 0xFFFF where none is known. -/
def highest (s : State) (lo n : Nat) : Nat :=
  ((upFrom lo n).filterMap (fun d => mget s.saf.temps d)).foldl (fun a t => if a = 0xFFFF then t else max a t) 0xFFFF

/-- The word of a command code; the power estimate is free. -/
def smbWord (s : State) (code : Nat) : Option Nat × State :=
  match code with
  | 1 => (some (highest s 0 4), s)
  | 2 => (some (highest s 4 4), s)
  | 3 => (some (highest s 16 4), s)
  | 4 => (some (modeNum (mode s) + rd s R.safStatSafeN * 256 + rd s R.safStatFaultN * 512), s)
  | 5 => let x := freeVal s 16; (some x.1, x.2)
  | 6 => (some (rd s R.idPartPart), s)
  | _ => (none, s)

/-- R493: a transaction on the SMBus to a 7-bit address: Read Word of a command code, or anything else. -/
def execSmbusReadWord (addr code : Nat) (readWord : Bool) (s : State) : Res := whenPowered s <|
  if addr ≠ 0x58 + s.mod.strapSmb % 8 ∨ modeIn s [.freeze] then .next s
  else match smbWord s (if readWord then code else 0) with
    | (some w, s) =>
      let b := toLe 2 w
      let pec := pecOf (toLe 1 (2 * addr) ++ toLe 1 code ++ toLe 1 (2 * addr + 1) ++ b)
      .next (emit s (.smbus (b ++ toLe 1 pec) false))
    | (none, s) => .next (emit s (.smbus [] true))

/-! ### IEEE 1149.1 (R430, R457, R458, R476) -/

/-- Balls outside the boundary scan (R476): lanes, PCIe and analog balls. -/
def scanned (n : String) : Bool :=
  !("SER_".isPrefixOf n || "PCIE_".isPrefixOf n || "HOLDUP_SENSE".isPrefixOf n || "THERMD".isPrefixOf n)

/-- IDCODE (R476). -/
def idcode (s : State) : Nat := 0x02800A6F + rd s R.idPartStep % 16 * 2 ^ 28

/-- The instructions that act only in FREEZE (R457). -/
def rushesIr (i : JtagIr) : Bool :=
  [.rushesReq, .rushesTdo, .hbmDump, .hbmDumpEnd].contains i

/-- R476: an instruction is loaded; `cells` is what is shifted into the boundary register. -/
def execJtagInstruction (i : JtagIr) (cells : List (String × Bool)) (s : State) : Res := act s <|
  let set := fun (s : State) (i : JtagIr) => { s with ctr := { s.ctr with jtag := i } }
  if s.mod.seq = .off then .next s
  else if rushesIr i ∧ !modeIn s [.freeze] then .next (set s .bypass)
  else match i with
    | .idcode => .next (emit (set s i) (.tdo (toLe 4 (idcode s))))
    | .samplePreload => .next { s with ctr := { s.ctr with jtag := i, preload := cells.filter (fun c => scanned c.1) } }
    | .extest => .next (s.ctr.preload.foldl (fun s c => emit s (.pin c.1 c.2)) (set s i))
    | .rushesTdo => .next { s with ctr := { s.ctr with jtag := i, rushesTo := true } }
    | .rushesReq => .next { s with ctr := { s.ctr with jtag := i, rushesTo := false } }
    | .scan =>
      if rdB s R.keyStatZeroized then .next (set { s with saf := { s.saf with scanOn := true } } i)
      else .next (wrStat s R.bstScanStatus .refusedMode)
    | .bypass => .next (set s i)
    | .hbmDump => .next (set s i)
    | .hbmDumpEnd => .next (set s i)

/-! ### Freeze Frame (R454–R460) -/

/-- R454: FREEZE is answered OK; its trigger follows 100 µs after the response. -/
def execFreeze (h : CmdHdr) (s : State) : Res := whenLive s <|
  .next (guarded s h (some 3) (fun s =>
    okay (if s.ctr.frzCmd.isSome then s else { s with ctr := { s.ctr with
      frzCmd := some h.requester, frzAt := if 32 ≤ h.mbx ∧ h.mbx < 64 then none else some (uptime s) } })))

/-- R454: FREEZE_N held low for 30 ns fires trigger 1 if PIN_EN arms it. -/
def execFreezeN (s : State) : Res := act s <|
  if rdB s R.frzCfgPinEn ∧ freezable s then .next (setTrigger s 1 0) else .next s

/-- R454–R456: the freeze controller takes the waiting trigger, or that of a FREEZE command 100 µs after its
response; a trigger without effect is forgotten. -/
def execFreezeTrigger (s : State) : Res := act s <|
  if !freezable s then .next { s with ctr := { s.ctr with frzReq := none, frzCmd := none, frzAt := none } }
  else match s.ctr.frzReq, s.ctr.frzCmd with
    | some (c, u), _ => .next (freezeNow s c u)
    | none, some r => .next (if s.ctr.frzAt.any (fun t => decide (t + 100000 ≤ uptime s)) then freezeNow s 2 r else s)
    | none, none => .next s

/-- The request of a rushes read that fails, with its status (R459). `valid`: UNIT and the range exist in the
directory, which the spec does not list. -/
def rushesRefusal (s : State) (space unit addr len : Nat) (valid : Bool) : Option Status :=
  if 3 < space ∨ (space = 2 ∧ (3 < unit ∨ hbmU s unit < addr + len ∨ addr % 64 ≠ 0 ∨ len % 64 ≠ 0)) ∨
      (space ≠ 2 ∧ !valid) then some .invalid
  else if (space = 1 ∨ space = 2) ∧ !s.ctr.frzDataRo then some .refusedMode
  else if space = 2 ∧ !bit s.ctr.frzDump unit then some .refusedMode
  else none

/-- R457–R460: a rushes request. `sec`: the unit belongs to the security island; `hurt`: granules of the range whose
re-read fails. Contents of chains, arrays and the directory are free. -/
def execRushesReq (space tag unit addr len : Nat) (valid sec : Bool) (hurt : List Nat) (s : State) : Res := act s <|
  if !modeIn s [.freeze] then .next s
  else match rushesRefusal s space unit addr len valid with
    | some c => .next (sendRushes s (rushesFrame space tag addr c [] 0))
    | none =>
      if space = 2 then
        let b := hbmPeek s unit addr len
        .next (sendRushes s (rushesFrame space tag addr .ok b (poisonedCount s unit addr len hurt)))
      else
        let r := if sec then (List.replicate len 0, s) else freeBytes s len
        .next (sendRushes r.2 (rushesFrame space tag addr .ok r.1 0))

/-- R460: HBM_DUMP starts the dump sub-mode for the stacks of a mask. -/
def execHbmDump (mask : Nat) (s : State) : Res := act s <|
  if modeIn s [.freeze] ∧ s.ctr.frzStep = 7 then .next { s with ctr := { s.ctr with frzDump := s.ctr.frzDump ||| (mask % 16) } }
  else .next s

/-- R460: HBM_DUMP_END returns the stacks to self-refresh. -/
def execHbmDumpEnd (s : State) : Res := act s <|
  if modeIn s [.freeze] then .next { s with ctr := { s.ctr with frzDump := 0 } } else .next s

/-! ### Link events -/

/-- R319, R321, R332: the PCIe link reaches L0 with the speed, lanes and mode it has trained to. `up.mask` is the set
of MSI-X vectors that host software has masked; the pending vectors that are not in it and the vectors held for the link
are raised again. The link then goes to `up.idle`, the state the host's power management gives it: L0, L1 or L2 (log
47). -/
def execPcieLinkL0 (speed width : Nat) (up : LinkUp) (s : State) : Res := whenClocked s <|
  if !s.host.refclk then .next s
  else
    let l := s.host.vecHeld ++ s.host.msixPend
    let s := { s with host := { s.host with link := .l0, vecHeld := [], msixMask := up.mask, msixPend := [] } }
    let s := wrs s [(R.hifLinkSpeed, speed), (R.hifLinkWidth, width), (R.hifLinkFlit, b2n up.flit)]
    let s := l.foldl (fun s v => raiseVec s v.1 v.2) s
    .next { s with host := { s.host with link := if up.idle = .down then .l0 else up.idle } }

/-- R395: the PCIe REFCLK appears and the HIF PLL locks. -/
def execPcieRefclkPresent (s : State) : Res := act s <| .next { s with host := { s.host with refclk := true } }

/-- R120: a front port's link goes down while no frame is being received. -/
def execPortLinkDown (p : Nat) (s : State) : Res := whenLive s <|
  if p < 512 ∧ rd s (R.pwrPortState p) = 2 ∧ ((mget s.cel.rx p).bind (·.frame)).isNone then
    .next (linkLost s p 3)
  else .next s

end Sys2Proof.Machine
end

