-- ==== Sys2Proof/Machine/Modes.lean ====
section
/-!
DEFINITION. TEST and the changes of mode after it (R173, R311, R388–R392, R427, R438, R439).
-/

namespace Sys2Proof.Machine

open Sys2Proof

/-! ### Checks of TEST (R390) -/

/-- A check fails: the first one names TEST_FAIL, and each is journalled. -/
def testFail (s : State) (n : Nat) : State :=
  if s.mod.failed.contains n then s
  else
    let s := if rd s R.modStatTestFail = 0 then wr s R.modStatTestFail n else s
    journal { s with mod := { s.mod with failed := s.mod.failed ++ [n] } } 0x0044 2 0 (.num n) 0 0

/-- The outcome of a stack's training is noted while TEST runs. -/
def noteTrained (s : State) (st : Nat) (ok : Bool) : State :=
  if modeIn s [.test] then
    let s := { s with mod := { s.mod with trained := mset s.mod.trained st ok } }
    if ok then s else testFail s 1
  else s

/-- A stack has trained: it serves, and its failed channels are retired without migration, spares first (R311, R316). -/
def stackTrained (s : State) (st : Nat) (bad : List Nat) : State :=
  let s := wr { s with hbm := { s.hbm with initial := s.hbm.initial.filter (· != st) } } (R.hbmStatState st) 3
  let s := (upFrom (64 * st) 64).foldl notePass s
  let bad := bad.filter (fun p => decide (p < 64))
  let s := (bad.filter (fun p => rd s (R.hbmPcRole st p) == 1) ++ bad.filter (fun p => rd s (R.hbmPcRole st p) != 1)).foldl
    (failChannel st) s
  finishUnpark (noteTrained s st true) st

/-- R311, R313: the initial training of stack `st` ends; `bad` lists the channels that failed. A rate change that was
held discards the pass, which runs again at the new rate. A stack that cannot be trained is journalled (INIT_ERR 4). -/
def execInitTrainingDone (st : Nat) (ok : Bool) (bad : List Nat) (s : State) : Res := whenLive s <|
  if 4 ≤ st ∨ !s.hbm.initial.contains st then .next s
  else if rdB s (R.hbmRateHeld st) then
    let s := bump s (R.hbmCntCount st 9)
    let s := setPinRate s st (rd s (R.hbmStatRate st)) (rd s (R.hbmRateTarget st))
    let s := wrs s [(R.hbmRateHeld st, 0), (R.hbmRateGo st, 0)]
    .next (wrStat s (R.hbmRateStatus st) .ok)
  else if ok then .next (stackTrained s st bad)
  else
    let s := { s with hbm := { s.hbm with initial := s.hbm.initial.filter (· != st) } }
    let s := memJournal (wrs s [(R.hbmStatState st, 6), (R.hbmStatInitErr st, 4)]) st 0 2 0 0 0
    .next (noteTrained s st false)

/-- Granule 0 of every slot of a stack's record space (region 4). -/
def clearRecords (s : State) (q : Nat) : State :=
  let a := hbmBase s q 4
  let b := hbmBase s q 5
  let inSpace := fun (k : Nat) =>
    decide (hkey q a ≤ k) && decide (k < hkey q b) && decide ((k - hkey q a) % 128 < 64) &&
      !chanDead s q (logCh (k - hkey q 0))
  { s with hbm := { s.hbm with
    mem := s.hbm.mem.filter (fun e => !inSpace e.1)
    poison := s.hbm.poison.filter (fun k => !inSpace k)
    lost := s.hbm.lost.map (fun e => if e.1 / 64 = q then (e.1, (e.2.1, true)) else e) } }

/-- R173: the clear of quadrant `q`'s record space ends. -/
def execRecordSpaceClearDone (q : Nat) (ok : Bool) (s : State) : Res := whenLive s <|
  if 4 ≤ q ∨ !modeIn s [.test] ∨ !memServes s q ∨ s.mod.cleared.contains q then .next s
  else if !ok then .next (testFail s 5)
  else .next (clearRecords { s with mod := { s.mod with cleared := s.mod.cleared ++ [q] } } q)

/-! ### Hold-up energy (R438, R439) -/

/-- The usable energy in µJ; none where the formula's divisor is not positive, or V0 is below VMIN. -/
def usableEnergy (load vmin v0 v1 : Nat) : Option Nat :=
  if v1 < v0 ∧ vmin ≤ v0 then some (load * (v0 ^ 2 - vmin ^ 2) / (v0 ^ 2 - v1 ^ 2)) else none

/-- CAUSE: the first case that holds in the order 4, 3, 2, 1; 0: the check passes. -/
def holdupCause (s : State) (vmin v0 v1 : Nat) (e : Option Nat) : Nat :=
  if s.saf.boardRecord.isNone then 4
  else if s.saf.pfwN then 3
  else if v0 < v1 + 2 then 2
  else if e.any (fun x => decide (45000 ≤ x)) && decide (vmin < v1) then 0
  else 1

/-- SAF_HOLDUP as a number. -/
def holdupWord (s : State) : Nat :=
  rd s R.safHoldupV0Mv + rd s R.safHoldupV1Mv * 2 ^ 16 + rd s R.safHoldupEUj * 2 ^ 32 + rd s R.safHoldupCause * 2 ^ 56

/-- E_UJ: free where the formula gives no value, or one that its field does not hold. -/
def showEnergy (s : State) (e : Option Nat) : State :=
  match e with
  | some x =>
    if x < 2 ^ 24 then wr s R.safHoldupEUj x
    else let y := freeVal s 24; wr y.2 R.safHoldupEUj y.1
  | none => let y := freeVal s 24; wr y.2 R.safHoldupEUj y.1

/-- R438 steps 2 and 3, 1 ms after TEST entry: V1 is sampled, HOLDUP_TEST deasserts and the energy is judged. -/
def execHoldupSample (v1 : Nat) (s : State) : Res := whenLive s <|
  if !modeIn s [.test] ∨ !s.saf.holdupTest ∨ uptime s < s.saf.modeSince + 10 ^ 6 then .next s
  else
    let s := emit { s with saf := { s.saf with holdupTest := false } } (.pin "HOLDUP_TEST" false)
    let v0 := s.saf.v0
    let vmin := rd s R.safHoldupCfgVminMv
    let e := usableEnergy (rd s R.safHoldupCfgLoadMw) vmin v0 v1
    let c := holdupCause s vmin v0 v1 e
    let s := wr (showEnergy (wr s R.safHoldupV1Mv v1) e) R.safHoldupCause c
    let s := { s with mod := { s.mod with holdup := some (c == 0) } }
    .next (if c = 0 then s else testFail (journal s 0x0045 2 0 (.num c) (holdupWord s) 0) 4)

/-! ### Pipes and groups (R390, R426–R428) -/

/-- A failing pipe of a quadrant is retired; the spare, loaded with its class, takes its port groups. -/
def testRetire (s : State) (q p : Nat) : State :=
  let s := raiseFault s 6 (unitOf q p) 0
  let sp := spareOf s q
  let g := groupsOf s q p
  let s := if sp = p ∨ sp = 15 ∨ g = [] then s
    else
      let (prog, cv, pv) := pipeLoad s q p
      g.foldl (fun s n => wr s (R.modXbarPg q n) sp) (loadProg s q sp prog cv pv)
  rotationLost (retirePipe s q p) q

/-- The slices of a quadrant's nine pipes. -/
def testPipes (bad : List Nat) (s : State) (q : Nat) : State :=
  let mine := (List.range 9).filter (fun p => bad.contains (9 * q + p))
  let s := (List.range 9).foldl (fun s p => pipeSlice s q p (!mine.contains p)) s
  match mine with
  | [] => s
  | [p] => testRetire s q p
  | _ => testFail s 2

/-- R221 holds among the groups that have not failed: each hardware kind that the image needs has a group of its
class in every quadrant. -/
def kindsHold (s : State) : Bool :=
  !flowAny s.img.running || [0, 1, 2].all (fun k => (List.range 4).all (fun q => (List.range 8).any (fun i =>
    let g := grpOf q i
    grpState s g == 1 && bit (grpStore s g).kinds k)))

/-- The slices of every engine group. -/
def testGroups (bad : List Nat) (s : State) : State :=
  let s := (List.range 32).foldl (fun s g =>
    let q := grpQuad g
    let ok := !bad.contains g
    let s := wrs s [(R.bstEngLast q, grpIdx g), (R.bstEngPass q, b2n ok), (R.bstEngCount q, rd s (R.bstEngCount q) + 1)]
    if ok then { s with saf := { s.saf with engPass := mset s.saf.engPass g (uptime s) } } else failGroup s g) s
  if kindsHold s then s else testFail s 3

/-- Every other check of TEST has its result. -/
def testJudged (s : State) : Bool :=
  (List.range 4).all (fun st => (mget s.mod.trained st).isSome &&
    (s.mod.cleared.contains st || s.mod.failed.contains 5 || mget s.mod.trained st == some false)) &&
  s.mod.holdup.isSome

/-! ### Entering SYNC and SERVE (R388, R389, R391) -/

/-- Timestamp corrections that firmware loads for a declared port: Naurn's characterization, free here (R272). -/
def loadCorr (s : State) (p : Nat) : State :=
  (upFrom 1 6).foldl (fun s c =>
    let a := freeVal s 32
    let b := freeVal a.2 32
    wrs b.2 [(R.macTsCorrRxPs (macQ p) (macM p) c, a.1), (R.macTsCorrTxPs (macQ p) (macM p) c, b.1)]) s

/-- Some port of the image has SCHED_TCS ≠ 0. -/
def anyScheduled (s : State) : Bool :=
  (List.range 64).any (fun g => (shutterLists (sec s 0xA g)).any (fun e => e.2.schedTcs != 0))

/-- SYNC becomes SERVE: where links were down for want of best-effort traffic in SYNC (R41), they train now. -/
def toServe (s : State) : State :=
  let ps := ((portDecls (sec s 1 0)).map (·.port)).filter (fun p => rd s (R.pwrPortState p) == 3 && !rdB s (R.pwrPortPd p))
  setMode (if syncBe s then s else ps.foldl (fun s p => wr s (R.pwrPortState p) 1) s) .serve

/-- Every check has passed: corrections are loaded, the mirror is rebuilt from flash after a power-on, a cold reset or
a freeze, declared ports train if the image allows best-effort traffic in SYNC (R41), and the mode becomes SYNC; a
class-S bit still set leads to SAFE at once (R389), and an image without scheduled classes to SERVE (R391). -/
def enterSync (s : State) : State :=
  let ps := (portDecls (sec s 1 0)).map (·.port)
  let s := ps.foldl loadCorr s
  let fresh := rd s R.pwrRstCauseCause ≤ 2 ∨ rdB s R.pwrRstCauseFromFreeze
  let s := if fresh then { s with saf := { s.saf with jMirror := s.saf.jFlash } } else s
  let s := ps.foldl (fun s p => wr s (R.pwrPortState p) (if rdB s (R.pwrPortPd p) then 0 else if syncBe s then 1 else 3)) s
  let s := setMode s .sync
  match (List.range 19).find? (bit (classSFaults s)) with
  | some c => enterSafe s c 0 0
  | none => if anyScheduled s then s else toServe s

/-- R390: every check of TEST has ended; `badPipes` (9q + p) and `badGroups` (8q + k) failed their slices. -/
def execTestComplete (badPipes badGroups : List Nat) (s : State) : Res := whenLive s <|
  if !modeIn s [.test] ∨ s.mod.tested ∨ !testJudged s then .next s
  else
    let s := testGroups badGroups ((List.range 4).foldl (testPipes badPipes) s)
    let s := { s with mod := { s.mod with tested := true } }
    .next (if s.mod.failed = [] then enterSync s else s)

/-- R391: with valid time and every scheduled list running, SYNC becomes SERVE. -/
def execServeEntry (s : State) : Res := whenLive s <|
  let lists := s.tim.oper.filter (fun e => e.2.cycle != 0)
  if modeIn s [.sync] ∧ timeValid s ∧ lists.all (fun e => rdB s (R.shtPortBaseRun (macQ e.1) (macM e.1))) then
    .next (toServe s)
  else .next s

/-- R439: HOLDUP_OVERRIDE. -/
def execHoldupOverride (h : CmdHdr) (s : State) : Res := whenLive s <|
  .next (guarded s h (some 3) (fun s =>
    if isS s then refuse .invalid s
    else if !modeIn s [.test] then refuse .refusedMode s
    else if s.mod.failed ≠ [4] then refuse .invalid s
    else
      let s := wrs s [(R.safStatHoldupOvr, 1), (R.modStatTestFail, 0)]
      let s := journalFull s 0x0045 1 h.requester 0 (.num (rd s R.safHoldupCause)) (holdupWord s) (cmdWho h) 0
      let s := { s with mod := { s.mod with failed := [], holdup := some true } }
      okay (if s.mod.tested then enterSync s else s)))

/-- R392, R422: SAFE_EXIT. -/
def execSafeExit (h : CmdHdr) (s : State) : Res := whenLive s <|
  .next (guarded s h (some 3) (fun s =>
    if !modeIn s [.safe] then refuse .refusedMode s
    else if classSFaults s ≠ 0 then refuse .busy s
    else
      let s := setMode (wr s R.modStatSplicePaused 0) (if s.img.part.isSome then .splice else .serve)
      let s := journalFull s 0x0043 1 h.requester 0 (.num 0) (cmdWho h) 0 0
      okay (spliceGroups ((List.range 4).foldl syncNext s))))

end Sys2Proof.Machine
end

