-- ==== Sys2Proof/Machine/Ports.lean ====
section
/-!
DEFINITION. Front ports' low-power state and training, and the parking of quadrants (R399, R400).
-/

namespace Sys2Proof.Machine

open Sys2Proof

/-! ### Ports (R399) -/

/-- The port has a valid reservation. -/
def portReserved (s : State) (p : Nat) : Bool := reservedQueues s p != []

/-- Copies queued for a port are dropped. -/
def dropPortCopies (s : State) (p reason : Nat) : State :=
  let l := s.cel.copies.filter (fun e => e.2.port == p && e.2.st == .queued)
  l.foldl (fun s e => dropQueued s e.1 reason) s

/-- The links of declared port `p` may train: traffic runs, in SYNC if the image allows best-effort there (R41). -/
def linkMay (s : State) (p : Nat) : Bool :=
  decide (p < 512) && (portDecl s p).isSome && carries s && !rdB s (R.pwrPortPd p) && (!modeIn s [.sync] || syncBe s)

/-- R399: a management core writes PD = 1. -/
def execPortPowerDown (r p : Nat) (s : State) : Res := whenLive s <|
  let s := dropLatch s r
  if 512 ≤ p then .next s
  else if !isCore r then .next (protectedWrite s r)
  else if portReserved s p ∨ rdB s (R.pwrPortPd p) then .next s
  else
    let s := wr s (R.pwrPortPd p) 1
    if (portDecl s p).isNone ∨ !carries s then .next s
    else
      let s := linkLost (wr s (R.pwrPortRetrain p) 0) p 0
      .next (dropPortCopies (stopInput s p) p 0x10)

/-- R399: a management core writes PD = 0. -/
def execPortPowerUp (r p : Nat) (s : State) : Res := whenLive s <|
  let s := dropLatch s r
  if 512 ≤ p then .next s
  else if !isCore r then .next (protectedWrite s r)
  else if quadParked s (macQ p) ∨ !rdB s (R.pwrPortPd p) then .next s
  else
    let s := wr s (R.pwrPortPd p) 0
    .next (if (portDecl s p).isNone ∨ !carries s then s else wr s (R.pwrPortState p) (if linkMay s p then 1 else 3))

/-- R399: a management core writes RETRAIN = 1. -/
def execPortRetrain (r p : Nat) (s : State) : Res := whenLive s <|
  let s := dropLatch s r
  if 512 ≤ p then .next s
  else if !isCore r then .next (protectedWrite s r)
  else if !linkMay s p then .next s
  else .next (stopInput (linkLost (wr s (R.pwrPortRetrain p) 1) p 1) p)

/-- R399: the training of port `p` ends, and its link is up; a link that was lost trains again by itself (log 36). -/
def execPortTrainDone (p : Nat) (s : State) : Res := whenLive s <|
  if p < 512 ∧ (rd s (R.pwrPortState p) = 1 ∨ rd s (R.pwrPortState p) = 3 ∧ linkMay s p) then
    .next (wrs s [(R.pwrPortState p, 2), (R.pwrPortRetrain p, 0)]) else .next s

/-! ### Parking (R400) -/

/-- The FAB links of a quadrant: its links to the others and to the control die. -/
def fabLinks (q : Nat) : List Nat :=
  match q with
  | 0 => [0, 1, 2, 6]
  | 1 => [0, 3, 4, 7]
  | 2 => [1, 3, 5, 8]
  | _ => [2, 4, 5, 9]

/-- The quadrants of a FAB link. -/
def fabEnds (l : Nat) : List Nat := (List.range 4).filter (fun q => (fabLinks q).contains l)

/-- The quadrant's pools hold cells. -/
def poolsHold (s : State) (q : Nat) : Bool := s.cel.cells.any (fun e => ptrQuad e.1 == q)

/-- A request of R400 is refused, or waits for the quadrant's pools to drain. -/
def parkRefusal (s : State) (q : Nat) : Option Status :=
  if !modeIn s [.sync, .serve] then some .refusedMode
  else if flowAny s.img.running || (portDecls (sec s 1 0)).any (fun d => macQ d.port == q && !rdB s (R.pwrPortPd d.port)) then
    some .invalid
  else none

/-- R400: a management core sets bit `q` of PWR_PARK.REQ. -/
def execQuadrantPark (r q : Nat) (s : State) : Res := whenLive s <|
  let s := dropLatch s r
  if 4 ≤ q then .next s
  else if !isCore r then .next (protectedWrite s r)
  else if quadParked s q ∨ (mget s.mod.parking q).isSome then .next s
  else
    let s := wr s R.pwrParkReq (setBit (rd s R.pwrParkReq) q)
    match parkRefusal s q with
    | some c => .next (wrStat s R.pwrParkStatus c)
    | none => .next { s with mod := { s.mod with parking := mset s.mod.parking q (uptime s) } }

/-- R400: the cells have drained: clocks stop, the stack enters self-refresh with its debt repaid, and the fabric's
links go idle. -/
def execParkComplete (q : Nat) (s : State) : Res := whenLive s <|
  if (mget s.mod.parking q).isNone ∨ poolsHold s q then .next s
  else
    let s := { s with mod := { s.mod with parking := mdel s.mod.parking q } }
    let s := wr s R.pwrParkParked (setBit (rd s R.pwrParkParked) q)
    let s := if rd s (R.hbmStatState q) = 3 then wr (repayDebt s q) (R.hbmStatState q) 4 else s
    let s := (fabLinks q).foldl (fun s l => if rd s (R.fabLinkState l) = 1 then wr s (R.fabLinkState l) 0 else s) s
    .next (wrStat (syncNext s q) R.pwrParkStatus .ok)

/-- R400: 1 s after the request the pools still hold cells. -/
def execParkDrainTimeout (q : Nat) (s : State) : Res := whenLive s <|
  if (mget s.mod.parking q).any (fun t => decide (t + 10 ^ 9 ≤ uptime s)) ∧ poolsHold s q then
    let s := { s with mod := { s.mod with parking := mdel s.mod.parking q } }
    .next (wrStat s R.pwrParkStatus .busy)
  else .next s

/-- A parked quadrant starts its return: the PLL relocks, the links run, the stack retrains, and one full rotation
follows. -/
def beginUnpark (s : State) (q : Nat) : State :=
  let s := { s with mod := { s.mod with unparking := mset s.mod.unparking q false }
                    pipe := { s.pipe with rotSteps := mdel s.pipe.rotSteps q } }
  let up := fun (s : State) (l : Nat) => (fabEnds l).all (fun e => !quadParked s e || (mget s.mod.unparking e).isSome)
  let s := (fabLinks q).foldl (fun s l =>
    if rd s (R.fabLinkState l) = 0 ∧ up s l then wr s (R.fabLinkState l) 1 else s) s
  syncNext (startTraining s q) q

/-- R400: a management core clears bit `q` of PWR_PARK.REQ. -/
def execQuadrantUnpark (r q : Nat) (s : State) : Res := whenLive s <|
  let s := dropLatch s r
  if 4 ≤ q then .next s
  else if !isCore r then .next (protectedWrite s r)
  else
    let s := wr s R.pwrParkReq (clrBit (rd s R.pwrParkReq) q)
    let s := { s with mod := { s.mod with parking := mdel s.mod.parking q } }
    .next (if quadParked s q ∧ (mget s.mod.unparking q).isNone then beginUnpark s q else s)

end Sys2Proof.Machine
end

