-- ==== Sys2Proof/Machine/Views.lean ====
section
/-!
DEFINITION. Reading a register (R13–R17): each field's stored value, or, for a live field that other state decides, the
value that state gives.
-/

namespace Sys2Proof.Machine

open Sys2Proof

/-! ### Live fields -/

/-- Microseconds since the last passed slice, largest among units, saturating at 16 bits. -/
def ageUs (s : State) (l : List Nat) : Nat := min 65535 (l.foldl (fun a t => max a ((uptime s - t) / 1000)) 0)

/-- Tasks of a quadrant that hold an ordering slot, and the side queue (TSK_REL_STAT). -/
def ordered (s : State) (q : Nat) : Nat := (s.eng.tasks.filter (fun e => e.2.quad == q && e.2.ordered && e.2.admitted)).length

/-- The oldest take among the packets in a pipe's ingress section (STG_TAKE_SEEN). -/
def takesSeen (s : State) (q p : Nat) : List Nat :=
  (s.cel.frames.filter (fun e => e.2.quad == q && e.2.pipe == p && e.2.phase != .done)).map (fun e => busTake e.2.bus)

/-- Live fields of the control die. -/
def ctlView (s : State) (home lo : Nat) : Option Nat :=
  let at' := fun (a n st : Nat) => if a ≤ home ∧ home < a + n * st then some ((home - a) / st) else none
  if home = 0x50008 ∧ lo = 0 then some (nowNs s)
  else if home = 0x50018 ∧ lo = 16 then
    some (match s.tim.holdStart with
      | some t => min 65535 ((uptime s - t) / 10 ^ 9)
      | none => 0)
  else if home = 0x100 ∧ lo = 32 then some (min (2 ^ 32 - 1) ((uptime s - s.saf.modeSince) / 10 ^ 6))
  else if home = 0x20008 ∧ s.host.link = .down then some 0
  else match at' 0x78000 4 8, at' 0x78020 4 8, at' 0x81000 512 8, at' 0x91018 64 0x40 with
    | some q, _, _, _ =>
      if lo = 16 then some (ageUs s (((List.range 9).filter (fun p => pipeServes s (9 * q + p))).map
        (fun p => mgetD s.saf.pipePass (9 * q + p) 0))) else none
    | _, some q, _, _ =>
      if lo = 16 then some (ageUs s (((List.range 8).filter (fun k => grpState s (8 * q + k) == 1)).map
        (fun k => mgetD s.saf.engPass (8 * q + k) 0))) else none
    | _, _, some n, _ =>
      if lo = 48 then some (if n % 2 = 0 ∧ rdB s (R.ctrSelChain (n + 1)) then rd s (R.ctrValCount (n + 1)) % 2 ^ 16 else 0)
      else none
    | _, _, _, some i =>
      if lo = 32 then (mget s.clu.peers i).map (fun p => min (2 ^ 32 - 1) ((uptime s - p.heard) / 10 ^ 6)) else none
    | _, _, _, _ => none

/-- Live fields of a quadrant's window, at offset `o`. -/
def quadView (s : State) (q o lo : Nat) : Option Nat :=
  if 0x800000 ≤ o ∧ o < 0x802000 ∧ o % 0x40 = 0x10 ∧ lo = 16 then some (gatesNow s (128 * q + (o - 0x800000) / 0x40))
  else if o = 0x300018 then some (uptime s / 10 ^ 9 % 2 ^ 16)
  else if 0x301000 ≤ o ∧ o < 0x301400 ∧ lo = 32 then some (learnedOn s (128 * q + (o - 0x301000) / 8))
  else if o = 0x400028 then
    let l := s.flo.lines.filter (fun e => lineQuad e.1 == q && e.2.st == .filling)
    if lo = 0 then some l.length else some ((l.map (fun e => e.2.hold.length)).sum)
  else if o = 0x400030 ∧ lo = 0 then some (pinnedIn s q)
  else if o = 0x400048 ∧ lo = 0 then some (uptime s / 2 ^ 20 % 2 ^ 24)
  else if o = 0x400050 ∧ lo = 0 then some ((List.range 64).filter (fun i => rdB s (R.fltQuarValid q i))).length
  else if o = 0x408000 then
    some (s.flo.frag.filter (fun e => e.1 / 2 ^ 14 == q && !fragExpired s e.2)).length
  else if 0x500000 ≤ o ∧ o < 0x510000 then
    let g := 8 * q + (o - 0x500000) / 0x2000
    let r := (o - 0x500000) % 0x2000
    if r = 8 ∧ lo = 4 then some (dispMode s)
    else if r = 8 ∧ lo = 8 then some (grpCtxs s g).length
    else if r = 0x20 ∧ lo = 0 then some (grpQueued s g)
    else if r = 0x20 ∧ lo = 16 then some (grpSetups s g)
    else none
  else if o = 0x5F0000 then
    if lo = 0 then some (ordered s q) else some (mgetD s.eng.side q []).length
  else if o = 0x5F0010 then
    let d := rd s (R.tskDomSelDomain q)
    if lo = 0 then some (domOf s q d).1 else if lo = 16 then some (domOf s q d).2 else some (domOut s q d)
  else if o < 9 * 0x20000 ∧ o % 0x20000 = 0x8008 then
    let l := takesSeen s q (o / 0x20000)
    if lo = 0 then
      match l with
      | [] => none
      | t :: l => some (l.foldl (fun a b => if serialNewer 16 a b then b else a) t)
    else some (b2n l.isEmpty)
  else none

/-- Fields whose value follows from other state at every moment. -/
def liveView (s : State) (home lo : Nat) : Option Nat :=
  if 0x1000000 ≤ home ∧ home < 0x5000000 then quadView s (home / 0x1000000 - 1) (home % 0x1000000) lo
  else ctlView s home lo

/-- The value a read shows in one field (R16); a status code is shown as its number. -/
def readField (s : State) (home : Nat) (f : FieldDesc) : Nat :=
  if f.acc = .wo then 0
  else if f.stat then statNum s (fieldOf home f)
  else (liveView s home f.lo).getD (rd s (fieldOf home f))

/-- A 64-bit read: every field's value; reserved bits are free (R16). -/
def readReg (s : State) (d : RegDesc) (home : Nat) : Nat × State :=
  let r := freeVal s 64
  (d.fields.foldl (fun v f => putBits v f.lo f.wid (readField s home f)) r.1, r.2)

end Sys2Proof.Machine
end

