-- ==== Sys2Proof/Machine/Registers.lean ====
section
/-!
DEFINITION. Register accesses from outside: what a written value sets in motion, accesses to 64-only and to unmapped
addresses, and writes the host may not make.
-/

namespace Sys2Proof.Machine

open Sys2Proof

/-! ### What a written value sets in motion -/

/-- The boot flash keeps a copy of the fields that it restores (R17, R386, R431). -/
def keepInFlash (s : State) (d : RegDesc) (home : Nat) : State :=
  d.fields.foldl (fun s f =>
    if f.src == .flash then
      { s with flashRegs := mset s.flashRegs (fkey (fieldOf home f)) (rd s (fieldOf home f)) }
    else s) s

/-- MOD_ROT after a write by `who`; on SK10240-S a write that clears a bit has no effect (R404). -/
def rotWritten (old s : State) (who : Nat) : State :=
  let o := rd old R.modRotEn
  let v := rd s R.modRotEn
  let back := wr s R.modRotEn o
  if v = o ∨ (isS old ∧ (o &&& (15 - v)) ≠ 0) then back else setRot back who v

/-- IMG_BOOT or MOD_FW.SLOT_NEXT after a write: a change rewrites the boot record (R484). -/
def bootWritten (old s : State) : State :=
  let vals := fun (x : State) => (rd x R.modFwSlotNext, rd x R.imgBootSlot, rd x R.imgBootFallbackEn)
  if vals old = vals s then s else writeBoot s (rd s R.modFwSlotNext) (rd s R.imgBootSlot) (rdB s R.imgBootFallbackEn)

/-- TIM_CFG after a write: a HOLD_S at or below the time elapsed ends the holdover in progress (R268). -/
def holdWritten (s : State) : State :=
  match s.tim.holdStart with
  | some t => if rd s R.timCfgHoldS * 10 ^ 9 ≤ uptime s - t then holdExpired s else s
  | none => s

/-- The effects of a write to the register at `home` that are not in its fields. -/
def afterWrite (old s : State) (d : RegDesc) (home who : Nat) : State :=
  if home = R.modRotEn.addr then rotWritten old s who
  else if home = R.modFwSlotNext.addr ∨ home = R.imgBootSlot.addr then bootWritten old s
  else if home = R.timCfgHoldS.addr then holdWritten s
  else keepInFlash s d home

/-- R14: a 32-bit access to a 64-only register: a read returns 0xFFFF_FFFF, a write has no effect. -/
def execNarrowAccess (r addr : Nat) (write : Bool) (s : State) : Res := whenClocked s <|
  let s := dropLatch s r
  match regAt (addr - addr % 8) with
  | some (d, _) =>
    if d.only64 then
      let s := hifErr s R.hifErrStatNarrow
      .next (if write then s else emit s (.read r 0xFFFFFFFF 4))
    else .next s
  | none => .next s

/-- R15: an access to a BAR0 offset that holds no register, outside the indirect windows. -/
def execUnmappedAccess (r addr nbytes : Nat) (write : Bool) (s : State) : Res := whenClocked s <|
  let s := dropLatch s r
  if (regAt (addr - addr % 8)).isNone && (decide (addr < 0x8000000) || decide (0x10000000 ≤ addr)) then
    let s := hifErr s R.hifErrStatUnmapped
    .next (if write then s else emit s (.read r 0 nbytes))
  else .next s

/-- R322: a host write to a register only a management core writes. -/
def execProtectedWrite (r addr : Nat) (s : State) : Res := whenClocked s <|
  let s := dropLatch s r
  match regAt (addr - addr % 8) with
  | some (d, home) => .next (if mayWrite d home r then s else protectedWrite s r)
  | none => .next s

/-! ### Open and guarded register commands (R341, R342) -/

/-- REG_READ: the contents of `n` registers from `addr` on, without their read effects (R340, R341). -/
def readSeveral (s : State) (addr n : Nat) : List Byte × State :=
  (List.range n).foldl (fun p i =>
    match regAt (addr + 8 * i) with
    | some (d, home) =>
      let x := readReg p.2 d home
      (p.1 ++ toLe 8 x.1, x.2)
    | none => (p.1 ++ toLe 8 0, p.2)) ([], s)

/-- R341: REG_READ. -/
def execRegRead (h : CmdHdr) (addr n : Nat) (s : State) : Res := whenLive s <|
  .next (openCmd s h (fun s => let x := readSeveral s addr n; sizedResponse h x.1 x.2))

end Sys2Proof.Machine
end

