-- ==== Sys2Proof/Machine/Access.lean ====
section
/-!
DEFINITION. Writes of registers: 64-bit, 32-bit (R13) and masked (R342). A field whose writing has a command of its own
takes that command's effect, whichever access writes it.
-/

namespace Sys2Proof.Machine

open Sys2Proof

/-! ### Fields whose writing has a command of its own -/

/-- A write that takes effect in a register: its requester, the register's instance numbers, the value, the bits
written, and the register's bits after it. -/
structure OwnWrite where
  who : Nat
  i : Nat
  j : Nat
  k : Nat
  val : Nat
  mask : Nat
  now : Nat

/-- A 1 is written to bit `n`. -/
def OwnWrite.one (w : OwnWrite) (n : Nat) : Bool := bit (w.val &&& w.mask) n

/-- Some bit of a field is written. -/
def OwnWrite.hits (w : OwnWrite) (lo wid : Nat) : Bool := bits w.mask lo wid != 0

/-- The state a command ends in. -/
def ran (s : State) (r : Res) : State :=
  match r with
  | .next t => t
  | _ => s

/-- A command that runs where its bit is written. -/
def onBit (b : Bool) (f : State → Res) (s : State) : State := if b then ran s (f s) else s

/-- PWR_DOM_RST.GO (R397). -/
def domWritten (w : OwnWrite) (s : State) : State :=
  let q := bits w.now 2 2
  let n := bits w.now 4 4
  onBit (w.one 8) (fun s => match bits w.now 0 2 with
    | 0 => execDomainResetPipe w.who q n s
    | 1 => execDomainResetGroup w.who q n s
    | 2 => execDomainResetStack w.who q n s
    | _ => execDomainResetCore w.who q n s) s

/-- PWR_PARK.REQ: a 1 parks its quadrant, a 0 brings it back (R400). -/
def parkWritten (w : OwnWrite) (s : State) : State :=
  (List.range 4).foldl (fun s q =>
    onBit (w.hits q 1) (if w.one q then execQuadrantPark w.who q else execQuadrantUnpark w.who q) s) s

/-- PWR_PORT: PD, then RETRAIN (R399). -/
def portWritten (w : OwnWrite) (s : State) : State :=
  let s := onBit (w.hits 0 1) (if w.one 0 then execPortPowerDown w.who w.i else execPortPowerUp w.who w.i) s
  onBit (w.one 1) (execPortRetrain w.who w.i) s

/-- TIM_ADJ.GO with the SET and STEP_NS it finds (R268, R269). -/
def adjWritten (w : OwnWrite) (s : State) : State :=
  let v := bits w.now 0 32
  onBit (w.one 33) (if bit w.now 32 then execTimAdjSet w.who v else execTimAdjStep w.who v) s

/-- TIM_CTL: LOCK, then LOSS (R268). A register write carries no network time, so its epoch stays (log 37). -/
def lockWritten (w : OwnWrite) (s : State) : State :=
  let s := onBit (w.one 0) (execLockDeclare w.who (bit w.now 2) (s.tim.netBase / 2 ^ 32)) s
  onBit (w.one 1) (execLossDeclare w.who) s

/-- CIP_RING_TAIL: the descriptors lie in memory that the model does not hold, so their bytes are free (log 37). -/
def tailWritten (w : OwnWrite) (s : State) : State :=
  let n := (w.val % 4096 + cipSize s w.i - mgetD s.keys.tail w.i 0) % cipSize s w.i
  let x := freeBytes s (64 * n)
  onBit (w.hits 0 12)
    (execCipherRingDoorbell w.who w.i w.val ((List.range n).map (fun d => slice x.1 (64 * d) 64))) x.2

/-- ENG_GRP_CTL: DRAIN, RETURN, ADOPT, RELEASE, in the order of their bits (R235, R236). -/
def grpWritten (w : OwnWrite) (s : State) : State :=
  let s := onBit (w.one 0) (execGroupDrain w.who w.i w.j) s
  let s := onBit (w.one 1) (execGroupReturn w.who w.i w.j) s
  let s := onBit (w.one 2) (execGroupAdopt w.who w.i w.j (bits w.now 8 3)) s
  onBit (w.one 3) (execGroupRelease w.who w.i w.j) s

/-- FLT_TEL_CFG: EXPORT_EN written 0 ends the templates sent since it became 1 (R199). -/
def telWritten (w : OwnWrite) (s : State) : State :=
  if w.hits 32 1 && !w.one 32 then { s with flo := { s.flo with tmplAt := [] } } else s

/-- The registers whose fields have commands of their own, or effects of their own, by base address, and what a write
sets in motion. -/
def ownTable : List (Nat × (OwnWrite → State → State)) := [
  (0x110, fun w => onBit (w.one 1) (execFwRestart w.who)),
  (0x240, fun w => onBit (w.one 4) (execHandoverGo w.who w.i (bits w.now 0 4))),
  (0x10008, domWritten),
  (0x10010, parkWritten),
  (0x11000, portWritten),
  (0x30000, fun w => onBit (w.hits 0 64) (execMbxDataWrite w.who w.i w.j w.now)),
  (0x34000, fun w => onBit (w.hits 0 64) (execMbxDoorbell w.who w.i w.now [])),
  (0x35000, fun w => onBit (w.hits 0 6) (execLockRelease w.who w.i w.val)),
  (0x35100, fun w => onBit (w.one 5) (execLckForce w.who (bits w.now 0 5))),
  (0x41010, tailWritten),
  (0x50010, fun w => onBit (w.hits 0 36) (execTimIncrementWrite w.who w.now)),
  (0x50030, adjWritten),
  (0x50038, lockWritten),
  (0x50040, fun w => onBit (w.hits 0 9) (execTimEpochAck w.who (bits (w.val &&& w.mask) 0 8) (w.one 8))),
  (0x50078, fun _ => followSynce),
  (0x60040, fun w s => if w.one 16 then startWdt s w.i else s),
  (0x60008, fun w => onBit (w.hits 0 23) (execFaultAck w.who (w.val &&& w.mask))),
  (0x78048, fun w => onBit (w.one 0) (execScanEnable w.who)),
  (0x80000, fun w => onBit (w.hits 0 35) (execCtrSelWrite w.i w.now 0 0)),
  (0x81000, fun w => onBit (w.hits 0 48) (execCtrValWrite w.i w.now 0)),
  (0x8e048, fun w => onBit (w.one 0) execSmpClear),
  (0x100028, fun w s => if w.one 2 then rateWritten s w.i (bits w.now 0 2) else s),
  (0x1401008, telWritten),
  (0x1500010, grpWritten),
  (0x1500018, fun w => onBit (w.one 16) (execEngInt w.who w.i w.j (bits w.now 0 6) (bits w.now 8 8))),
  (0x1500200, fun w => onBit (w.hits 0 32) (execFlagWrite w.who w.i w.j w.k (bits (w.val &&& w.mask) 0 32))),
  (0x1500420, fun w => onBit (w.one 0) (execTaskPost w.who w.i w.j)),
  (0x15f0018, fun w => onBit (w.one 32) (execTaskCancel w.who w.i (bits w.now 0 16) (bits w.now 16 16))),
  (0x1600500, fun w => onBit (w.one 32) (execCelFree w.who w.i (bits w.now 0 28))),
  (0x1800008, fun w => onBit (w.hits 0 33)
    (execGateListRun w.who (128 * w.i + w.j) (bits w.now 0 32) (bit w.now 32)))]

/-- What a write of value `v` to the bits `m` of the register at `home` sets in motion, after its plain fields. -/
def ownEffects (s : State) (d : RegDesc) (home who v m : Nat) : State :=
  match ownTable.find? (fun e => e.1 == d.base) with
  | some (_, f) =>
    let ix := (dimIdx d.dims (home - d.base)).getD []
    let full := 2 ^ 64 - 1
    let now := ((readReg s d home).1 &&& (full ^^^ m)) ||| (v &&& m)
    f ⟨who, listAt ix 0 0, listAt ix 1 0, listAt ix 2 0, v % 2 ^ 64, m, now⟩ s
  | none => s

/-! ### Writes -/

/-- R16: a 64-bit write by requester `r` to the register at `addr`. -/
def execRegisterWrite (r addr v : Nat) (s : State) : Res := whenClocked s <| settle s <|
  let s := dropLatch s r
  match regAt addr with
  | some (d, home) =>
    if !mayWrite d home r then .next s
    else if isReadOnly home then .next s
    else .next (ownEffects (afterWrite s (writeReg s d home v) d home r) d home r v (2 ^ 64 - 1))
  | none => .next s

/-- The 32-bit write of R13: the state after its plain fields, and the value and the bits that take effect. -/
def halfWrite (s : State) (d : RegDesc) (home r : Nat) (hi : Bool) (v : Nat) : State × Option (Nat × Nat) :=
  let v := v % 2 ^ 32
  let high := (v * 2 ^ 32, 2 ^ 64 - 2 ^ 32)
  if crosses d then
    if hi then
      match mget s.host.latches r with
      | some (.write a low) =>
        if a = home then (writeReg (dropLatch s r) d home (low + high.1), some (low + high.1, 2 ^ 64 - 1))
        else (writeHalfReg (dropLatch s r) d home true v, some high)
      | _ => (writeHalfReg (dropLatch s r) d home true v, some high)
    else
      ({ s with host := { s.host with latches := mset s.host.latches r (.write home v) } }, none)
  else (writeHalfReg (dropLatch s r) d home hi v, some (if hi then high else (v, 2 ^ 32 - 1)))

/-- What a read sets in motion in a register that is not 64-only: TIM_PPS_IN's NEW is cleared (R280). -/
def readEffect (s : State) (home : Nat) : State :=
  if home = R.timPpsInNew.addr then wr s R.timPpsInNew 0 else s

/-- The 32-bit read of R13: its value and the state after it. -/
def halfRead (s : State) (d : RegDesc) (home r : Nat) (hi : Bool) : Nat × State :=
  let x := readReg s d home
  let x := if dataHidden s home r then (0, x.2) else x
  if crosses d then
    if hi then
      match mget s.host.latches r with
      | some (.snap a high) => if a = home then (high, dropLatch s r) else (x.1 / 2 ^ 32, dropLatch x.2 r)
      | _ => (x.1 / 2 ^ 32, dropLatch x.2 r)
    else
      (x.1 % 2 ^ 32,
        { x.2 with host := { x.2.host with latches := mset x.2.host.latches r (.snap home (x.1 / 2 ^ 32)) } })
  else ((if hi then x.1 / 2 ^ 32 else x.1 % 2 ^ 32), readEffect (dropLatch x.2 r) home)

/-- R13: a 32-bit access by requester `r` to a register that is not 64-only; `addr` is 4-byte aligned. -/
def execHalfAccess (r addr : Nat) (write : Bool) (v : Nat) (s : State) : Res := whenClocked s <| settle s <|
  let hi := addr % 8 == 4
  match regAt (addr - addr % 8) with
  | some (d, home) =>
    if d.only64 then .next (dropLatch s r)
    else if write then
      if mayWrite d home r && !isReadOnly home then
        let x := halfWrite s d home r hi v
        let t := afterWrite s x.1 d home r
        match x.2 with
        | some (v, m) => .next (ownEffects t d home r v m)
        | none => .next t
      else .next (dropLatch s r)
    else
      let x := halfRead s d home r hi
      .next (emit x.2 (.read r x.1 4))
  | none => .next (dropLatch s r)

/-! ### REG_WRITE (R342) -/

/-- The mask selects a bit of a field marked RO or RL, or a value that has no effect (R342). -/
def maskBad (d : RegDesc) (home v m : Nat) : Bool :=
  d.fields.any (fun f =>
    bits m f.lo f.wid != 0 &&
      (f.acc == .ro || f.acc == .rl || isReadOnly home ||
        (f.acc == .rw && !okVal f.ok (bits v f.lo f.wid))))

/-- Write the fields selected by a mask; the bits of a selected field outside the mask keep their values. -/
def writeMasked (s : State) (d : RegDesc) (home v m : Nat) : State :=
  d.fields.foldl (fun s f =>
    let fm := bits m f.lo f.wid
    if fm = 0 then s
    else match f.acc with
      | .rw =>
        let old := rd s (fieldOf home f)
        writeField home s f ((old &&& ((2 ^ f.wid - 1) ^^^ fm)) ||| (bits v f.lo f.wid &&& fm))
      | _ => writeField home s f (bits v f.lo f.wid &&& fm)) s

/-- The REG_WRITE group of a register at an address; none where no group serves it (R342). -/
def regGroup (addr : Nat) : Option Nat :=
  match regAt addr with
  | some (d, _) => if d.grp = 99 then none else some d.grp
  | none => none

/-- On SK10240-S a write that disables a safety mechanism: stand-in rotation, or the Continuity sweep of a table in
the safety scope, whose period must be 1–8 ms (R3, R143). The journal record it leaves, if so. -/
def disables (old s : State) (home : Nat) : Option State :=
  if !isS old then none
  else if home = R.modRotEn.addr ∧ (rd old R.modRotEn &&& (15 - rd s R.modRotEn)) ≠ 0 then
    some (journal old 0x0046 1 0 (.code .invalid) (rd old R.modRotEn) 0)
  else
    let t := (home - (R.conTblPeriodMs 0).addr) / 0x10
    let p := rd s (R.conTblPeriodMs t)
    if home = (R.conTblPeriodMs t).addr ∧ t ≤ 256 ∧ (t = 256 ∨ inScope old t) ∧ (p = 0 ∨ 8 < p) then
      some (journal old 0x0051 2 t (.code .invalid) 0 0)
    else none

/-- REG_WRITE's own checks and effect; a management core makes the write (R342). -/
def regWrite (h : CmdHdr) (addr v m : Nat) (s : State) : CmdOut :=
  match regAt addr with
  | some (d, home) =>
    if d.grp = 99 ∨ !d.coreOnly ∨ maskBad d home v m then refuse .invalid s
    else
      let w := writeMasked s d home v m
      match disables s w home with
      | some x => refuse .invalid x
      | none =>
        let t := afterWrite s w d home h.requester
        sizedResponse h [] (ownEffects t d home (if isCore h.requester then h.requester else 32) v m)
  | none => refuse .invalid s

/-- R342: REG_WRITE (address, value, mask). -/
def execRegWrite (h : CmdHdr) (addr v m : Nat) (s : State) : Res := whenLive s <| settle s <|
  .next (guarded s h (regGroup addr) (regWrite h addr v m))


end Sys2Proof.Machine
end

