-- ==== Sys2Proof/Machine/Cluster.lean ====
section
/-!
DEFINITION. Meanings of the cluster rows (chapter 14): messages sent and received, timers, steered frames and
cluster commands. `port` and `frame` of a received message are its port and its frame without FCS.
-/

namespace Sys2Proof.Machine

open Sys2Proof

/-! ### Membership (R375, R376, R383–R385) -/

/-- R373, R375: every HB_MS a member sends HEARTBEAT to all peers; HB_MS = 0 sends none. -/
def execHeartbeatSend (s : State) : Res := whenLive s <|
  .next (if inCluster s && rd s R.cluCfgHbMs != 0 then sendHeartbeat s else s)

/-- Live members have shown different LAST_IDs for three heartbeats (R383). -/
def splitDetect (s : State) : State :=
  if actsDirector s && !rdB s R.cluStatSplit && (livePeers s).any (fun i => decide (3 ≤ (peerOf s i).diff)) then
    notice (cluJournal (wr s R.cluStatSplit 1) (deviceId s) 1) []
  else s

/-- A heartbeat refreshes its sender's liveness, time state and LAST_ID. -/
def hearPeer (s : State) (m : BMsg) : State :=
  let x := peerOf s m.src
  let newer := match x.hbBoot with
    | some b => decide (b < m.boot)
    | none => false
  let lastId := fieldBe m.payload 4 4
  let x := { x with prevHeard := if newer then some x.heard else x.prevHeard }
  let x := { x with
    hbBoot := some m.boot, acting := fieldBe m.payload 0 1, tstat := fieldBe m.payload 1 1, lastId := lastId,
    heard := uptime s, diff := if lastId = rd s R.cluCommitActLastId then 0 else x.diff + 1 }
  wr (putPeer s m.src x) (R.cluPeerState m.src) 1

/-- R375, R376, R383, R385: a HEARTBEAT arrives. -/
def execHeartbeat (port : Nat) (frame : List Byte) (s : State) : Res := whenLive s <|
  .next (onBolvis s 0x01 port frame (fun s m =>
    let s := hearPeer s m
    let s := if fieldBe m.payload 0 1 = 1 then termAdopt s m.src m.term else s
    let s := if fromDirector s m && !bit (fieldBe m.payload 1 1) 0 then crewTimeLoss s else s
    splitDetect s))

/-- R375, R384, R385: no heartbeat of peer `i` within MISS_COUNT × HB_MS. -/
def execPeerLost (i : Nat) (s : State) : Res := whenLive s <|
  if !inCluster s || decide (64 ≤ i) || !peerLive s i || rd s R.cluCfgHbMs == 0 || rd s R.cluCfgMissCount == 0 ||
      decide (uptime s < (peerOf s i).heard + rd s R.cluCfgMissCount * rd s R.cluCfgHbMs * 10 ^ 6) then .next s
  else
    let s := wr s (R.cluPeerState i) 2
    let s := bumpBy s (R.cluCntCount 7) (rd s R.cluCfgMissCount)
    let s := emit s (.coreInt "PEER_LOST" i)
    let s := if actsCrew s && rd s R.cluStatDirectorId == i then
        crewTimeLoss (wrs s [(R.cluStatDirLost, 1), (R.cluStatJoined, 0)]) else s
    .next (syncOrphan s)

/-- R384: the deputy, a Crew in SERVE, SPLICE or SAFE that has lost its Director, takes over. It renews the
leases that LEASE_SYNC has told it of. -/
def execDeputyTakeover (s : State) : Res := whenLive s <|
  if actsCrew s && rd s R.cluStatDeputyId == deviceId s && rdB s R.cluStatDirLost && modeIn s [.serve, .splice, .safe] then
    let s := actDirector s (knownTerm s + 1)
    let held := (s.clu.leases.filter (fun l => decide (uptime s < l.until_))).map (fun l =>
      (⟨l.pool, l.first, l.count, 2 ^ l.device⟩ : GrantS))
    .next (sendHeartbeat { s with clu := { s.clu with grants := held } })
  else .next s

/-- R375: a Crew that is not accepted sends JOIN. -/
def execJoinSend (s : State) : Res := whenLive s <|
  .next (if actsCrew s && !rdB s R.cluStatJoined then
    sendAll s 0x02 (toBe 1 (rd s R.cluStatDeputyId) ++ [0, 0, 0] ++ toBe 4 (rd s R.imgImageVerImageVer)) else s)

/-- What the acting Director answers a JOIN (R375). -/
def joinStatus (s : State) (m : BMsg) : Status :=
  if fieldBe m.payload 0 1 % 64 ≠ rd s R.cluStatDeputyId then .invalid
  else if peerLive s m.src && (peerOf s m.src).hbBoot != some m.boot then .noRoom
  else .ok

/-- R375: a JOIN arrives at the acting Director. -/
def execJoin (port : Nat) (frame : List Byte) (s : State) : Res := whenLive s <|
  .next (onBolvis s 0x02 port frame (fun s m =>
    if actsDirector s then
      sendTo s m.src 0x03 (statusBytes (joinStatus s m) ++ [0, 0] ++ toBe 4 (rd s R.cluCommitActLastId))
    else s))

/-- R375: JOIN_ACK arrives at a Crew that has not joined. -/
def execJoinAck (port : Nat) (frame : List Byte) (s : State) : Res := whenLive s <|
  .next (onBolvis s 0x03 port frame (fun s m =>
    if !actsCrew s || decide (m.term < rd s R.cluStatTerm) then s
    else if statusOf (fieldBe m.payload 0 2) = .ok then wr (followDirector s m.src m.term) R.cluStatJoined 1
    else bump s (R.cluCntCount 6)))

/-- R376: a TIME message carries one PTP message: sent to peer `dst` (`frame` is then the PTP message), or received.
A received one goes to firmware with its timestamps; the clock steering that follows has rows of its own. -/
def execTime (dst : Option Nat) (port : Nat) (frame : List Byte) (s : State) : Res := whenLive s <|
  match dst with
  | some i =>
    if actsDirector s || (actsCrew s && rd s R.cluStatDirectorId == i) then .next (sendTo s i 0x04 (frame.take 1024)) else .next s
  | none => .next (onBolvis s 0x04 port frame (fun s m =>
      if actsDirector s || fromDirector s m then emit s (.coreInt "TIME" m.src) else s))

/-! ### Rings (R377) -/

/-- R377: an SVC message arrives at a Crew. -/
def execSvc (port : Nat) (frame : List Byte) (s : State) : Res := whenLive s <|
  .next (onBolvis s 0x05 port frame (fun s m => if fromDirector s m then applySvc s m.payload else s))

/-- R377: a RING message arrives at a Crew. -/
def execRing (port : Nat) (frame : List Byte) (s : State) : Res := whenLive s <|
  .next (onBolvis s 0x06 port frame (fun s m => if fromDirector s m then applyRing s m.payload else s))

/-- R377: RESYNC arrives at the acting Director; service 0xFFFF names every service, and service 65,535 too. -/
def execResync (port : Nat) (frame : List Byte) (s : State) : Res := whenLive s <|
  .next (onBolvis s 0x07 port frame (fun s m =>
    let sv := fieldBe m.payload 0 2
    if !actsDirector s then s
    else if sv = 0xFFFF then
      ((List.range 65536).filter (fun x => svcDefined (svcEnt s x) || ringVer s x != 0)).foldl resendService s
    else resendService s sv))

/-! ### Leases (R378) -/

/-- R378: a LEASE arrives at its holder. -/
def execLease (port : Nat) (frame : List Byte) (s : State) : Res := whenLive s <|
  .next (onBolvis s 0x08 port frame (fun s m =>
    if fromDirector s m then
      takeLease s (fieldBe m.payload 0 2) (fieldBe m.payload 4 4) (fieldBe m.payload 8 4) (fieldBe m.payload 12 4)
    else s))

/-- R378: every 2 s the acting Director renews its leases. -/
def execLeaseRenew (s : State) : Res := whenLive s <|
  .next (if actsDirector s then s.clu.grants.foldl renewGrant s else s)

/-- R378: leases whose expiry has come end; LEASED stays where another lease covers an address. -/
def execLeaseExpire (s : State) : Res := whenLive s <|
  let due := s.clu.held.filter (fun h => decide (h.expiry ≤ uptime s))
  let keep := s.clu.held.filter (fun h => decide (uptime s < h.expiry))
  let s := { s with clu := { s.clu with held := keep } }
  let s := due.foldl (fun s h => bump (setLeased s h.pool h.first h.count false) (R.cluCntCount 8)) s
  .next (keep.foldl (fun s h => setLeased s h.pool h.first h.count true) s)

/-- R373, R384: the deputy records a lease. Its end by this device's own clock is 11 s after the message. -/
def execLeaseSync (port : Nat) (frame : List Byte) (s : State) : Res := whenLive s <|
  .next (onBolvis s 0x09 port frame (fun s m =>
    let b := m.payload
    if fromDirector s m && rd s R.cluStatDeputyId == deviceId s then
      recordLease s ⟨fieldBe b 0 2, fieldBe b 4 4, fieldBe b 8 4, fieldBe b 12 1 % 64, fieldBe b 16 4,
        uptime s + 11 * 10 ^ 9, fieldBe b 20 8⟩
    else s))

/-! ### Cluster commits (R382) -/

/-- R382: PREPARE arrives at a Crew: a local timed commit, and its vote. -/
def execPrepare (port : Nat) (frame : List Byte) (s : State) : Res := whenLive s <|
  .next (onBolvis s 0x0A port frame (fun s m =>
    let id := fieldBe m.payload 0 4
    let t := fieldBe m.payload 4 4
    if !fromDirector s m then s
    else
      let busy := s.take.cluster
      let o := commitTimed s t true
      let s := if busy then s
        else wrStat (wrs o.st [(R.cluCommitStatCommitId, id), (R.cluCommitActTAct, t),
          (R.cluCommitStatPhase, if o.status = .ok then 2 else 5)]) R.cluCommitStatStatus o.status
      sendTo s m.src 0x0B (toBe 4 id ++ statusBytes o.status)))

/-- R382: VOTE arrives at the acting Director. -/
def execVote (port : Nat) (frame : List Byte) (s : State) : Res := whenLive s <|
  .next (onBolvis s 0x0B port frame (fun s m =>
    match s.clu.commit with
    | some c =>
      if c.id ≠ fieldBe m.payload 0 4 ∨ c.go ∨ !c.crew.contains m.src ∨ c.votes.any (fun v => v.1 == m.src) then s
      else
        let c := { c with votes := c.votes ++ [(m.src, statusOf (fieldBe m.payload 4 2))] }
        if allVoted c then decideCommit s c else { s with clu := { s.clu with commit := some c } }
    | none => s))

/-- R382: at T_ACT − 600 µs the Director decides. -/
def execVoteDeadline (s : State) : Res := whenLive s <|
  match s.clu.commit with
  | some c => .next (if !c.go && pastLead s c.tAct 600 then decideCommit s c else s)
  | none => .next s

/-- R382: GO arrives at a Crew: it arms its commit and acknowledges. -/
def execGo (port : Nat) (frame : List Byte) (s : State) : Res := whenLive s <|
  .next (onBolvis s 0x0C port frame (fun s m =>
    let id := fieldBe m.payload 0 4
    if !fromDirector s m then s
    else if crewCommit s id 3 then sendTo s m.src 0x0D (toBe 4 id)
    else if !crewCommit s id 2 then s
    else if pastLead s (rd s R.cluCommitActTAct) 100 then cancelTimed s
    else sendTo (wr s R.cluCommitStatPhase 3) m.src 0x0D (toBe 4 id)))

/-- R382: every 50 µs GO is repeated, until T_ACT − 100 µs. -/
def execGoRepeat (s : State) : Res := whenLive s <|
  match s.clu.commit with
  | some c => .next (if c.go && !pastLead s c.tAct 100 then sendGo s c else s)
  | none => .next s

/-- R382: GO_ACK arrives at the acting Director. -/
def execGoAck (port : Nat) (frame : List Byte) (s : State) : Res := whenLive s <|
  .next (onBolvis s 0x0D port frame (fun s m =>
    match s.clu.commit with
    | some c =>
      if c.id = fieldBe m.payload 0 4 ∧ c.crew.contains m.src ∧ !c.acked.contains m.src then
        { s with clu := { s.clu with commit := some { c with acked := c.acked ++ [m.src] } } }
      else s
    | none => s))

/-- R382: ABORT arrives at a Crew. -/
def execAbort (port : Nat) (frame : List Byte) (s : State) : Res := whenLive s <|
  .next (onBolvis s 0x0E port frame (fun s m =>
    if fromDirector s m && crewCommit s (fieldBe m.payload 0 4) 2 then cancelTimed s else s))

/-- R382: at T_ACT − 100 µs a Crew without GO cancels. -/
def execCrewGoDeadline (s : State) : Res := whenLive s <|
  .next (if s.take.cluster && rd s R.cluCommitStatPhase == 2 && pastLead s (rd s R.cluCommitActTAct) 100 then
    cancelTimed s else s)

/-! ### Cluster keys (R374) -/

/-- A KEY_ROLL: T_SWITCH and the epoch it brings; at once without valid time. -/
def takeRoll (s : State) (epoch t : Nat) : State :=
  let s := wr s R.cluKeySwitchAt t
  if timeValid s then { wr s R.cluKeyRollPend 1 with clu := { s.clu with rollTo := epoch % 256 } }
  else wrs s [(R.cluKeyEpoch, epoch % 256), (R.cluKeyRollPend, 0)]

/-- R374: KEY_ROLL arrives. -/
def execKeyRoll (port : Nat) (frame : List Byte) (s : State) : Res := whenLive s <|
  .next (onBolvis s 0x0F port frame (fun s m =>
    if fromDirector s m then takeRoll s (fieldBe m.payload 0 1) (fieldBe m.payload 4 4) else s))

/-- R374: TIM_NOW has reached T_SWITCH, or the time is no longer valid. -/
def execKeySwitch (s : State) : Res := whenLive s <|
  .next (if rdB s R.cluKeyRollPend && (reached s (rd s R.cluKeySwitchAt) || !timeValid s) then
    wrs s [(R.cluKeyEpoch, s.clu.rollTo), (R.cluKeyRollPend, 0)] else s)

/-! ### Steering (R381) -/

/-- The inner frame of an accepted STEER frame enters at the Bolvis port; the outer FCS result is its own. -/
def steerIn (s : State) (p : Nat) (bytes : List Byte) (align : Nat) (witErr : Bool) : State :=
  let inner := slice bytes 94 (bhLen bytes)
  let b := inner ++ fcsOf inner
  let q := portQuad p
  let c := ownerClass s p inner
  let r := beginFrame s p q c (4 * p + c) (rxRecord s p align) (fingerprint s p inner) (b.take 192)
  match r.1 with
  | some h =>
    let s := (cutCells b.length (b.drop 192)).foldl (fun s x =>
      if ((mget s.cel.frames h).map (fun f => f.abortUnsent == 0)).getD false then addCell s h x else s) r.2
    match mget s.cel.frames h with
    | some f =>
      if f.abortUnsent ≠ 0 then s
      else if !fcsGood bytes then macAbort s h 0x01 false
      else goodEnd s h witErr
    | none => s
  | none => r.2

/-- R381: a STEER frame arrives on port `p`; `bytes` is the outer frame with its FCS. -/
def execSteer (p : Nat) (bytes : List Byte) (align : Nat) (witErr : Bool) (s : State) : Res := whenLive s <| settle s <|
  let rx := rxOf s p
  if 512 ≤ p ∨ !isBolvis s p ∨ !portUp s p ∨ !carries s ∨ rx.frame.isSome ∨ rx.discard ∨ !diverted s p bytes ∨
      bhVer bytes ≠ 1 ∨ bhType bytes ≠ 0x20 then .next s
  else
    let s := countBytes (bump s (R.ctrPortCount p 0)) p bytes.length
    if frameMax s p < bytes.length then .next (countDrop s 0x03 p)
    else if bhCluster bytes = rd s R.cluStatClusterId ∧ bolvisFrom s p bytes ∧ bytes.length = 98 + bhLen bytes then
      .next (steerIn (bump s (R.cluCntCount 9)) p bytes align witErr)
    else .next (bump (countDrop s 0x08 p) (R.cluCntCount 10))

/-! ### Commands (R386) -/

/-- A cluster command: refused by mode, or INVALID on a standalone device (R367). -/
def cluCommand (s : State) (h : CmdHdr) (f : State → CmdOut) : State :=
  guarded s h (some 6) (fun s => inModes commandModes s (fun s =>
    if rd s R.cluStatRole = 0 then refuse .invalid s else f s))

/-- R386: CLU_PEER_SET of peer `id`: an address, a MAC address and a port, or delete. -/
def execCluPeerSet (h : CmdHdr) (id addr mac port : Nat) (delete : Bool) (s : State) : Res := whenLive s <|
  .next (cluCommand s h (fun s =>
    let i := id % 64
    if i = deviceId s ∨ (!delete ∧ !isBolvis s port) then refuse .invalid s
    else if delete then okay (wr (wrFlash s (R.cluPeerValid i) 0) (R.cluPeerState i) 0)
    else
      let s := wrFlash (wrFlash s (R.cluPeerAddrAddr i 0) addr) (R.cluPeerAddrAddr i 1) (addr / 2 ^ 64)
      okay (wrFlash (wrFlash (wrFlash s (R.cluPeerMac i) mac) (R.cluPeerPort i) port) (R.cluPeerValid i) 1)))

/-- The commit of CLU_COMMIT past the refusals of R383. -/
def startCommit (s : State) (h : CmdHdr) (t : Nat) : CmdOut :=
  let id := (rd s R.cluCommitActLastId + 1) % 2 ^ 32
  let o := commitTimed s t true
  if o.status ≠ .ok then o
  else
    let crew := livePeers s
    let c : CommitS := ⟨id, t, crew, [], false, [], slice h.body 0 32, h.mbx, answerKey s h⟩
    let s := wrs o.st [(R.cluCommitStatCommitId, id), (R.cluCommitActTAct, t), (R.cluCommitStatPhase, 1)]
    let s := sendAll { s with clu := { s.clu with commit := some c } } 0x0A (toBe 4 id ++ toBe 4 t)
    if crew = [] then okay (decideCommit s c) else okay s

/-- CLU_COMMIT has been accepted and its answer waits for the votes. -/
def commitWaits (s : State) : Bool :=
  match s.clu.commit with
  | some c => !c.go
  | none => false

/-- R382, R383: CLU_COMMIT at `t` (TIMED = 1) or at the lead. -/
def execCluCommit (h : CmdHdr) (timed : Bool) (t : Nat) (s : State) : Res := whenLive s <|
  let w := commitWaits s
  let s' := cluCommand s h (fun s =>
    let t := if timed then t % 2 ^ 32 else (nowNs s + rd s R.cluCfgCommitLeadUs * 1000) % 2 ^ 32
    let d := nsDiff t (nowNs s)
    if !actsDirector s then refuse .invalid s
    else if commitWaits s then refuse .busy s
    else if !timeValid s then refuse .timeNotValid s
    else if !timed && rd s R.cluCfgCommitLeadUs == 0 then refuse .invalid s
    else if d < 1000000 ∨ 2 ^ 31 ≤ d then refuse .invalid s
    else startCommit s h t)
  .next (if !w && commitWaits s' then
    { s' with host := { s'.host with responseDue := mdel s'.host.responseDue h.mbx } } else s')

/-- R374: CLU_KEY_ROLL. -/
def execCluKeyRoll (h : CmdHdr) (epoch t : Nat) (s : State) : Res := whenLive s <|
  .next (cluCommand s h (fun s =>
    if !actsDirector s ∨ !slotLoaded s (cluSlot (epoch % 256)) then refuse .invalid s
    else okay (takeRoll (sendAll s 0x0F (toBe 1 epoch ++ [0, 0, 0] ++ toBe 4 t)) epoch t)))

/-- R378: CLU_LEASE_SET of the devices that may hold a range of a pool's addresses. -/
def execCluLeaseSet (h : CmdHdr) (pool first count mask : Nat) (s : State) : Res := whenLive s <|
  .next (cluCommand s h (fun s =>
    let p := poolEnt s (pool % 4096)
    if !actsDirector s ∨ !bit p 0 ∨ first < poolFirst p ∨ poolFirst p + poolCount p < first + count then refuse .invalid s
    else
      let pool := pool % 4096
      let mask := mask % 2 ^ 64
      let r := cutGrants s.clu.grants pool first count
      let g : GrantS := ⟨pool, first, count, mask⟩
      let s := { s with clu := { s.clu with grants := r.1 ++ (if count = 0 ∨ mask = 0 then [] else [g]) } }
      let s := r.2.foldl (fun s o =>
        ((maskDevices o.mask).filter (fun d => !bit mask d)).foldl (fun s d => sendLease s d pool o.first o.count 0) s) s
      okay (if count = 0 then s else renewGrant s g)))

/-- R386: CLU_DEPUTY_SET. -/
def execCluDeputySet (h : CmdHdr) (id : Nat) (s : State) : Res := whenLive s <|
  .next (cluCommand s h (fun s =>
    if rd s R.cluStatActing = 2 ∧ id % 64 = deviceId s then refuse .invalid s
    else okay (wr s R.cluStatDeputyId (id % 64))))

/-- R385, R386: CLU_RECLAIM on the image Director. -/
def execCluReclaim (h : CmdHdr) (s : State) : Res := whenLive s <|
  .next (cluCommand s h (fun s =>
    if rd s R.cluStatRole ≠ 1 then refuse .invalid s else okay (actDirector s (rd s R.cluStatTerm + 1))))

end Sys2Proof.Machine
end

