-- ==== Sys2Proof/Machine/Continuity.lean ====
section
/-!
DEFINITION. Meanings of the Continuity checker's rows (R139–R143) and of TABLE_READ (R341).
-/

namespace Sys2Proof.Machine

open Sys2Proof

/-! ### Blocks and entries of a storage image -/

/-- Bytes of block `b` of a storage image, cut at its end. -/
def blockLen (s : State) (d : TblDecl) (b : Nat) : Nat := min 4096 (imageLen s d - 4096 * b)

/-- The replicas that hold block `b`: every replica, or the one quadrant of a bank. -/
def blockQuads (s : State) (d : TblDecl) (b : Nat) : List Nat :=
  if 4096 * b < banksOff d then quadsOf d
  else match (imageBanks s d)[(4096 * b - banksOff d) / bankImage]? with
    | some (q, _) => [q]
    | none => []

/-- A two-slot entry starts at byte `o`, in the device or in its shadow bytes (R127). -/
def longAt (s : State) (d : TblDecl) (o : Nat) (shadow : List Byte) : Bool :=
  d.kind == 2 && d.v6 && decide (o < arrayBytes d) && decide (o / slotBytes d % 2 = 0) &&
    (((mget (bkt s d.num) (o / slotBytes d)).map (fun e => e.w == 2)).getD false ||
      (bit (fieldLe shadow 0 1) 0 && bit (fieldLe shadow 0 1) 3))

/-- Bytes of the entry that byte `o` belongs to. -/
def entrySize (s : State) (d : TblDecl) (o : Nat) (long : Bool) : Nat :=
  if o < arrayBytes d then
    if d.kind = 4 then 32
    else if d.kind = 2 then (if long then 2 * slotBytes d else slotBytes d)
    else 16 * emW d.keyLen
  else if o < resOff d then 1
  else if d.kind = 2 ∧ o < cmapOff d then 16
  else if d.kind = 2 ∧ o < filterOff d then 1
  else if d.kind = 2 ∧ o < banksOff d then 32
  else
    match (imageBanks s d)[(o - banksOff d) / bankImage]? with
    | some (q, b) => if (o - banksOff d) % bankImage < 4096 * 32 then 32 * 2 ^ bankWidth s q b else 16 * 2 ^ bankWidth s q b
    | none => 1

/-! ### Faults (R143) -/

/-- A difference or an unverified block of a table, seen by the safety monitor. -/
def conFault (s : State) (t detail : Nat) : State :=
  if inScope s t then standFault s 4 t detail else raiseFault s 22 t detail

/-- The sweep of a table has found something. -/
def sweepDirty (s : State) (t : Nat) : State :=
  { s with tab := { s.tab with conSweep := mmod s.tab.conSweep t (fun w => (w.1, true)) } }

/-- A block of a replica stays unverified; on two consecutive sweeps it is a safety event. -/
def unverified (s : State) (t q b : Nat) : State :=
  let s := bump (wr s R.conStatUnverified 1) R.conUnverCntCount
  let s := sweepDirty s t
  let again := s.tab.conUnver.contains (t, q, b)
  let s := { s with tab := { s.tab with conUnverNow := s.tab.conUnverNow ++ [(t, q, b)] } }
  if again && inScope s t then standFault s 4 t (4096 * b) else s

/-- The sweep of table `t` ends. -/
def endSweep (s : State) (t : Nat) : State :=
  match mget s.tab.conSweep t with
  | some (start, dirty) =>
    let dt := uptime s - start
    let s := wr s (R.conTblLastUs t) (min (2 ^ 24 - 1) (dt / 1000))
    let now := s.tab.conUnverNow.filter (fun x => x.1 == t)
    let s := { s with tab := { s.tab with
      conSweep := mdel s.tab.conSweep t,
      conUnver := s.tab.conUnver.filter (fun x => x.1 != t) ++ now,
      conUnverNow := s.tab.conUnverNow.filter (fun x => x.1 != t) } }
    if inScope s t ∧ 8000000 < dt then standFault (wr s R.conStatLate 1) 4 t dt
    else if dirty then s else endStanding (endStanding s 4 t) 5 t
  | none => s

/-- The sweep ends once no block of its table is deferred. -/
def sweepOver (s : State) (t : Nat) : State :=
  if s.tab.conDefer.any (fun c => c.tbl == t) then s else endSweep s t

/-! ### Sweeps (R141) -/

/-- Compare one block of one replica with the shadow block; `hurt` says that the replica's bytes read
differently from what was written. -/
def sweepBlock (s : State) (d : TblDecl) (shadow : List Byte) (q b : Nat) (hurt : Bool) : State :=
  let n := blockLen s d b
  let D := imageBytes s d (4096 * b) n
  let S := slice shadow (4096 * b) n
  if !hurt && decide (crc32c 0xFFFFFFFF D = crc32c 0xFFFFFFFF S) then s
  else { s with tab := { s.tab with
      conDefer := s.tab.conDefer ++ [⟨d.num, q, b, rd s (tblSeq d.num), uptime s⟩] } }

/-- R141: the checker starts a sweep of table `t` against the bytes of its shadow; `hurt` lists replicas and
blocks whose bytes read differently from what was written. -/
def execContinuitySweep (t : Nat) (shadow : List Byte) (hurt : List (Nat × Nat)) (s : State) : Res := whenLive s <| settle s <|
  match tblDecl s t with
  | some d =>
    if 257 ≤ t ∨ rd s (R.conTblPeriodMs t) = 0 ∨ (mget s.tab.conSweep t).isSome then .next s
    else
      let s := { s with tab := { s.tab with conSweep := mset s.tab.conSweep t (uptime s, false) } }
      let bs := List.range (cdiv (imageLen s d) 4096)
      if rd s (R.conShadowAddr t) = 0 then
        .next (sweepOver (bs.foldl (fun s b => unverified s t (homeQuad d) b) s) t)
      else
        let s := bs.foldl (fun s b =>
          (blockQuads s d b).foldl (fun s q => sweepBlock s d shadow q b (hurt.contains (q, b))) s) s
        .next (sweepOver s t)
  | none => .next s

/-! ### Repair (R142) -/

/-- A bucket entry read from its shadow bytes, with its GEN; absent where VALID is 0. -/
def readBktEntry (d : TblDecl) (b : List Byte) : Option TEnt :=
  if d.kind = 2 then
    if d.v6 then
      let w0 := fieldLe b 0 4
      let long := bit w0 3
      let pfx := fieldLe b 4 9 * 2 ^ 64 + (if long then fieldLe b 16 8 else 0)
      if bit w0 0 then
        some ⟨bits w0 4 14 + 2 ^ 14 * pfx, if long then 2 else 1, bits w0 1 2, bits w0 18 14, 15, false, false, 0, 0, false, []⟩
      else none
    else
      let v := fieldLe b 0 8
      if bit v 0 then some ⟨bits v 3 14 + 2 ^ 14 * bits v 17 33, 1, bits v 1 2, bits v 50 14, 15, false, false, 0, 0, false, []⟩
      else none
  else
    let w := emW d.keyLen
    let c := fieldLe b 12 4
    let ks := (upFrom 1 (w - 1)).foldl (fun a k => a + fieldLe b (16 * k) 12 * 2 ^ (96 * k - 32)) (fieldLe b 0 8)
    let as := (upFrom 1 (w - 1)).foldl (fun a k => a + fieldLe b (16 * k + 12) 4 * 2 ^ (32 * k)) (fieldLe b 8 4)
    if bit c 0 then some ⟨ks, w, bits c 1 2, as, 15, bit c 6, bit c 7, 0, 0, false, []⟩ else none

/-- Length of an encoded prefix (R126): W minus the position of its lowest set bit. -/
def pfxLen (w pfx : Nat) : Nat := w - ((List.range (w + 1)).find? (fun i => bit pfx i)).getD w

/-- A care-mask entry read from its shadow slices. -/
def readCmsEntry (w : Nat) (b : List Byte) (action : Nat) : Option CmsE :=
  let ks := List.range (2 ^ w)
  let v := ks.foldl (fun a k => a + fieldLe b (32 * k) 10 * 2 ^ (80 * k)) 0
  let m := ks.foldl (fun a k => a + fieldLe b (32 * k + 10) 10 * 2 ^ (80 * k)) 0
  let c := fieldLe b 20 1
  if bit c 0 then some ⟨v, m, bits c 1 2, fieldLe b 21 2, action, 0, false, false, 0⟩ else none

/-- An entry read from the shadow with what the manager knows of it: its length, whether it is a marker, and the cells a
repair has taken it from (R131, R142). -/
def knownEnt (s : State) (d : TblDecl) (slot : Nat) (e : TEnt) : TEnt :=
  if d.kind = 2 then
    let old := (mget (bkt s d.num) slot).filter (fun o => o.key == e.key)
    { e with len := pfxLen (lpmW d) (e.key / 2 ^ 14), unas := (old.map (·.unas)).getD [],
             marker := !(rib s d.num).any (fun x => x.key == e.key) }
  else { e with stamp := fwdSec s }

/-- Repair the entry at byte `o` from its shadow bytes (R142). A length-filter word follows from the entries
and is not written by itself. -/
def repairEntry (s : State) (d : TblDecl) (q o : Nat) (b : List Byte) : State × Bool :=
  if o < arrayBytes d then
    if d.kind = 4 then
      if bit (fieldLe b 16 1) 0 ∧ bits (fieldLe b 16 1) 1 2 ≠ 3 then (s, false)
      else (setDir s d (o / 32) (if bit (fieldLe b 16 1) 0 then [⟨3, fieldLe b 0 16⟩] else []) 5, true)
    else
      let p := o / slotBytes d
      let n := b.length / slotBytes d
      let es := (List.range n).filterMap (fun k => (readBktEntry d (b.drop (k * slotBytes d))).map (fun e => (p + k, e)))
      let es := if d.kind = 2 ∧ (es.head?.map (·.2.w)) = some 2 then es.take 1 else if d.kind = 2 then es else es.take 1
      if es.any (fun e => e.2.gen != 3) then (s, false)
      else
        let s0 := s
        let s := (upFrom p n).foldl (fun s k => delEnt s d k 5) s
        let s := es.foldl (fun s e => putEnt s d e.1 (knownEnt s0 d e.1 e.2) 5) s
        (if d.kind = 1 ∧ es = [] then promote s d (p / spb d) else s, true)
  else if d.kind = 2 ∧ resOff d ≤ o ∧ o < cmapOff d then
    let i := (o - resOff d) / 16
    let s := { s with tab := { s.tab with res := mset s.tab.res d.num (mset (resArr s d.num) i (leNat b)) } }
    (report s d d.quads 5 [(o, 16)], true)
  else if d.kind = 2 ∧ cmapOff d ≤ o ∧ o < filterOff d then
    let m := mgetD s.tab.cmap d.num []
    let v := leNat b % 16
    let m := if v = 0 then mdel m (o - cmapOff d) else mset m (o - cmapOff d) v
    (report { s with tab := { s.tab with cmap := mset s.tab.cmap d.num m } } d d.quads 5 [(o, 1)], true)
  else if o < banksOff d then (s, false)
  else
    match (imageBanks s d)[(o - banksOff d) / bankImage]? with
    | some (_, bk) =>
      let w := bankWidth s q bk
      let r := (o - banksOff d) % bankImage
      if r < 4096 * 32 then
        let i := r / (32 * 2 ^ w)
        let old := mget (bank s q bk) i
        match readCmsEntry w b ((old.map (·.action)).getD 0) with
        | some e =>
          let e := match old with
            | some x => if x.value = e.value then { e with hit := x.hit, learned := x.learned, static := x.static, stamp := x.stamp } else e
            | none => e
          if e.gen ≠ 3 then (s, false) else (putCms (delCms s d q bk i 5) d q bk i e 5, true)
        | none => (delCms s d q bk i 5, true)
      else
        let i := (r - 4096 * 32) / (16 * 2 ^ w)
        match mget (bank s q bk) i with
        | some e => (putCms s d q bk i { e with action := fieldLe b 0 16 } 5, true)
        | none => (s, false)
    | none => (s, false)

/-- One differing entry of replica `q` at byte `o` (R142). -/
def conError (s : State) (d : TblDecl) (q o : Nat) (b : List Byte) : State :=
  let s := wrs s [(R.conStatErr, 1), (R.conErrAddrTable, d.num), (R.conErrAddrQuad, q), (R.conErrAddrOffset, o)]
  let s := bump s R.conErrCntCount
  let s := journal s 0x0051 (if inScope s d.num then 3 else 2) d.num (.num 0) o q
  let s := conFault (sweepDirty s d.num) d.num o
  if rdB s (R.conTblRepairEn d.num) then
    let r := repairEntry s d q o b
    if r.2 then bump r.1 R.conRepairCntCount else r.1
  else s

/-- The entries of a block, in order: start and bytes. -/
def blockEntries (s : State) (d : TblDecl) (o : Nat) (shadow : List Byte) : Nat → Nat → List (Nat × Nat)
  | 0, _ => []
  | fuel + 1, n => if n = 0 then [] else
      let z := max 1 (entrySize s d o (longAt s d o shadow))
      (o, z) :: blockEntries s d (o + z) (shadow.drop z) fuel (n - min n z)

/-- R141: the deferred block `b` of table `t`, replica `q`: once APPLIED_SEQ has caught up it is read again
with its shadow bytes; `hurt` lists byte offsets that read differently from what was written. -/
def execContinuityCatchup (t q b applied : Nat) (shadow : List Byte) (hurt : List Nat) (timedOut : Bool) (s : State) : Res := whenLive s <| settle s <|
  match tblDecl s t, s.tab.conDefer.find? (fun c => c.tbl == t && c.quad == q && c.block == b) with
  | some d, some c =>
    let s' := { s with tab := { s.tab with conDefer := s.tab.conDefer.filter (fun x => x != c), log := [] } }
    if c.seq ≤ applied then
      let n := blockLen s' d b
      let s' := (blockEntries s' d (4096 * b) shadow n n).foldl (fun s oz =>
        let S := slice shadow (oz.1 - 4096 * b) oz.2
        if imageBytes s d oz.1 oz.2 = S ∧ !hurt.any (fun x => decide (oz.1 ≤ x) && decide (x < oz.1 + oz.2)) then s
        else conError s d q oz.1 S) s'
      .next (sweepOver { s' with tab := { s'.tab with log := [] } } t)
    else if timedOut then .next (sweepOver (unverified s' t q b) t)
    else .next s
  | _, _ => .next s

/-! ### Reading a table -/

/-- R341: TABLE_READ of `n` bytes at byte `o` of the storage image of table `t`. -/
def execTableRead (h : CmdHdr) (t o n : Nat) (s : State) : Res := whenLive s <|
  .next (openCmd s h (fun s =>
    match tblDecl s t with
    | some d => if imageLen s d < o + n then refuse .invalid s else sizedResponse h (imageBytes s d o n) s
    | none => refuse .invalid s))

end Sys2Proof.Machine
end

