-- ==== Sys2Proof/Machine/Flow.lean ====
section
/-!
DEFINITION. Meanings of the flow-table rows (chapter 6): misses, writebacks, the setup limit, flow commands,
sweeps and repair.
-/

namespace Sys2Proof.Machine

open Sys2Proof

/-- R160, R170: a bucket read of line `l` returns; `first` and `again` disturb its granules, read first and re-read. -/
def execBucketReadDone (l : Nat) (first again : List (Nat × Nat)) (s : State) : Res := whenLive s <| settle s <|
  .next (bucketRead s l (errsOf first again))

/-- R166: the writeback of victim-buffer entry `i` completes. -/
def execWritebackDone (i ecc : Nat) (s : State) : Res := whenLive s <| .next (writeback s i ecc)

/-- R163, R234: the limit of setup task `i` expires. -/
def execSetupLimitExpire (i : Nat) (s : State) : Res := whenLive s <| settle s <|
  let late := (mget s.eng.tasks i).any (fun t => decide (t.since + 1000 * rd s (R.fltSetupCfgLimitUs t.quad) ≤ uptime s))
  .next (if isSetup s i && late then cancelAny s i else s)

/-- R167: FLOW_CREATE of a record's full content. -/
def execFlowCreate (h : CmdHdr) (record : Nat) (s : State) : Res := whenLive s <|
  .next (flowCommand s h (recKey record) (.create record))

/-- R167: FLOW_PIN, FLOW_UNPIN and FLOW_DELETE of a matched key. -/
def execFlowPin (h : CmdHdr) (key : Nat) (s : State) : Res := whenLive s <| .next (flowCommand s h (clrBit (key % 2 ^ 320) 31) .pin)
def execFlowUnpin (h : CmdHdr) (key : Nat) (s : State) : Res := whenLive s <| .next (flowCommand s h (clrBit (key % 2 ^ 320) 31) .unpin)
def execFlowDelete (h : CmdHdr) (key : Nat) (s : State) : Res := whenLive s <| .next (flowCommand s h (clrBit (key % 2 ^ 320) 31) .delete)

/-- R167: waiting flow command `i` is decided when its line has resolved. -/
def execFlowCmdResume (i : Nat) (s : State) : Res := whenLive s <| .next (flowResume s i)

/-- R168, R183, R223: a quadrant's sequencer posts the next task of its ageing sweep, or of removal sweep `i`. -/
def execSweepTaskPost (quad : Nat) (removal : Option Nat) (s : State) : Res := whenLive s <|
  .next (match removal with
    | none => postSweep s (quad % 4)
    | some i => postRemoval s (quad % 4) i)

/-- R170: the repair task that runs for the bucket in a quarantine list's entry repairs it; `bad` are the granules whose
re-read fails. -/
def execQuarantineRepair (quad entry : Nat) (bad : List Nat) (s : State) : Res := whenLive s <|
  .next (repairBucket s (quad % 4) (entry % 64) bad)

end Sys2Proof.Machine
end

