-- ==== Sys2Proof/Machine/ImageLoad.lean ====
section
/-!
DEFINITION. Full loads, partial images, FLASH_IMAGE, BOOT_SET and ROLLBACK_COMMIT (R60–R66, R388, R408, R484, R496).
-/

namespace Sys2Proof.Machine

open Sys2Proof

/-! ### Full loads (R61–R64, R294, R388) -/

/-- R62, R64, R294: the image is in staging; the stacks' identities are read and the ordered checks run. `ids`: what
the stacks' test ports answer; `hurt`: sections whose CRC fails twice. -/
def execImageReadDone (ids : List StackId) (hurt : List Nat) (s : State) : Res := whenLive s <|
  if !modeIn s [.load] ∨ rd s R.imgStatPhase ≠ 1 ∨ s.img.staged.isSome then .next s
  else
    let b := slotImage s s.img.loadSlot
    let s := (List.range 4).foldl (identify ids) s
    match checkFull s b hurt with
    | .error (d, x) => .next (loadRefused (reachKeys s b (fullFront s b hurt)) b d x)
    | .ok _ =>
      let s := wr (placeImageKeys s b) R.imgStatPhase 4
      .next { s with img := { s.img with staged := some b } }

/-- R388: the image is applied and the device keys are derived: TEST begins, with HOLDUP_SENSE at `v0` mV. -/
def execLoadApplyDone (v0 : Nat) (s : State) : Res := whenLive s <|
  match s.img.staged with
  | some b => if modeIn s [.load] ∧ rdB s R.keyStatDevkeys then .next (enterTest (applyImage s b) v0) else .next s
  | none => .next s

/-! ### Commands (R60, R61, R65, R408, R496) -/

/-- An image is staged in the HBM area for other uses, and verified there (R62, R496). -/
def stageImage (s : State) (b : List Byte) : State := { s with img := { s.img with staging := b } }

/-- R65: IMAGE_PARTIAL carries a partial image. -/
def execImagePartial (h : CmdHdr) (b : List Byte) (s : State) : Res := whenLive s <|
  .next (guarded s h (some 4) (fun s =>
    if !modeIn s [.serve, .splice] then refuse .refusedMode s
    else if s.img.part.isSome then refuse .busy s
    else
      let s := stageImage s b
      match checkPartial s b with
      | .error (d, x) => refuse (detailStatus d) (imageRefused (reachKeys s b (partFront s b)) b true d x)
      | .ok l => okay (acceptPartial s b l)))

/-- A full image goes to an image slot, or is refused; neither IMG_STAT nor the mode changes. -/
def flashFull (s : State) (slot : Nat) (b : List Byte) : CmdOut :=
  match checkFull s b [] with
  | .error (d, x) =>
    let s := eraseContentKey (reachKeys s b (fullFront s b []))
    ⟨detailStatus d, toLe 2 d ++ toLe 2 x, journal s 0x0010 2 d (.code (detailStatus d)) x (imVer b)⟩
  | .ok _ =>
    let s := eraseContentKey (placeImageKeys s b)
    okay { s with img := (if slot = 0 then { s.img with slot0 := b } else { s.img with slot1 := b }) }

/-- A firmware image goes to a firmware slot, or is refused. -/
def flashFw (s : State) (slot : Nat) (b : List Byte) : CmdOut :=
  match fwRefusal s b with
  | some c => refuse c s
  | none => okay { s with mod := (if slot = 2 then { s.mod with fwA := b } else { s.mod with fwB := b }) }

/-- R408, R496: FLASH_IMAGE to image slot 0 or 1, or firmware slot A (2) or B (3). -/
def execFlashImage (h : CmdHdr) (slot : Nat) (b : List Byte) (s : State) : Res := whenLive s <|
  .next (guarded s h (some 4) (fun s => inModes commandModes s (fun s =>
    if s.img.part.isSome then refuse .busy s
    else if slot < 2 then flashFull (stageImage s b) slot b
    else if slot < 4 then flashFw s slot b
    else refuse .invalid s)))

/-- R61: BOOT_SET writes IMG_BOOT and the boot record together. -/
def execBootSet (h : CmdHdr) (slot fallback : Nat) (s : State) : Res := whenLive s <|
  .next (guarded s h (some 4) (fun s =>
    if 1 < slot ∨ 1 < fallback then refuse .invalid s
    else okay (writeBoot s (rd s R.modFwSlotNext) slot (fallback == 1))))

/-- R60: ROLLBACK_COMMIT blows fuses one at a time. `cut`: the power fails after that many fuses, before the record
is written; the answer is lost with the power. -/
def execRollbackCommit (h : CmdHdr) (cut : Option Nat) (s : State) : Res := whenLive s <|
  .next (guarded s h (some 4) (fun s =>
    let f := rd s R.imgFuseRollbackFuses
    let r := rd s R.imgImageVerRollback
    if !modeIn s [.serve] then refuse .refusedMode s
    else if r ≤ f then refuse .invalid s
    else match cut with
      | some n => okay (wr s R.imgFuseRollbackFuses (min r (f + n)))
      | none => okay (journalFull (wr s R.imgFuseRollbackFuses r) 0x0012 1 h.requester 0 (.num 0) f r 0)))

end Sys2Proof.Machine
end

