-- ==== Sys2Proof/Machine/Ingress.lean ====
section
/-!
DEFINITION. The ingress section of a packet (chapters 3 to 6): parser, stages, learn probes, flow stage, and
the end of the section.
-/

namespace Sys2Proof.Machine

open Sys2Proof

/-- The bus as the MAC sets it (R76); FRAME_LEN of a frame still arriving is free. -/
def macBus (s : State) (f : FrameS) : Nat × State :=
  let x := if f.ended then (f.len, s) else freeVal s 14
  let g := localPg s f.inPort
  (f.bus % 2 ^ 48 + f.inPort * 2 ^ 48 + f.quad * 2 ^ 58 + g / 2 % 8 * 2 ^ 60 + x.1 % 2 ^ 14 * 2 ^ 64, x.2)

/-- Keep the receive record of a PTP event frame in the quadrant's store of 1,024 (R275). -/
def storeRx (s : State) (head : Nat) (f : FrameS) : State :=
  if 512 ≤ f.inPort then s
  else if 1024 ≤ (s.tim.rxStore.filter (fun e => ptrQuad e.1 == f.quad)).length then
    bump s (R.macTsCntCount (macQ f.inPort) (macM f.inPort) 0)
  else { s with tim := { s.tim with rxStore := mset s.tim.rxStore head (asymRecord s f.tsRec) } }

/-- The parser's counters (R71, R72). -/
def countParse (s : State) (q p bus : Nat) : State :=
  match bits bus 78 2 with
  | 1 => bump s (R.prsTruncCntCount q p)
  | 2 | 3 => bump s (R.prsLenerrCntCount q p)
  | _ => s

/-- The parse of a frame (R71): a layer marker whose header reaches past the window reads free bytes there
(log 40). -/
def parsePacket (s : State) (g : List Byte) (head : Nat) (f : FrameS) : ParseS × State :=
  let mb := macBus s f
  let w := window (frameBytes s head)
  let r := parse g w [] f.inPort mb.1
  if r.past then
    let x := freeBytes mb.2 16
    (parse g w x.1 f.inPort mb.1, x.2)
  else (r, mb.2)

/-- Run the stages before the flow stage, and the flow stage or the rest (R78, R82, R85, R156). -/
def runSection (s : State) (head q bus ecc : Nat) (witErr : Bool) (pr : ProgS) : State :=
  let b := pr.stages
  let a := runStages q b 0 (flowAfter b) (probesAt q b 0 (bus, s))
  let s := updFrame a.2 head (fun f => { f with bus := a.1 })
  if flowEn b ∧ busDisp a.1 ≠ 1 then
    let s := match lineOfBus s pr.parser a.1 with
      | some l => cacheEcc s l ecc
      | none => s
    flowEnter s head a.1
  else ingressTail witErr s head a.1

/-- R76: the ingress section of the frame at `head`, as one step. `ecc`: the error, if any, of the cache line
its lookup reads (1 corrected, 2 uncorrectable); `witErr`: an uncorrectable witness read at its enqueue. A frame
whose parser still waits for bytes is not ready. -/
def execPacketIngress (head ecc : Nat) (witErr : Bool) (s : State) : Res := whenLive s <| settle s <|
  match mget s.cel.frames head with
  | some f =>
    let q := f.quad
    if f.phase ≠ .arriving ∨ f.abortUnsent ≠ 0 ∨ !carries s ∨ bit (rd s R.pwrParkParked) q then .next s
    else
      let p := pipeOf s f.inPort
      let pr := progOf s q p
      let r := (parsePacket s pr.parser head f).1
      if !parseReady r f.ended (frameBytes s head) then .next s
      else
        let x := samplePacket (parsePacket s pr.parser head f).2 q f.inPort
        let s := updFrame x.2 head (fun f =>
          { f with pipe := p, bus := r.bus, ipid := r.ipid, lastState := r.last, sel := x.1 })
        let s := if r.drop then s else countParse s q p r.bus
        let s := if busPtp r.bus && !r.drop then storeRx s head f else s
        if r.drop then .next (dropFrame s head 0x04)
        else .next (runSection s head q r.bus ecc witErr pr)
  | none => .next s

end Sys2Proof.Machine
end

