-- ==== Sys2Proof/Machine/Services.lean ====
section
/-!
DEFINITION. Meanings of the flow-service rows (chapter 7): ports and blocks, service, pool and admission
commands, removal sweeps, latency samples, and IPFIX frames.
-/

namespace Sys2Proof.Machine

open Sys2Proof

/-! ### Ports (R189, R190) -/

/-- R189: the subscriber home allocates a port of a pool for setup task `task`. -/
def execPortAllocate (vrf : Nat) (v6 : Bool) (addr pool task : Nat) (s : State) : Res := whenLive s <|
  .next (allocPort s ⟨vrf % 2 ^ 14, v6, addr % 2 ^ 128⟩ (pool % 4096) task).st

/-- R189: a tentative port was not confirmed within 20 µs. -/
def execTentativePortExpire (entry : Nat) (s : State) : Res := whenLive s <|
  match s.flo.tentative[entry]? with
  | some t =>
    if uptime s < t.since + 20000 then .next s
    else
    let s := { s with flo := { s.flo with tentative := s.flo.tentative.eraseIdx entry } }
    .next (releaseAt s t.quad t.sub t.addr t.port)
  | none => .next s

/-- R190: a port of a public address returns to its subscriber's home. -/
def execPortRelease (vrf : Nat) (v6 : Bool) (addr index port : Nat) (s : State) : Res := whenLive s <|
  .next (releasePort s ⟨vrf % 2 ^ 14, v6, addr % 2 ^ 128⟩ index port)

/-- Records of a subscriber store that hold anything. -/
def listedSubs (s : State) (q : Nat) : List Nat :=
  let a := hkey q (subAddr s q 0)
  ((s.hbm.mem.filter (fun e => decide (a ≤ e.1) && decide (e.1 < a + 256 * 2 ^ 18))).map (fun e => (e.1 - a) / 256)).eraseDups

/-- A held block of a record has been held for HOLD_S. -/
def holdOver (s : State) (r j : Nat) : Bool :=
  bit r (subBlk j + 77) &&
    decide (poolHold (poolEnt s (subPool r)) * 10 ^ 9 ≤ (flowTick s + 2 ^ 24 - bits r (subBlk j + 96) 24) % 2 ^ 24 * 2 ^ 20)

/-- R190: firmware visits quadrant `q`'s subscriber store and releases the blocks held long enough. -/
def execSubscriberVisit (quad : Nat) (s : State) : Res := whenLive s <|
  let q := quad % 4
  .next ((listedSubs s q).foldl (fun s i =>
    ((List.range 8).reverse).foldl (fun s j =>
      let r := subRec s q i
      if bit r 142 && decide (j < subBlocks r) && holdOver s r j then dropBlock s q i j else s) s) s)

/-! ### Service and backend commands (R182, R203, R377) -/

/-- A flow-policy command (R203). -/
def policyCommand (s : State) (h : CmdHdr) (f : State → CmdOut) : State :=
  guarded s h (some 1) (fun s => inModes commandModes s f)

/-- The device is a Crew: it takes its services from the acting Director (R377). -/
def isCrew (s : State) : Bool := rd s R.cluStatActing == 2

/-- Defined services with the same home, from what their table holds. -/
def homeServices (s : State) (q : Nat) : List Nat :=
  let a := hkey q (hbmBase s q 2)
  ((s.hbm.mem.filter (fun e => decide (a ≤ e.1) && decide (e.1 < a + 2 * 2 ^ 20))).map (fun e => (e.1 - a) / 32)).eraseDups.filter
    (fun v => svcHome v == q && svcDefined (svcEnt s v))

/-- The lowest run of `n` backend-table entries of a home that no service has. -/
def backendRun (s : State) (q n : Nat) : Option Nat :=
  let u := (homeServices s q).map (fun v => (svcBase (svcEnt s v), svcMax (svcEnt s v)))
  ((0 :: u.map (fun e => e.1 + e.2)).filter (fun a =>
    decide (a + n ≤ 2 ^ 20) && u.all (fun e => e.2 == 0 || decide (e.1 + e.2 ≤ a) || decide (a + n ≤ e.1)))).min?

/-- A service entry (R177) with its ACTIVE bits kept from `e`. -/
def svcEntry (e policy seed : Nat) (hpEn : Bool) (hpPool max base : Nat) : Nat :=
  1 + policy % 4 * 2 + b2n hpEn * 8 + hpPool % 4096 * 16 + max % 8192 * 2 ^ 16 + seed % 2 ^ 32 * 2 ^ 32 +
    base % 2 ^ 20 * 2 ^ 64 + bits e 96 13 * 2 ^ 96

/-- R203: SVC_SET. -/
def execSvcSet (h : CmdHdr) (service policy seed : Nat) (hpEn : Bool) (hpPool max : Nat) (s : State) : Res := whenLive s <|
  .next (policyCommand s h (fun s =>
    let sv := service % 65536
    let e := svcEnt s sv
    if isCrew s ∨ 3 ≤ policy ∨ 4096 < max ∨ (service < 65536 ∧ svcDefined e ∧ svcMax e ≠ max) then refuse .invalid s
    else if 65536 ≤ service then refuse .noRoom s
    else match (if svcDefined e then some (svcBase e) else if max = 0 then some 0 else backendRun s (svcHome sv) max) with
      | none => refuse .noRoom s
      | some base =>
        let t := fwRead s (svcHome sv) (svcAddr s sv) 32
        let t := svcPut t (svcHome sv) (svcAddr s sv) 32 (svcEntry e policy seed hpEn hpPool max base)
        let t := if svcSeed e = seed % 2 ^ 32 then t else buildRing t sv
        okay (publishService s t sv [])))

/-- R203: SVC_DELETE. -/
def execSvcDelete (h : CmdHdr) (service : Nat) (s : State) : Res := whenLive s <|
  .next (policyCommand s h (fun s =>
    let sv := service % 65536
    let e := svcEnt s sv
    if isCrew s then refuse .invalid s
    else if svcDefined e && (List.range (svcMax e)).any (fun i => bkState (bkEnt s sv i) != 0) then refuse .busy s
    else
      let t := fwRead s (svcHome sv) (svcAddr s sv) 32
      okay (publishService s (svcPut t (svcHome sv) (svcAddr s sv) 32 (clrBit e 0)) sv [])))

/-- What R182 says of a requested state: refused with a status, or carried out. -/
def backendMove (old want : Nat) : Option Status :=
  if old = 3 then some .busy
  else if want = 1 then none
  else if old = 0 then some .invalid
  else if want = 2 ∨ want = 3 then none
  else some .invalid

/-- A backend entry (R178), BOUND kept. -/
def bkEntry (addr port zone weight state : Nat) (v6 : Bool) (rw bound : Nat) : Nat :=
  addr % (if v6 then 2 ^ 128 else 2 ^ 32) + port % 2 ^ 16 * 2 ^ 128 + state % 4 * 2 ^ 144 + b2n v6 * 2 ^ 146 + zone % 256 * 2 ^ 152 +
    weight % 2 ^ 16 * 2 ^ 160 + rw % 2 ^ 20 * 2 ^ 192 + bound % 2 ^ 32 * 2 ^ 224

/-- The rewrite-array entry of a backend's address: its own if it already holds it, else a free one. -/
def backendRw (s : State) (b addr : Nat) (v6 : Bool) : Option Nat :=
  if !v6 then some 0
  else if bkState b ≠ 0 ∧ bkV6 b ∧ bkAddress b = addr % 2 ^ 128 then some (bkRw b)
  else rwRun s 1

/-- R182: BACKEND_SET of index `index`. -/
def execBackendSet (h : CmdHdr) (service index addr : Nat) (v6 : Bool) (port zone weight state : Nat) (s : State) : Res := whenLive s <|
  .next (policyCommand s h (fun s =>
    let sv := service % 65536
    let e := svcEnt s sv
    let b := if index < svcMax e then bkEnt s sv index else 0
    if isCrew s ∨ !svcDefined e then refuse .invalid s
    else match backendMove (bkState b) state with
      | some r => refuse r s
      | none =>
        match (if index < svcMax e then backendRw s b addr v6 else none) with
        | none => refuse .noRoom s
        | some rw =>
          let t := if v6 then putRw s rw (addr % 2 ^ 128) else s
          let t := buildRing (putBk t sv index (bkEntry addr port zone weight state v6 rw (bkBound b))) sv
          let t := if state = 3 then scheduleRemoval t sv index else t
          okay (publishService s t sv [index])))

/-- R183: 20 µs after its backend was removed, removal sweep `i` starts. -/
def execRemovalSweepStart (i : Nat) (s : State) : Res := whenLive s <|
  match s.flo.removal[i]? with
  | some w =>
    if uptime s < w.since + 20000 then .next s
    else .next { s with flo := { s.flo with removal := s.flo.removal.set i { w with started := true } } }
  | none => .next s

/-- The tasks of a removal sweep that have not ended. -/
def removalTasks (s : State) (w : RemovalS) : Nat :=
  (s.eng.tasks.filter (fun e => e.2.kind == 1 && e.2.args.getD 2 0 == 2 ^ 63 + w.backend * 2 ^ 16 + w.service)).length

/-- R182, R183: removal sweep `i` ends once every slot of every quadrant has been visited: BOUND clears and the
index is free. -/
def execRemovalSweepEnd (i : Nat) (s : State) : Res := whenLive s <|
  match s.flo.removal[i]? with
  | some w =>
    if w.started ∧ w.next.all (fun n => decide (recSlots s ≤ n)) ∧ removalTasks s w = 0 then
      let s := { s with flo := { s.flo with removal := s.flo.removal.eraseIdx i } }
      let b := bkEnt s w.service w.backend
      .next (putBk s w.service w.backend (putBits (putBits b 144 2 0) 224 32 0))
    else .next s
  | none => .next s

/-! ### Pools and admission classes (R185, R191, R196, R203) -/

/-- A pool entry is valid under R185 and R191. -/
def poolOk (s : State) (p : Nat) (addrs : List Nat) : Bool :=
  let z := poolSize p
  bit p 0 && bits p 5 3 == 0 && bits p 12 4 == 0 && bits p 29 3 == 0 && bits p 52 12 == 0 && bits p 85 11 == 0 &&
  bits p 110 2 == 0 && bits p 120 8 == 0 && decide (p < 2 ^ 144) && decide (poolMax p ≤ 8) &&
  [0, 64, 128, 256, 512, 1024, 2048, 4096].contains z && decide (poolCount p ≤ 2 ^ 20) &&
  addrs.length == poolCount p &&
  !(poolCoded p && decide (1024 < z)) && (poolCoded p || rd s R.cluStatRole == 0)

/-- The indices of a pool. -/
def poolIdx (p : Nat) : List Nat := upFrom (poolFirst p) (poolCount p)

/-- A block of an existing pool is allocated or held. -/
def poolBusy (s : State) (p : Nat) : Bool := bit p 0 && (poolIdx p).any (fun a => bits (addrEnt s a) 144 11 != 0)

/-- Free a pool's rewrite-array and address entries. -/
def freePool (s : State) (pool : Nat) : State :=
  let p := poolEnt s pool
  if !bit p 0 then s
  else
    let s := (poolIdx p).foldl (fun s a => putAddr s a 0) s
    { s with flo := { s.flo with
        rewrite := s.flo.rewrite.filter (fun r => !(decide (poolFirst p ≤ r.1) && decide (r.1 < poolFirst p + poolCount p)))
        pools := mdel s.flo.pools pool } }

/-- The rewrite array has the pool's entries, and has them free but for those of its own earlier form. -/
def poolRoom (s : State) (old p : Nat) : Bool :=
  decide (poolFirst p + poolCount p ≤ 2 ^ 20) &&
  s.flo.rewrite.all (fun r => !(decide (poolFirst p ≤ r.1) && decide (r.1 < poolFirst p + poolCount p)) ||
    (bit old 0 && decide (poolFirst old ≤ r.1) && decide (r.1 < poolFirst old + poolCount old)))

/-- Write address `a` of a pool. -/
def poolAddr (pool : Nat) (s : State) (x : Nat × Nat) : State :=
  putAddr (putRw s x.1 x.2) x.1 (x.2 % 2 ^ 128 + pool * 2 ^ 128 + 2 ^ 140 + b2n (leasedNow s pool x.1) * 2 ^ 141)

/-- R203: POOL_SET of a pool: its entry in the form of R185, and its addresses. -/
def execPoolSet (h : CmdHdr) (pool entry : Nat) (addrs : List Nat) (s : State) : Res := whenLive s <|
  .next (policyCommand s h (fun s =>
    let old := poolEnt s pool
    if !poolOk s entry addrs then refuse .invalid s
    else if 4096 ≤ pool ∨ !poolRoom s old entry then refuse .noRoom s
    else if poolBusy s old then refuse .busy s
    else
      let s := freePool s pool
      let s := { s with flo := { s.flo with pools := mset s.flo.pools pool entry } }
      okay ((List.zip (poolIdx entry) addrs).foldl (poolAddr pool) s)))

/-- R203: POOL_CLEAR. -/
def execPoolClear (h : CmdHdr) (pool : Nat) (s : State) : Res := whenLive s <|
  .next (policyCommand s h (fun s =>
    if poolBusy s (poolEnt s (pool % 4096)) then refuse .busy s else okay (freePool s (pool % 4096))))

/-- R196: ADM_SET: the class is written and its buckets are full. -/
def execAdmSet (h : CmdHdr) (cls rate burst : Nat) (s : State) : Res := whenLive s <|
  .next (policyCommand s h (fun s =>
    let c := cls % 65536
    let s := { s with flo := { s.flo with adm := mset s.flo.adm c (rate % 2 ^ 32, burst % 2 ^ 16) } }
    okay ((List.range 4).foldl (fun s q => putAdm s q c (admDepth s c)) s)))

/-! ### Latency samples (R197, R198) -/

/-- The bucket of a latency. -/
def histBucket (beta l : Nat) : Nat :=
  if l < beta then 0 else if 64 * beta ≤ l then 7 else ((upFrom 1 6).find? (fun i => decide (l < beta * 2 ^ i))).getD 7

/-- One more sample in a record's histogram; a bucket saturates at 1,023 (R146). -/
def histAdd (r i : Nat) : Nat := putBits r (944 + 10 * i) 10 (min 1023 (bits r (944 + 10 * i) 10 + 1))

/-- Free a sample slot. -/
def dropSample (s : State) (k : Nat) : State := { s with flo := { s.flo with samples := mdel s.flo.samples k } }

/-- R197, R198: the latency of sample slot `slot` returns to its home quadrant. -/
def execSampleReturn (quad slot : Nat) (s : State) : Res := whenLive s <|
  let q := quad % 4
  let k := q * 4096 + slot % 4096
  match (mget s.flo.samples k).bind (fun x => x.lat.map (fun l => (x, l))) with
  | some (x, l) =>
    let s := dropSample s k
    let beta := rd s R.fltTelCfgHistBaseNs
    match findLine s q x.key with
    | some (ln, y) =>
      if y.st = LineSt.filling ∨ fieldLe (sec s 7 0) 0 1 = 1 then .next (bump s (R.fltSvcCntCount q 12))
      else if beta = 0 then .next s
      else .next (bump (updLine s ln (fun y => { y with st := LineSt.dirty, content := histAdd y.content (histBucket beta l) }))
        (R.fltSvcCntCount q 11))
    | none => .next (bump s (R.fltSvcCntCount q 12))
  | none => .next s

/-- R197: sample slot `slot` has not returned within 1 ms. -/
def execSampleSlotExpire (quad slot : Nat) (s : State) : Res := whenLive s <|
  let q := quad % 4
  let k := q * 4096 + slot % 4096
  .next (if (mget s.flo.samples k).any (fun x => decide (x.since + 10 ^ 6 ≤ uptime s)) then bump (dropSample s k) (R.fltSvcCntCount q 12) else s)

/-! ### IPFIX frames (R199–R202) -/

/-- The 64 bytes of the header template. -/
def telHdr (s : State) : List Byte := (List.range 8).flatMap (fun i => toLe 8 (rd s (R.fltTelHdrBytes i)))

/-- An IPFIX message header of domain `q` over `sets`. -/
def ipfixMsg (s : State) (q : Nat) (sets : List Byte) : List Byte :=
  let t := if timeValid s then (s.tim.netBase + nowNs s) / 10 ^ 9 else uptime s / 10 ^ 9
  toBe 2 10 ++ toBe 2 (16 + sets.length) ++ toBe 4 t ++ toBe 4 (rd s (R.fltTelSeqSeq q)) ++
    toBe 4 (rd s R.fltTelHdrCfgDomainBase + q) ++ sets

/-- The frame of a message, without FCS: the template, with the lengths and checksums filled in (R202). -/
def ipfixFrame (s : State) (msg : List Byte) : List Byte :=
  let n := rd s R.fltTelHdrCfgHdrLen
  let o := rd s R.fltTelHdrCfgL3Off
  let b := (telHdr s).take n ++ msg
  if rdB s R.fltTelHdrCfgIpv6 then
    let u := o + 40
    let b := putBytes b (o + 4) (toBe 2 (b.length - u))
    let b := putBytes (putBytes b (u + 4) (toBe 2 (b.length - u))) (u + 6) [0, 0]
    let ck := 65535 - inetSum (slice b (o + 8) 32 ++ toBe 4 (b.length - u) ++ toBe 4 17 ++ b.drop u) 0
    putBytes b (u + 6) (toBe 2 (if ck = 0 then 0xFFFF else ck))
  else
    let u := o + 20
    let b := putBytes (putBytes b (o + 2) (toBe 2 (b.length - o))) (o + 4) [0, 0]
    let b := putBytes b (o + 10) [0, 0]
    let b := putBytes b (o + 10) (toBe 2 (65535 - inetSum (slice b o 20) 0))
    putBytes (putBytes b (u + 4) (toBe 2 (b.length - u))) (u + 6) [0, 0]

/-- A frame the device builds in quadrant `q` is enqueued on a queue of a port; it has no ingress port. -/
def enqueueBuilt (s : State) (q port queue : Nat) (b : List Byte) : State :=
  let b := b ++ List.replicate (60 - b.length) 0
  let b := b ++ fcsOf b
  let t := time48 s
  let r := beginFrame s 1023 q 0 (2208 + q) ⟨t / 2 ^ 16, t % 2 ^ 16, 0, 0, 0, false, true, 1023⟩ 0 (b.take 192)
  match r.1 with
  | some h =>
    let s := (cutCells b.length (b.drop 192)).foldl (fun s x =>
      if ((mget s.cel.frames h).map (fun f => f.abortUnsent == 0)).getD false then addCell s h x else s) r.2
    let s := endFrame s h
    let s := updFrame s h (fun f => { f with
      bus := putBits (putBits (putBits (putBits f.bus 48 10 1023) 64 14 b.length) 224 10 port) 234 21 queue })
    releaseFrame false s h
  | none => r.2

/-- Sets of data records: consecutive records of one template share a set. -/
def dataSets : List (Bool × List Byte) → List (Bool × List Byte)
  | [] => []
  | (v, b) :: l =>
    match dataSets l with
    | (w, c) :: m => if v = w then (v, b ++ c) :: m else (v, b) :: (w, c) :: m
    | [] => [(v, b)]

/-- The bytes of those sets. -/
def setBytes (l : List (Bool × List Byte)) : List Byte :=
  (dataSets l).flatMap (fun x => toBe 2 (if x.1 then 257 else 256) ++ toBe 2 (4 + x.2.length) ++ x.2)

/-- How many of the buffered records fit one frame of MTU bytes. -/
def fitCount (hdr mtu : Nat) (l : List (Bool × List Byte)) : Nat :=
  ((List.range l.length).filter (fun n => decide (hdr + 16 + (setBytes (l.take (n + 1))).length ≤ mtu))).length

/-- R202: quadrant `q` builds a frame: the next record would exceed MTU, or the oldest is 100 ms old. A record
that no frame can hold is discarded. -/
def execExportFrameBuild (quad : Nat) (s : State) : Res := whenLive s <| settle s <|
  let q := quad % 4
  let buf := mgetD s.flo.expBuf q []
  let l := buf.map (·.2)
  let n := fitCount (rd s R.fltTelHdrCfgHdrLen) (rd s R.fltTelPortMtu) l
  let old := (buf.head?.map (fun e => decide (e.1 + 10 ^ 8 ≤ uptime s))).getD false
  if !exportOn s || l.isEmpty || !(old || decide (n < l.length)) then .next s
  else
    let keep := fun (s : State) k => { s with flo := { s.flo with expBuf := mset s.flo.expBuf q (buf.drop k) } }
    if n = 0 then .next (bump (keep s 1) (R.fltSvcCntCount q 14))
    else
      let f := ipfixFrame s (ipfixMsg s q (setBytes (l.take n)))
      let s := wr (bumpBy (keep s n) (R.fltSvcCntCount q 13) n) (R.fltTelSeqSeq q) (rd s (R.fltTelSeqSeq q) + n)
      .next (enqueueBuilt s q (rd s R.fltTelPortPort) (rd s R.fltTelPortQueue) f)

/-- The information elements of template 256 (IPv4) or 257 (IPv6) with their lengths (R200). -/
def templateIes (v6 : Bool) : List (Nat × Nat) :=
  let a := if v6 then 16 else 4
  [(if v6 then 27 else 8, a), (if v6 then 28 else 12, a), (7, 2), (11, 2), (if v6 then 281 else 225, a),
   (if v6 then 282 else 226, a), (227, 2), (228, 2), (4, 1), (6, 2), (136, 1), (239, 1), (234, 4), (86, 8), (85, 8),
   (22, 4), (21, 4)]

/-- A template record. -/
def templateRec (id : Nat) (l : List (Nat × Nat)) : List Byte :=
  toBe 2 id ++ toBe 2 l.length ++ l.flatMap (fun e => toBe 2 e.1 ++ toBe 2 e.2)

/-- The template set, the options template set, and, with valid time, the options record (R199, R200). -/
def templateSets (s : State) (q : Nat) : List Byte :=
  let t := templateRec 256 (templateIes false) ++ templateRec 257 (templateIes true)
  let o := toBe 2 258 ++ toBe 2 2 ++ toBe 2 1 ++ toBe 2 149 ++ toBe 2 4 ++ toBe 2 160 ++ toBe 2 8
  let start := (s.tim.netBase + nowNs s - uptime s) / 10 ^ 6
  toBe 2 2 ++ toBe 2 (4 + t.length) ++ t ++ toBe 2 3 ++ toBe 2 (4 + o.length) ++ o ++
  (if timeValid s then toBe 2 258 ++ toBe 2 16 ++ toBe 4 (rd s R.fltTelHdrCfgDomainBase + q) ++ toBe 8 start else [])

/-- Templates of a quadrant are due: none sent since EXPORT_EN became 1, or TEMPLATE_S seconds since the last. -/
def templateDue (s : State) (q : Nat) : Bool :=
  let t := rd s R.fltTelCfgTemplateS
  match mget s.flo.tmplAt q with
  | some u => t != 0 && decide (u + t * 10 ^ 9 ≤ uptime s)
  | none => true

/-- R199: quadrant `quad` sends its templates. -/
def execTemplateSend (quad : Nat) (s : State) : Res := whenLive s <| settle s <|
  let q := quad % 4
  if !exportOn s || !templateDue s q then .next s
  else
    let s := { s with flo := { s.flo with tmplAt := mset s.flo.tmplAt q (uptime s) } }
    let f := ipfixFrame s (ipfixMsg s q (templateSets s q))
    let s := if timeValid s then wr s (R.fltTelSeqSeq q) (rd s (R.fltTelSeqSeq q) + 1) else s
    .next (enqueueBuilt s q (rd s R.fltTelPortPort) (rd s R.fltTelPortQueue) f)

end Sys2Proof.Machine
end

