-- ==== Sys2Proof/Machine/Tables.lean ====
section
/-!
DEFINITION. Meanings of the forwarding-table rows: batches, takes, care-mask upkeep, learning, ageing
(chapters 3, 4, 5 and 12).
-/

namespace Sys2Proof.Machine

open Sys2Proof

/-! ### Batches (R327, R347–R349) -/

/-- R349: TABLE_BATCH, an indirect batch; the response payload is INDEX. -/
def execTableBatch (h : CmdHdr) (batch : List Byte) (s : State) : Res := whenLive s <| settle s <|
  .next (guarded s h (some 0) (fun s =>
    let o := (processBatch s h.requester batch).1
    ⟨o.status, toLe 4 o.index, o.st⟩))

/-- Bytes of a descriptor of ring `r`, and a device write into it. -/
def ringAddr (s : State) (r i size : Nat) : Nat := rd s (R.hifRingBaseAddr r) * 4096 + i * size

/-- Set DONE of descriptor `i` of ring `r` (bit 31 of the word at 8). -/
def setDone (s : State) (r i size : Nat) (d : List Byte) : State :=
  emit s (.dma (ringAddr s r i size + 8) (toLe 4 (setBit (fieldLe d 8 4) 31)))

/-- An open batch ends with INCOMPLETE (R349). -/
def dropOpenBatch (s : State) (u : Nat) : State :=
  match mget s.host.batches u with
  | some _ =>
    let s := { s with host := { s.host with batches := mdel s.host.batches u } }
    bump (bump s (R.hifCntCount 4)) (R.hifCntCount 5)
  | none => s

/-- One descriptor of table-update ring `u`, with the segment it names (R327). -/
def tuDescriptor (s : State) (u i : Nat) (d seg : List Byte) : State :=
  let r := 128 + u
  let len := fieldLe d 8 4 % 2 ^ 21
  let first := bit (fieldLe d 8 4) 21
  let last := bit (fieldLe d 8 4) 22
  let bad := len = 0 ∨ 1048576 < len ∨ bits (fieldLe d 8 4) 23 8 ≠ 0 ∨ fieldLe d 0x0E 2 ≠ 0 ∨
    fieldLe d 0x14 12 ≠ 0 ∨ fieldLe d 0x30 16 ≠ 0 ∨ (!first ∧ (mget s.host.batches u).isNone)
  if bad then setDone (hifErr s R.hifErrStatDescErr) r i 64 d
  else
    let s := if first then dropOpenBatch s u else s
    let ob := mgetD s.host.batches u ⟨uptime s, []⟩
    let b := ob.bytes ++ slice seg 0 len
    if last then
      let s := { s with host := { s.host with batches := mdel s.host.batches u } }
      let o := processBatch s 1 b
      let a := ringAddr o.1.st r i 64
      let s := emit o.1.st (.dma (a + 0x0C) (toLe 2 (Config.statusCode o.1.status).toNat))
      let s := emit s (.dma (a + 0x10) (toLe 4 o.1.index))
      let s := emit s (.dma (a + 0x20) (toLe 16 o.2.toNat))
      raiseVec (setDone s r i 64 d) 0 (65 + u)
    else setDone { s with host := { s.host with batches := mset s.host.batches u { ob with bytes := b } } } r i 64 d

/-- Process the posted descriptors of ring `u` from HEAD on. -/
def tuProcess (u size : Nat) : Nat → State → List (List Byte × List Byte) → State
  | 0, s, _ => s
  | n + 1, s, segs =>
    let i := rd s (R.hifRingCfgHead (128 + u))
    let d := segs.headD ([], [])
    let s := tuDescriptor s u i d.1 d.2
    tuProcess u size n (wr s (R.hifRingCfgHead (128 + u)) ((i + 1) % size)) segs.tail

/-- R320, R327, R469: PF0 writes TAIL at BAR4 offset `off`, the doorbell of table-update ring `off` / 0x40; `segs` are
the posted descriptors and the bytes their addresses hold, from HEAD on. A write to no doorbell is as R15 states. -/
def execTuRingDoorbell (off tail : Nat) (segs : List (List Byte × List Byte)) (s : State) : Res :=
  whenLive s <| settle s <|
  let u := off / 0x40
  let k := rd s (R.hifRingCfgSizeLog2 (128 + u))
  if off % 0x40 ≠ 0 ∨ 16 ≤ u then .next (if off = 0x1000 then s else hifErr s R.hifErrStatUnmapped)
  else if k = 0 then .next s
  else
    let size := 2 ^ k
    let s := { s with host := { s.host with ringTail := mset s.host.ringTail (128 + u) (tail % size) } }
    let n := (tail % size + size - rd s (R.hifRingCfgHead (128 + u))) % size
    .next (tuProcess u size n s segs)

/-- R349: 100 ms pass without the LAST segment of the batch open on ring `u`. -/
def execBatchIncomplete (u : Nat) (s : State) : Res := whenLive s <|
  .next (if (mget s.host.batches u).any (fun b => decide (b.since + 10 ^ 8 ≤ uptime s)) then dropOpenBatch s u else s)

/-! ### Care-mask upkeep (R108, R111, R114) -/

/-- Shift entries so that free slot `h` moves to `p`. -/
def shiftHole (d : TblDecl) (q b : Nat) (s : State) (h p : Nat) : State :=
  if p < h then ((upFrom p (h - p)).reverse.map (fun a => (a, a + 1))).foldl (cmsMove d q b) s
  else ((upFrom (h + 1) (p - h)).map (fun a => (a, a - 1))).foldl (cmsMove d q b) s

/-- Free slot `p` with a hole from below it; a hole position that gives its hole gets one in turn. -/
def holeDown (d : TblDecl) (q b : Nat) (targets : List Nat) : Nat → State → Nat → State
  | 0, s, _ => s
  | fuel + 1, s, p =>
    match ((List.range p).reverse).find? (fun a => (mget (bank s q b) a).isNone) with
    | some h =>
      let s := shiftHole d q b s h p
      if targets.contains h then holeDown d q b targets fuel s h else s
    | none => s

/-- Free one hole position. -/
def restoreHole (d : TblDecl) (q b n : Nat) (targets : List Nat) (s : State) (p : Nat) : State :=
  match mget (bank s q b) p with
  | none => s
  | some _ =>
    match (upFrom p (n - p)).find? (fun a => (mget (bank s q b) a).isNone) with
    | some h => shiftHole d q b s h p
    | none => holeDown d q b targets n s p

/-- Restore the spacing of one bank as the insert's hole interval `H` asks (R108). -/
def restoreBank (q : Nat) (s : State) (b H : Nat) : State :=
  match tblDecl s (rd s (R.cmsBankTable q b)) with
  | some d =>
    if bankRole s q b = 1 ∧ H ≠ 0 then
      let n := bankSlots (bankWidth s q b)
      let k := min (n - (bank s q b).length) (n / H)
      let targets := (upFrom 1 k).map (fun j => j * H - 1)
      targets.foldl (restoreHole d q b n targets) s
    else s
  | none => s

/-- The banks of a quadrant whose spacing is to be restored are restored. -/
def restoreQuad (s : State) (q : Nat) : State :=
  let due := s.tab.holes.filter (fun e => e.1 / 32 == q)
  let s := due.foldl (fun s e => restoreBank q s (e.1 % 32) e.2) s
  { s with tab := { s.tab with holes := s.tab.holes.filter (fun e => e.1 / 32 != q) } }

/-- R108: the insertion manager of quadrant `q` restores the spacing of the banks in which inserts used holes. -/
def execHoleRestore (q : Nat) (s : State) : Res := whenLive s <|
  if q < 4 ∧ rdB s (R.cmsStatRestoring q) then .next (wr (restoreQuad s q) (R.cmsStatRestoring q) 0)
  else .next s

/-- R114: the scrubber reads slice `a` of bank `b` of quadrant `q`; `bad` says that CHECK does not match. -/
def execCmsScrub (q b a : Nat) (bad : Bool) (s : State) : Res := whenLive s <| settle s <|
  if 4 ≤ q ∨ 32 ≤ b ∨ 4096 ≤ a ∨ !bad then .next s
  else
    let s := wrs s [(R.cmsStatCheckErr q, 1), (R.cmsErrAddrBank q, b), (R.cmsErrAddrSlice q, a)]
    let t := rd s (R.cmsBankTable q b)
    match (tblDecl s t).filter (fun _ => bankRole s q b != 0) with
    | some d =>
      let off := bankOff s d q b + 32 * a
      let sc := inScope s t
      let s := journal s 0x0051 (if sc then 3 else 2) t (.num 0) off q
      .next (if sc then standFault s 5 t off else raiseFault s 22 t off)
    | none =>
      -- A bank that holds no table has no storage image: the record names its slice (log 41).
      .next (raiseFault (journal s 0x0051 2 t (.num 0) (131072 * b + 32 * a) q) 22 t (131072 * b + 32 * a))

/-! ### Takes (R90–R97, R497) -/

/-- R93: TAKE_COMMIT, immediate or timed at `t`. -/
def execTakeCommit (h : CmdHdr) (timed : Bool) (t : Nat) (s : State) : Res := whenLive s <|
  .next (guarded s h (some 0) (fun s => inModes commandModes s (fun s =>
    if timed then commitTimed s (t % 2 ^ 32) false
    else if s.take.timed.isSome then refuse .busy s
    else if isSettling s then refuse .versionConflict s
    else
      let a := (nowNs s + 256) % 2 ^ 32
      let s := wrs s [(R.stgTakeActActTime, a), (R.stgTakeActActTake, rd s R.stgTakeStatCur + 1), (R.stgTakeActTimed, 0)]
      okay (syncPhase { s with take := { s.take with accepted := some a } }))))

/-- R93: TAKE_DISCARD. -/
def execTakeDiscard (h : CmdHdr) (s : State) : Res := whenLive s <|
  .next (guarded s h (some 0) (fun s => inModes commandModes s (fun s =>
    if s.take.timed.isSome ∧ timedRemaining s < 10000 then refuse .busy s
    else
      let s := if s.take.cluster then cluCancelled s else s
      let s := { s with take := { s.take with timed := none, cluster := false } }
      okay (syncPhase (if isSettling s then s else discardStaged s)))))

/-- R90: a due commit switches stamping. -/
def execTakeActivate (s : State) : Res := whenLive s <| .next (activateDue s (fun t => t))

/-- A packet of take `t` is in an ingress section, arriving to one, or in a hold queue (R95). -/
def takeInFlight (s : State) (t : Nat) : Bool :=
  s.cel.frames.any (fun f => f.2.phase != .done && f.2.abortUnsent == 0 && busTake f.2.bus == t)

/-- R95: the older take's packet count is zero and it retires. -/
def execTakeDrainComplete (s : State) : Res := whenLive s <|
  if rdB s R.stgTakeStatOldLive && !s.take.settling &&
      !takeInFlight s (rd s R.stgTakeStatOld) then
    .next (retireTake s)
  else .next s

/-- R95: DRAIN_LIMIT elapses after the switch. -/
def execDrainLimitExpire (s : State) : Res := whenLive s <|
  let limit := 1000 * rd s R.stgTakeCfgDrainLimit
  let late := s.take.drainSince.any (fun t => decide (t + limit ≤ uptime s))
  if rdB s R.stgTakeStatOldLive && !s.take.settling && limit != 0 && late then .next (retireTake s)
  else .next s

/-- R96: settling ends; a timed commit that has waited for it activates late. -/
def execTakeSettleDone (s : State) : Res := whenLive s <|
  if !s.take.settling then .next s
  else
    let s := settleTake s
    match s.take.timed with
    | some t =>
      if reached s t then
        let s' := activateDue s (fun _ => nowNs s)
        if rd s' R.stgTakeStatCur = rd s R.stgTakeStatCur then .next s'
        else
          let s' := wr s' R.stgTakeStatLate 1
          .next (journal s' 0x0030 1 (rd s' R.stgTakeStatCur) (.code .ok) (rd s R.stgTakeActActTime) (nowNs s'))
      else .next s
    | none => .next s

/-! ### Learning (R133–R136) -/

/-- R134: the learn arbiter of table `t` takes a learn request; a key that has been learned on another port
meanwhile makes it a move request. -/
def execLearnCommit (t : Nat) (s : State) : Res := whenLive s <|
  match tblDecl s t, mgetD s.tab.queue t [] with
  | some d, r :: rs =>
    if r.move then .next s
    else match learnEntry s d r.key with
      | some e =>
        if e.action % 1024 = r.port then .next (setQueue s t rs)
        else .next (setQueue s t ({ r with move := true } :: rs))
      | none => .next (learnCommit (setQueue s t rs) d r)
  | _, _ => .next s

/-- R135: the learn arbiter of table `t` decides a move request; a key that is gone makes it a learn request. -/
def execMoveDecide (t : Nat) (s : State) : Res := whenLive s <|
  match tblDecl s t, mgetD s.tab.queue t [] with
  | some d, r :: rs =>
    if !r.move then .next s
    else match learnEntry s d r.key with
      | some e =>
        .next (decideMove (setQueue s t rs) d r e)
      | none => .next (setQueue s t ({ r with move := false } :: rs))
  | _, _ => .next s

/-! ### Ageing (R137, R138) -/

/-- What a visit does to an entry: `some` keeps it with HIT clear, `none` removes it. -/
def ageVisit (s : State) (t : Nat) (e : TEnt) : Option TEnt :=
  let P := rd s (R.fwdTblAgeAgeMs t)
  if e.static then some e
  else if rdB s (R.fwdTblStatStampMode t) then
    if cdiv (2 * P) 1000 ≤ (fwdSec s + 2 ^ 16 - e.stamp) % 2 ^ 16 then none else some { e with hit := 0 }
  else if e.hit = 0 then none else some { e with hit := 0 }

/-- Visit one bucket, behind the requests that wait (R133, R137); HIT is no part of the storage image, so its clearing
is not reported. -/
def visitBucket (s : State) (d : TblDecl) (b : Nat) : State :=
  (bucketSlots d b 1).foldl (fun s p =>
    match mget (bkt s d.num) p with
    | some e =>
      match ageVisit s d.num e with
      | some e' => setBkt s d.num (mset (bkt s d.num) p e')
      | none => tblCnt (promote (delEnt s d p 3) d b) d.num 5
    | none => s) s

/-- Visit the overflow store: an entry goes when it is idle in every replica. -/
def visitOverflow (s : State) (d : TblDecl) : State :=
  let all := (quadsOf d).foldl (fun a q => (banksOf s d.num 2 q).foldl (fun a b => a ++ (bank s q b).map (·.2)) a) []
  let age := fun (c : CmsE) => (fwdSec s + 2 ^ 16 - c.stamp) % 2 ^ 16
  let s := ((all.map (·.value)).eraseDups).foldl (fun s key =>
    let cs := all.filter (fun c => c.value == key)
    let e : TEnt := { (cs.head?.map (cmsEnt d)).getD ⟨key, 1, 0, 0, 0, false, true, 0, 0, false, []⟩ with
      hit := if cs.any (fun c => c.hit != 0) then 1 else 0,
      stamp := (fwdSec s + 2 ^ 16 - (cs.map age).foldl min (2 ^ 16 - 1)) % 2 ^ 16 }
    match ageVisit s d.num e with
    | some _ => s
    | none =>
      let s := (quadsOf d).foldl (fun s q => (banksOf s d.num 2 q).foldl (fun s b =>
        (bank s q b).foldl (fun s x => if x.2.value = key then delCms s d q b x.1 3 else s) s) s) s
      tblCnt s d.num 5) s
  (quadsOf d).foldl (fun s q => (banksOf s d.num 2 q).foldl (fun s b =>
    { s with tab := { s.tab with
        cms := mset s.tab.cms (32 * q + b) ((bank s q b).map (fun x => (x.1, { x.2 with hit := 0 }))) } }) s) s

/-- A sweep of table `t` ends (R138). -/
def endAgeing (s : State) (t : Nat) (w : AgeSweep) : State :=
  let late := decide (rd s (R.fwdTblAgeAgeMs t) * 10 ^ 6 < uptime s - w.start)
  let n := if late then 0 else w.onTime + 1
  let s := if late then wrs s [(R.fwdTblStatLate t, 1), (R.fwdTblStatStampMode t, 1)]
    else if 2 ≤ n then wr s (R.fwdTblStatStampMode t) 0 else s
  { s with tab := { s.tab with age := mset s.tab.age t ⟨0, uptime s, n⟩ } }

/-- R137: the ageing sweep of table `t` visits its next bucket; the overflow store follows the last one. -/
def execAgeingVisit (t : Nat) (s : State) : Res := whenLive s <|
  match tblDecl s t with
  | some d =>
    if d.kind ≠ 1 ∨ 256 ≤ t ∨ rd s (R.fwdTblAgeAgeMs t) = 0 then .next s
    else
      let w := mgetD s.tab.age t ⟨0, uptime s, 0⟩
      let s := if d.learn then drainArbiter s d else s
      if w.next < 2 ^ d.sizeLog2 then
        let s := visitBucket s d w.next
        .next { s with tab := { s.tab with log := [], age := mset s.tab.age t { w with next := w.next + 1 } } }
      else
        let s := visitOverflow s d
        .next (endAgeing { s with tab := { s.tab with log := [] } } t w)
  | none => .next s

end Sys2Proof.Machine
end

