-- ==== Sys2Proof/Machine/Dispatch.lean ====
section
/-!
DEFINITION. The meaning of every command, one arm each.
-/

namespace Sys2Proof.Machine

open Sys2Proof

/-- The effect of a command on everything but the queue. -/
def exec (i : Instr) (s : State) : Host.Outcome State Fault Refusal :=
  match i with
  | .registerWrite requester addr value => Sys2Proof.Machine.execRegisterWrite requester addr value s
  | .halfAccess requester addr write value => Sys2Proof.Machine.execHalfAccess requester addr write value s
  | .narrowAccess requester addr write => Sys2Proof.Machine.execNarrowAccess requester addr write s
  | .unmappedAccess requester addr nbytes write => Sys2Proof.Machine.execUnmappedAccess requester addr nbytes write s
  | .protectedWrite requester addr => Sys2Proof.Machine.execProtectedWrite requester addr s
  | .frameStart port bytes align clean => Sys2Proof.Machine.execFrameStart port bytes align clean s
  | .cellWrite port bytes => Sys2Proof.Machine.execCellWrite port bytes s
  | .frameEnd port bytes witErr => Sys2Proof.Machine.execFrameEnd port bytes witErr s
  | .inputStop port => Sys2Proof.Machine.execInputStop port s
  | .packetIngress head ecc witErr => Sys2Proof.Machine.execPacketIngress head ecc witErr s
  | .bucketReadDone line first again => Sys2Proof.Machine.execBucketReadDone line first again s
  | .writebackDone entry ecc => Sys2Proof.Machine.execWritebackDone entry ecc s
  | .schedulerSelect port hurt => Sys2Proof.Machine.execSchedulerSelect port hurt s
  | .headScan quad => Sys2Proof.Machine.execHeadScan quad s
  | .egressSend port fault out dir align => Sys2Proof.Machine.execEgressSend port fault out dir align s
  | .chainRelease head writer cp => Sys2Proof.Machine.execChainRelease head writer cp s
  | .celFree requester quad ptr => Sys2Proof.Machine.execCelFree requester quad ptr s
  | .portTreeSwitch port => Sys2Proof.Machine.execPortTreeSwitch port s
  | .rxFrameWrite port fault desc out => Sys2Proof.Machine.execRxFrameWrite port fault desc out s
  | .txRingDoorbell off tail => Sys2Proof.Machine.execTxRingDoorbell off tail s
  | .txDescriptor ring desc frame => Sys2Proof.Machine.execTxDescriptor ring desc frame s
  | .eventPost typ quad ctl payload => Sys2Proof.Machine.execEventPost typ quad ctl payload s
  | .eventRingHead head => Sys2Proof.Machine.execEventRingHead head s
  | .tuRingDoorbell off tail segs => Sys2Proof.Machine.execTuRingDoorbell off tail segs s
  | .batchIncomplete ring => Sys2Proof.Machine.execBatchIncomplete ring s
  | .handoverGo requester quad target => Sys2Proof.Machine.execHandoverGo requester quad target s
  | .handoverPortSwitch port => Sys2Proof.Machine.execHandoverPortSwitch port s
  | .handoverEndMarker quad pg witErr => Sys2Proof.Machine.execHandoverEndMarker quad pg witErr s
  | .handoverRelieved quad => Sys2Proof.Machine.execHandoverRelieved quad s
  | .relievedPipeTestDone quad pass => Sys2Proof.Machine.execRelievedPipeTestDone quad pass s
  | .rotationStep quad => Sys2Proof.Machine.execRotationStep quad s
  | .spareProgramLoadDone quad => Sys2Proof.Machine.execSpareProgramLoadDone quad s
  | .flitReplay link failed frames => Sys2Proof.Machine.execFlitReplay link failed frames s
  | .powerGood strapFlash strapSmb flash => Sys2Proof.Machine.execPowerGood strapFlash strapSmb flash s
  | .pwrRstN strapFlash strapSmb flash => Sys2Proof.Machine.execPwrRstN strapFlash strapSmb flash s
  | .warmReset hdr => Sys2Proof.Machine.execWarmReset hdr s
  | .fuseSense part fuses => Sys2Proof.Machine.execFuseSense part fuses s
  | .pllLock clocksOk => Sys2Proof.Machine.execPllLock clocksOk s
  | .fwVerifyDone tail => Sys2Proof.Machine.execFwVerifyDone tail s
  | .imageReadDone ids hurt => Sys2Proof.Machine.execImageReadDone ids hurt s
  | .loadApplyDone v0 => Sys2Proof.Machine.execLoadApplyDone v0 s
  | .initTrainingDone stack ok bad => Sys2Proof.Machine.execInitTrainingDone stack ok bad s
  | .recordSpaceClearDone quad ok => Sys2Proof.Machine.execRecordSpaceClearDone quad ok s
  | .holdupSample v1 => Sys2Proof.Machine.execHoldupSample v1 s
  | .testComplete badPipes badGroups => Sys2Proof.Machine.execTestComplete badPipes badGroups s
  | .perstN low => Sys2Proof.Machine.execPerstN low s
  | .flr fn => Sys2Proof.Machine.execFlr fn s
  | .masterReset master => Sys2Proof.Machine.execMasterReset master s
  | .domainResetPipe requester quad index => Sys2Proof.Machine.execDomainResetPipe requester quad index s
  | .domainResetGroup requester quad index => Sys2Proof.Machine.execDomainResetGroup requester quad index s
  | .domainResetStack requester quad index => Sys2Proof.Machine.execDomainResetStack requester quad index s
  | .domainResetCore requester quad index => Sys2Proof.Machine.execDomainResetCore requester quad index s
  | .watchdogExpire core => Sys2Proof.Machine.execWatchdogExpire core s
  | .portPowerDown requester port => Sys2Proof.Machine.execPortPowerDown requester port s
  | .portPowerUp requester port => Sys2Proof.Machine.execPortPowerUp requester port s
  | .portRetrain requester port => Sys2Proof.Machine.execPortRetrain requester port s
  | .portTrainDone port => Sys2Proof.Machine.execPortTrainDone port s
  | .quadrantPark requester quad => Sys2Proof.Machine.execQuadrantPark requester quad s
  | .parkComplete quad => Sys2Proof.Machine.execParkComplete quad s
  | .parkDrainTimeout quad => Sys2Proof.Machine.execParkDrainTimeout quad s
  | .quadrantUnpark requester quad => Sys2Proof.Machine.execQuadrantUnpark requester quad s
  | .regionLive region => Sys2Proof.Machine.execRegionLive region s
  | .safeExit hdr => Sys2Proof.Machine.execSafeExit hdr s
  | .fwRestart requester => Sys2Proof.Machine.execFwRestart requester s
  | .imagePartial hdr bytes => Sys2Proof.Machine.execImagePartial hdr bytes s
  | .flashImage hdr slot bytes => Sys2Proof.Machine.execFlashImage hdr slot bytes s
  | .bootSet hdr slot fallback => Sys2Proof.Machine.execBootSet hdr slot fallback s
  | .rollbackCommit hdr cut => Sys2Proof.Machine.execRollbackCommit hdr cut s
  | .tableBatch hdr batch => Sys2Proof.Machine.execTableBatch hdr batch s
  | .holeRestore quad => Sys2Proof.Machine.execHoleRestore quad s
  | .cmsScrub quad bank slice bad => Sys2Proof.Machine.execCmsScrub quad bank slice bad s
  | .takeCommit hdr timed tAct => Sys2Proof.Machine.execTakeCommit hdr timed tAct s
  | .takeDiscard hdr => Sys2Proof.Machine.execTakeDiscard hdr s
  | .learnCommit table => Sys2Proof.Machine.execLearnCommit table s
  | .moveDecide table => Sys2Proof.Machine.execMoveDecide table s
  | .ageingVisit table => Sys2Proof.Machine.execAgeingVisit table s
  | .continuitySweep table shadow hurt => Sys2Proof.Machine.execContinuitySweep table shadow hurt s
  | .continuityCatchup table quad block applied shadow hurt timedOut => Sys2Proof.Machine.execContinuityCatchup table quad block applied shadow hurt timedOut s
  | .replSet hdr group members => Sys2Proof.Machine.execReplSet hdr group members s
  | .setupLimitExpire task => Sys2Proof.Machine.execSetupLimitExpire task s
  | .flowCreate hdr record => Sys2Proof.Machine.execFlowCreate hdr record s
  | .flowPin hdr key => Sys2Proof.Machine.execFlowPin hdr key s
  | .flowUnpin hdr key => Sys2Proof.Machine.execFlowUnpin hdr key s
  | .flowDelete hdr key => Sys2Proof.Machine.execFlowDelete hdr key s
  | .flowCmdResume entry => Sys2Proof.Machine.execFlowCmdResume entry s
  | .sweepTaskPost quad removal => Sys2Proof.Machine.execSweepTaskPost quad removal s
  | .quarantineRepair quad entry bad => Sys2Proof.Machine.execQuarantineRepair quad entry bad s
  | .portAllocate vrf v6 addr pool task => Sys2Proof.Machine.execPortAllocate vrf v6 addr pool task s
  | .tentativePortExpire entry => Sys2Proof.Machine.execTentativePortExpire entry s
  | .portRelease vrf v6 addr index port => Sys2Proof.Machine.execPortRelease vrf v6 addr index port s
  | .subscriberVisit quad => Sys2Proof.Machine.execSubscriberVisit quad s
  | .svcSet hdr service policy seed hpEn hpPool max => Sys2Proof.Machine.execSvcSet hdr service policy seed hpEn hpPool max s
  | .svcDelete hdr service => Sys2Proof.Machine.execSvcDelete hdr service s
  | .backendSet hdr service index addr v6 port zone weight state => Sys2Proof.Machine.execBackendSet hdr service index addr v6 port zone weight state s
  | .removalSweepStart entry => Sys2Proof.Machine.execRemovalSweepStart entry s
  | .removalSweepEnd entry => Sys2Proof.Machine.execRemovalSweepEnd entry s
  | .poolSet hdr pool entry addrs => Sys2Proof.Machine.execPoolSet hdr pool entry addrs s
  | .poolClear hdr pool => Sys2Proof.Machine.execPoolClear hdr pool s
  | .admSet hdr cls rate burst => Sys2Proof.Machine.execAdmSet hdr cls rate burst s
  | .sampleReturn quad slot => Sys2Proof.Machine.execSampleReturn quad slot s
  | .sampleSlotExpire quad slot => Sys2Proof.Machine.execSampleSlotExpire quad slot s
  | .exportFrameBuild quad => Sys2Proof.Machine.execExportFrameBuild quad s
  | .templateSend quad => Sys2Proof.Machine.execTemplateSend quad s
  | .taskAdmit quad => Sys2Proof.Machine.execTaskAdmit quad s
  | .dispatch quad grp aff => Sys2Proof.Machine.execDispatch quad grp aff s
  | .microwordIssue quad grp ctx ecc => Sys2Proof.Machine.execMicrowordIssue quad grp ctx ecc s
  | .memOpComplete quad grp ctx first again => Sys2Proof.Machine.execMemOpComplete quad grp ctx first again s
  | .fopRead quad grp ctx first again => Sys2Proof.Machine.execFopRead quad grp ctx first again s
  | .fopPlace quad grp ctx => Sys2Proof.Machine.execFopPlace quad grp ctx s
  | .fopUpdate quad grp ctx => Sys2Proof.Machine.execFopUpdate quad grp ctx s
  | .fopRemove quad grp ctx => Sys2Proof.Machine.execFopRemove quad grp ctx s
  | .fopPin quad grp ctx => Sys2Proof.Machine.execFopPin quad grp ctx s
  | .fopUnpin quad grp ctx => Sys2Proof.Machine.execFopUnpin quad grp ctx s
  | .waitEnd quad grp ctx timedOut => Sys2Proof.Machine.execWaitEnd quad grp ctx timedOut s
  | .taskPost requester quad grp => Sys2Proof.Machine.execTaskPost requester quad grp s
  | .taskCancel requester quad domain seq => Sys2Proof.Machine.execTaskCancel requester quad domain seq s
  | .cancelKill quad grp ctx => Sys2Proof.Machine.execCancelKill quad grp ctx s
  | .engInt requester quad grp ctx code => Sys2Proof.Machine.execEngInt requester quad grp ctx code s
  | .flagWrite requester quad grp task flags => Sys2Proof.Machine.execFlagWrite requester quad grp task flags s
  | .flagTick quad grp => Sys2Proof.Machine.execFlagTick quad grp s
  | .groupDrain requester quad grp => Sys2Proof.Machine.execGroupDrain requester quad grp s
  | .drainKill quad grp => Sys2Proof.Machine.execDrainKill quad grp s
  | .groupReturn requester quad grp => Sys2Proof.Machine.execGroupReturn requester quad grp s
  | .groupAdopt requester quad grp cls => Sys2Proof.Machine.execGroupAdopt requester quad grp cls s
  | .groupRelease requester quad grp => Sys2Proof.Machine.execGroupRelease requester quad grp s
  | .engGroup hdr quad grp op cls => Sys2Proof.Machine.execEngGroup hdr quad grp op cls s
  | .engineGroupTest quad grp idle pass => Sys2Proof.Machine.execEngineGroupTest quad grp idle pass s
  | .timIncrementWrite requester value => Sys2Proof.Machine.execTimIncrementWrite requester value s
  | .timEpochAck requester ack clrRebase => Sys2Proof.Machine.execTimEpochAck requester ack clrRebase s
  | .timAdjStep requester step => Sys2Proof.Machine.execTimAdjStep requester step s
  | .timAdjSet requester ns => Sys2Proof.Machine.execTimAdjSet requester ns s
  | .lockDeclare requester director epoch => Sys2Proof.Machine.execLockDeclare requester director epoch s
  | .lossDeclare requester => Sys2Proof.Machine.execLossDeclare requester s
  | .timeSet hdr sec ns => Sys2Proof.Machine.execTimeSet hdr sec ns s
  | .timeStep hdr amount => Sys2Proof.Machine.execTimeStep hdr amount s
  | .timeCfg hdr limit hold => Sys2Proof.Machine.execTimeCfg hdr limit hold s
  | .gateListRun requester port base run => Sys2Proof.Machine.execGateListRun requester port base run s
  | .gateEntryAdvance port => Sys2Proof.Machine.execGateEntryAdvance port s
  | .listChangeTime port => Sys2Proof.Machine.execListChangeTime port s
  | .gateSet hdr port sched cycle baseOff entries => Sys2Proof.Machine.execGateSet hdr port sched cycle baseOff entries s
  | .rsvSet hdr queue port tc maxLen admOff admLen egrOff egrLen frames => Sys2Proof.Machine.execRsvSet hdr queue port tc maxLen admOff admLen egrOff egrLen frames s
  | .rsvClear hdr queue => Sys2Proof.Machine.execRsvClear hdr queue s
  | .admissionWindowStart queue => Sys2Proof.Machine.execAdmissionWindowStart queue s
  | .egressWindowEnd queue => Sys2Proof.Machine.execEgressWindowEnd queue s
  | .macTxtsRead requester port => Sys2Proof.Machine.execMacTxtsRead requester port s
  | .ppsInRead requester => Sys2Proof.Machine.execPpsInRead requester s
  | .synceSquelch output locked => Sys2Proof.Machine.execSynceSquelch output locked s
  | .hbmRequest stack port op addr len data forwarded first again => Sys2Proof.Machine.execHbmRequest stack port op addr len data forwarded first again s
  | .refreshDue stack pc flowQueued => Sys2Proof.Machine.execRefreshDue stack pc flowQueued s
  | .tempReading stack temp => Sys2Proof.Machine.execTempReading stack temp s
  | .retrainPass stack pc => Sys2Proof.Machine.execRetrainPass stack pc s
  | .retrainPassDone stack pc ok => Sys2Proof.Machine.execRetrainPassDone stack pc ok s
  | .memRate hdr stack rate => Sys2Proof.Machine.execMemRate hdr stack rate s
  | .rateChangeDone done => Sys2Proof.Machine.execRateChangeDone done s
  | .pcRetire hdr stack pc rmode => Sys2Proof.Machine.execPcRetire hdr stack pc rmode s
  | .migrationBlockCopy stack errs => Sys2Proof.Machine.execMigrationBlockCopy stack errs s
  | .mbxDataWrite master n word value => Sys2Proof.Machine.execMbxDataWrite master n word value s
  | .mbxDoorbell master n value msg => Sys2Proof.Machine.execMbxDoorbell master n value msg s
  | .mbxTake master n => Sys2Proof.Machine.execMbxTake master n s
  | .lockAcquire requester lock => Sys2Proof.Machine.execLockAcquire requester lock s
  | .lockRelease requester lock value => Sys2Proof.Machine.execLockRelease requester lock value s
  | .lckForce core lock => Sys2Proof.Machine.execLckForce core lock s
  | .commandTake core n => Sys2Proof.Machine.execCommandTake core n s
  | .commandResponse core n => Sys2Proof.Machine.execCommandResponse core n s
  | .sessionChallenge hdr => Sys2Proof.Machine.execSessionChallenge hdr s
  | .sessionOpen hdr payload => Sys2Proof.Machine.execSessionOpen hdr payload s
  | .sessionClose hdr => Sys2Proof.Machine.execSessionClose hdr s
  | .deviceKeys hdr => Sys2Proof.Machine.execDeviceKeys hdr s
  | .sessionStatus hdr session => Sys2Proof.Machine.execSessionStatus hdr session s
  | .regRead hdr addr count => Sys2Proof.Machine.execRegRead hdr addr count s
  | .tableRead hdr table off len => Sys2Proof.Machine.execTableRead hdr table off len s
  | .journalRead hdr first count => Sys2Proof.Machine.execJournalRead hdr first count s
  | .regWrite hdr addr value mask => Sys2Proof.Machine.execRegWrite hdr addr value mask s
  | .handover hdr quad target => Sys2Proof.Machine.execHandover hdr quad target s
  | .rotationSet hdr enable => Sys2Proof.Machine.execRotationSet hdr enable s
  | .holdupOverride hdr => Sys2Proof.Machine.execHoldupOverride hdr s
  | .freeze hdr => Sys2Proof.Machine.execFreeze hdr s
  | .rushesReq space tag unit addr len valid sec hurt => Sys2Proof.Machine.execRushesReq space tag unit addr len valid sec hurt s
  | .hbmDump mask => Sys2Proof.Machine.execHbmDump mask s
  | .keyLoad hdr slot use owner key128 wrapped => Sys2Proof.Machine.execKeyLoad hdr slot use owner key128 wrapped s
  | .keyErase hdr slot emode => Sys2Proof.Machine.execKeyErase hdr slot emode s
  | .keyZeroize hdr => Sys2Proof.Machine.execKeyZeroize hdr s
  | .keyRewriteApply slot => Sys2Proof.Machine.execKeyRewriteApply slot s
  | .cipherRingDoorbell master ring tail descs => Sys2Proof.Machine.execCipherRingDoorbell master ring tail descs s
  | .cipherJobStart core input old dmaErr => Sys2Proof.Machine.execCipherJobStart core input old dmaErr s
  | .cipherJobDone core => Sys2Proof.Machine.execCipherJobDone core s
  | .cipherGroupComplete ring => Sys2Proof.Machine.execCipherGroupComplete ring s
  | .sigRequest func pub msg sig => Sys2Proof.Machine.execSigRequest func pub msg sig s
  | .heartbeat port frame => Sys2Proof.Machine.execHeartbeat port frame s
  | .peerLost peer => Sys2Proof.Machine.execPeerLost peer s
  | .join port frame => Sys2Proof.Machine.execJoin port frame s
  | .joinAck port frame => Sys2Proof.Machine.execJoinAck port frame s
  | .time dst port frame => Sys2Proof.Machine.execTime dst port frame s
  | .svc port frame => Sys2Proof.Machine.execSvc port frame s
  | .ring port frame => Sys2Proof.Machine.execRing port frame s
  | .resync port frame => Sys2Proof.Machine.execResync port frame s
  | .lease port frame => Sys2Proof.Machine.execLease port frame s
  | .leaseSync port frame => Sys2Proof.Machine.execLeaseSync port frame s
  | .prepare port frame => Sys2Proof.Machine.execPrepare port frame s
  | .vote port frame => Sys2Proof.Machine.execVote port frame s
  | .go port frame => Sys2Proof.Machine.execGo port frame s
  | .goAck port frame => Sys2Proof.Machine.execGoAck port frame s
  | .abort port frame => Sys2Proof.Machine.execAbort port frame s
  | .keyRoll port frame => Sys2Proof.Machine.execKeyRoll port frame s
  | .steer port bytes align witErr => Sys2Proof.Machine.execSteer port bytes align witErr s
  | .cluPeerSet hdr id addr mac port delete => Sys2Proof.Machine.execCluPeerSet hdr id addr mac port delete s
  | .cluCommit hdr timed t => Sys2Proof.Machine.execCluCommit hdr timed t s
  | .cluKeyRoll hdr epoch t => Sys2Proof.Machine.execCluKeyRoll hdr epoch t s
  | .cluLeaseSet hdr pool first count mask => Sys2Proof.Machine.execCluLeaseSet hdr pool first count mask s
  | .cluDeputySet hdr id => Sys2Proof.Machine.execCluDeputySet hdr id s
  | .cluReclaim hdr => Sys2Proof.Machine.execCluReclaim hdr s
  | .faultDetect code unit detail standing => Sys2Proof.Machine.execFaultDetect code unit detail standing s
  | .faultAck requester value => Sys2Proof.Machine.execFaultAck requester value s
  | .faultClear code unit => Sys2Proof.Machine.execFaultClear code unit s
  | .clockMonitor unit hif => Sys2Proof.Machine.execClockMonitor unit hif s
  | .voltageMonitor rail => Sys2Proof.Machine.execVoltageMonitor rail s
  | .tempVote die t0 t1 t2 => Sys2Proof.Machine.execTempVote die t0 t1 t2 s
  | .serdesLoopback die laneBad eyeLow => Sys2Proof.Machine.execSerdesLoopback die laneBad eyeLow s
  | .hbmPhyLoopback stack bad => Sys2Proof.Machine.execHbmPhyLoopback stack bad s
  | .pipeTestAge quad pipe => Sys2Proof.Machine.execPipeTestAge quad pipe s
  | .journalPost typ sev req unit status a0 a1 a2 => Sys2Proof.Machine.execJournalPost typ sev req unit status a0 a1 a2 s
  | .journalCommit count ok => Sys2Proof.Machine.execJournalCommit count ok s
  | .scanEnable requester => Sys2Proof.Machine.execScanEnable requester s
  | .ctrSelWrite index value inc incEven => Sys2Proof.Machine.execCtrSelWrite index value inc incEven s
  | .ctrValWrite index value inc => Sys2Proof.Machine.execCtrValWrite index value inc s
  | .counterOverflow index inc => Sys2Proof.Machine.execCounterOverflow index inc s
  | .matchFire unit inc => Sys2Proof.Machine.execMatchFire unit inc s
  | .counterWindowAccess requester page slot write narrow => Sys2Proof.Machine.execCounterWindowAccess requester page slot write narrow s
  | .sampleRecord quad => Sys2Proof.Machine.execSampleRecord quad s
  | .indirectWindowRead requester addr narrow bad => Sys2Proof.Machine.execIndirectWindowRead requester addr narrow bad s
  | .indirectWindowWrite addr => Sys2Proof.Machine.execIndirectWindowWrite addr s
  | .smbusReadWord addr code readWord => Sys2Proof.Machine.execSmbusReadWord addr code readWord s
  | .pcieLinkL0 speed width up => Sys2Proof.Machine.execPcieLinkL0 speed width up s
  | .portLinkDown port => Sys2Proof.Machine.execPortLinkDown port s
  | .gateListStart port => Sys2Proof.Machine.execGateListStart port s
  | .controlStoreLoadDone quad grp ecc => Sys2Proof.Machine.execControlStoreLoadDone quad grp ecc s
  | .jtagInstruction instr cells => Sys2Proof.Machine.execJtagInstruction instr cells s
  | .warmRstN => Sys2Proof.Machine.execWarmRstN s
  | .warmResetStart => Sys2Proof.Machine.execWarmResetStart s
  | .warmResetCommitDone => Sys2Proof.Machine.execWarmResetCommitDone s
  | .refclkAppear => Sys2Proof.Machine.execRefclkAppear s
  | .fwFailQspiRelease => Sys2Proof.Machine.execFwFailQspiRelease s
  | .deviceKeyDerive => Sys2Proof.Machine.execDeviceKeyDerive s
  | .serveEntry => Sys2Proof.Machine.execServeEntry s
  | .fwCoreRestartDone => Sys2Proof.Machine.execFwCoreRestartDone s
  | .takeActivate => Sys2Proof.Machine.execTakeActivate s
  | .takeDrainComplete => Sys2Proof.Machine.execTakeDrainComplete s
  | .drainLimitExpire => Sys2Proof.Machine.execDrainLimitExpire s
  | .takeSettleDone => Sys2Proof.Machine.execTakeSettleDone s
  | .replRunFree => Sys2Proof.Machine.execReplRunFree s
  | .modeChangeKill => Sys2Proof.Machine.execModeChangeKill s
  | .nsWrap => Sys2Proof.Machine.execNsWrap s
  | .holdTimerExpire => Sys2Proof.Machine.execHoldTimerExpire s
  | .ppsOutEdge => Sys2Proof.Machine.execPpsOutEdge s
  | .ppsIn => Sys2Proof.Machine.execPpsIn s
  | .freezeN => Sys2Proof.Machine.execFreezeN s
  | .freezeTrigger => Sys2Proof.Machine.execFreezeTrigger s
  | .freezeJournalCommitDone => Sys2Proof.Machine.execFreezeJournalCommitDone s
  | .hbmDumpEnd => Sys2Proof.Machine.execHbmDumpEnd s
  | .heartbeatSend => Sys2Proof.Machine.execHeartbeatSend s
  | .deputyTakeover => Sys2Proof.Machine.execDeputyTakeover s
  | .joinSend => Sys2Proof.Machine.execJoinSend s
  | .leaseRenew => Sys2Proof.Machine.execLeaseRenew s
  | .leaseExpire => Sys2Proof.Machine.execLeaseExpire s
  | .voteDeadline => Sys2Proof.Machine.execVoteDeadline s
  | .goRepeat => Sys2Proof.Machine.execGoRepeat s
  | .crewGoDeadline => Sys2Proof.Machine.execCrewGoDeadline s
  | .keySwitch => Sys2Proof.Machine.execKeySwitch s
  | .timeCrosscheck => Sys2Proof.Machine.execTimeCrosscheck s
  | .pinReadback => Sys2Proof.Machine.execPinReadback s
  | .pfwNAssert => Sys2Proof.Machine.execPfwNAssert s
  | .powerFailCommitDone => Sys2Proof.Machine.execPowerFailCommitDone s
  | .pfwNDeassert => Sys2Proof.Machine.execPfwNDeassert s
  | .smpClear => Sys2Proof.Machine.execSmpClear s
  | .powerRemoval => Sys2Proof.Machine.execPowerRemoval s
  | .pcieRefclkPresent => Sys2Proof.Machine.execPcieRefclkPresent s

end Sys2Proof.Machine
end

