-- ==== Sys2Proof/Machine/Frame.lean ====
section
/-!
DEFINITION. The words of the frame claims: the part of the state that counting, signalling, posting an event,
journalling and driving a pin leave alone, and the register fields that they own.
-/

namespace Sys2Proof.Machine

open Sys2Proof

/-- The state without the parts that notifications change: register fields, what has left the device, free
values consumed, held and pending vectors, the event number, a pending trigger, and the journal's buffers. -/
def rest (s : State) : State :=
  { s with
    regs := [], sent := [], fresh := 0
    host := { s.host with vecHeld := [], msixPend := [], wakeN := false, evSeq := 0 }
    ctr := { s.ctr with frzReq := none }
    saf := { s.saf with jTail := [], jOver := [], jLost := 0 } }

/-- A key (64 × address + low bit) that no notification owns: not a programmable counter's, and none of
HIF_EVT_STAT.TAIL, HIF_CNT[7], SAFE_N, FAULT_N, SAF_FAULT, SAF_FIRST, SAF_CNT[3], JNL_STAT.SEQ and TAIL, JNL_CNT[0]
and [2]. -/
def quiet (k : Nat) : Bool :=
  !((64 * 0x81000 ≤ k && k < 64 * 0x82200) ||
    [64 * 0x20020, 64 * 0x23038, 64 * 0x60000, 64 * 0x60000 + 1, 64 * 0x60008, 64 * 0x60010, 64 * 0x60010 + 16,
     64 * 0x60010 + 32, 64 * 0x60118, 64 * 0x64000, 64 * 0x64000 + 32, 64 * 0x64100, 64 * 0x64110].contains k)

/-- Every field keeps its value but those that notifications own and those listed. -/
def Leaves (fs : List Fld) (s t : State) : Prop :=
  ∀ g : Fld, quiet (fkey g) = true → (∀ f ∈ fs, fkey f ≠ fkey g) → rd t g = rd s g

end Sys2Proof.Machine
end

