-- ==== Sys2Proof/Safety.lean ====
section
/-!
DEFINITION. What counts as a safe state and a safe run of the block, in the terms the claims use.
-/

namespace Sys2Proof

open Machine

/-- SAFE_N and FAULT_N stand as R420 and R421 give them; without power nothing drives them. -/
abbrev PinsRight (s : State) : Prop :=
  s.mod.seq = .off ∨
    (rdB s R.safStatSafeN = safeNAsserted s ∧ rdB s R.safStatFaultN = faultNAsserted s)

/-- A byte memory is in canonical form: addresses rise strictly and no listed byte is 0. -/
abbrev MemCanonical (s : State) : Prop := Memory.wf s.hbm.mem = true

/-- Command or event `c` in state `s` answers a next state that has property `P`. -/
def Completes (c : Instr) (s : State) (P : State → Prop) : Prop := ∃ t, exec c s = .next t ∧ P t

/-- A management core carries out the command of a command mailbox. -/
abbrev ByCore (h : CmdHdr) : Prop := isCore h.requester = true ∧ 32 ≤ h.mbx ∧ h.mbx < 64

/-- Firmware holds an untagged answer with this status and payload for the command's mailbox (R337). -/
abbrev Answers (h : CmdHdr) (c : Status) (payload : List Byte) (t : State) : Prop :=
  mget t.host.responseDue h.mbx = some ⟨slice h.body 0 32, none, c, payload⟩

/-- The fields of a register have no command and no effect of their own (log 37). -/
abbrev PlainRow (d : RegDesc) : Prop := ownTable.find? (fun e => e.1 == d.base) = none

/-- The low half that requester `r` has staged for the register at `home` (R13). -/
def stagedLow (s : State) (r home : Nat) : Option Nat :=
  match mget s.host.latches r with
  | some (.write a low) => if a = home then some low else none
  | _ => none

/-- A microword without a memory, message or trap part, that goes on to the next word (R206). -/
abbrev PlainWord (w : Nat) : Prop :=
  mwNext w = 0 ∧ mwMem w = 0 ∧ mwMsg w = 0 ∧ mwTrapEn w = false ∧ mwCond w ≠ 13

/-- The context after both ALU operations of a word, each on the registers before it (R207, R210). -/
def afterAlu (s : State) (x : CtxS) (w : Nat) : CtxS :=
  aluStep (flowTick s) (nowNs s) x (aluStep (flowTick s) (nowNs s) x x (mwAluA w)) (mwAluB w)

/-- Every logical channel of a stack has a channel that serves it (R316). -/
abbrev NoDead (s : State) (q : Nat) : Prop := ∀ l, l < 62 → chanDead s q l = false

/-- The Bolvis message `m` of type `typ` on a port passed every check of R372, and `u` is the state after them. -/
def Received (s : State) (typ port : Nat) (frame : List Byte) (m : BMsg) (u : State) : Prop :=
  bolvisCheck s typ port frame = (some m, u)

/-- The device can send to peer `i`: the peer is valid and the send epoch's key slot is loaded (R374). -/
abbrev CanSend (s : State) (i : Nat) : Prop :=
  i < 64 ∧ rdB s (R.cluPeerValid i) = true ∧ slotLoaded s (cluSlot (rd s R.cluKeyEpoch)) = true

/-- A Bolvis message of a type with a payload has left for peer `i`, or waits while a gate of its port's SCHED_TCS is
open (R370; R371: TYPE at byte 1, payload from byte 32 of the message, which starts 62 bytes into the frame). -/
def SentBolvis (t : State) (i typ : Nat) (payload : List Byte) : Prop :=
  ∃ b, slice b 63 1 = toBe 1 typ ∧ slice b 94 payload.length = payload ∧
    if agentMaySend t (rd t (R.cluPeerPort i)) then .bolvis i b ∈ t.sent
    else (i, rd t (R.cluPeerPort i), b) ∈ t.clu.outq

/-- The states that steps reach from `s`. -/
inductive Reaches (s : State) : State → Prop
  | refl : Reaches s s
  | step {t u : State} : Reaches s t → Machine.step t = .next u → Reaches s u

end Sys2Proof
end

