-- ==== Sys2Proof/Certificates/Slice0/Obligations.lean ====
section
/-!
DEFINITION. The statements for the provers. Their premises live, clocked and powered are the gates of log 24, and a free
value (log 2) may stand in any of them.
-/

open Sys2Proof Sys2Proof.Machine

/-! ### Register access (chapters 0, 12 and 18) -/

/-- R16: REGISTER_WRITE sets each field of a register without effects of its own (log 37) by its access code and,
  but for the four registers whose write has a further effect (MOD_ROT, MOD_FW, IMG_BOOT, TIM_CFG), changes no other
  register; on SK10240-S a write that clears a bit of MOD_ROT changes none of its bits (R404). A register whose
  fields have commands or effects of their own takes its plain fields and then those effects. A write that its
  master may not make, or to a read-only register, changes no field. It rests on the model's readings in log 34. -/
def Obligations.RegisterWriteSetsItsFields : Prop :=
  ∀ (s : State) (r a v : Nat), clocked s = true →
    (∀ (d : RegDesc) (home : Nat), regAt a = some (d, home) →
      (mayWrite d home r = true → isReadOnly home = false → PlainRow d →
        Completes (.registerWrite r a v) s (fun t =>
          (∀ f ∈ d.fields, f.own = false →
            (f.acc = .rw → okVal f.ok (bits v f.lo f.wid) = true →
              (home = R.modRotEn.addr → isS s = true → (rd s R.modRotEn &&& (15 - v % 16)) = 0) →
              rd t (fieldOf home f) = bits v f.lo f.wid) ∧
            (f.acc = .rw → okVal f.ok (bits v f.lo f.wid) = false → rd t (fieldOf home f) = rd s (fieldOf home f)) ∧
            (f.acc = .w1c → rd t (fieldOf home f) =
              (rd s (fieldOf home f) &&& ((2 ^ f.wid - 1) ^^^ bits v f.lo f.wid)) % 2 ^ f.wid) ∧
            (f.acc = .w1s → rd t (fieldOf home f) = (rd s (fieldOf home f) ||| bits v f.lo f.wid) % 2 ^ f.wid) ∧
            (f.acc = .ro ∨ f.acc = .rl → home ≠ R.safStatSafeN.addr → rd t (fieldOf home f) = rd s (fieldOf home f))) ∧
          (home = R.modRotEn.addr → isS s = true → (rd s R.modRotEn &&& (15 - v % 16)) ≠ 0 →
            rd t R.modRotEn = rd s R.modRotEn % 16) ∧
          (home ∉ [R.modRotEn.addr, R.modFwSlotNext.addr, R.imgBootSlot.addr, R.timCfgHoldS.addr] →
            ∀ g : Fld, g.lo < 64 → g.addr ≠ home → quiet (fkey g) = true → rd t g = rd s g))) ∧
      (mayWrite d home r = true → isReadOnly home = false → ¬ PlainRow d →
        ∃ t, exec (.registerWrite r a v) s = .next t ∧
          act s (settle s (.next (ownEffects (afterWrite (dropLatch s r) (writeReg (dropLatch s r) d home v) d home r)
            d home r v (2 ^ 64 - 1)))) = .next t) ∧
      (mayWrite d home r = false ∨ isReadOnly home = true →
        Completes (.registerWrite r a v) s (fun t => Leaves [] s t ∧ t.stats = s.stats))) ∧
    (regAt a = none → Completes (.registerWrite r a v) s (fun t => Leaves [] s t ∧ t.stats = s.stats))

/-- R14: a 32-bit read of a 64-only register returns all ones, a write of it has no effect, and both set NARROW.
  R15: a read where no register is returns 0, a write there has no effect, and both set UNMAPPED. R322: a host write
  to a register only the cores write has no effect and sets PROTECTED. Of R13: a 32-bit read returns its half of
  another register; a low-half write of one with a crossing field waits in the requester's latch (the four registers
  it leaves out have no crossing field), and the write of the high half after it is the 64-bit write of both; a
  32-bit write of a register without such a field, or of a high half without its low half, sets the plain fields of
  its half alone. -/
def Obligations.NarrowAndForeignAccessesAreReported : Prop :=
  (∀ (s : State) (r a v : Nat) (d : RegDesc) (home : Nat), clocked s = true →
    regAt (a - a % 8) = some (d, home) → d.only64 = false →
    Completes (.halfAccess r a false v) s (fun t =>
      .read r (halfRead s d home r (a % 8 == 4)).1 4 ∈ t.sent ∧ Leaves [R.timPpsInNew] s t) ∧
    (mayWrite d home r = true → isReadOnly home = false → crosses d = true → a % 8 = 0 →
      home ∉ [R.modRotEn.addr, R.modFwSlotNext.addr, R.imgBootSlot.addr, R.timCfgHoldS.addr] →
      Completes (.halfAccess r a true v) s (fun t =>
        mget t.host.latches r = some (.write home (v % 2 ^ 32)) ∧ Leaves [] s t)) ∧
    (mayWrite d home r = true → isReadOnly home = false → crosses d = true → a % 8 = 4 →
      ∀ low, stagedLow s r home = some low →
        exec (.halfAccess r a true v) s = exec (.registerWrite r (a - 4) (low + v % 2 ^ 32 * 2 ^ 32)) s) ∧
    (mayWrite d home r = true → isReadOnly home = false → PlainRow d → a % 4 = 0 →
      (a % 8 = 0 → crosses d = false) →
      (a % 8 = 4 → stagedLow s r home = none) →
      home ∉ [R.modRotEn.addr, R.modFwSlotNext.addr, R.imgBootSlot.addr, R.timCfgHoldS.addr] →
      Completes (.halfAccess r a true v) s (fun t =>
        (∀ f ∈ d.fields, f.own = false → f.acc = .rw →
          (a % 8 = 4 → 32 ≤ f.lo → okVal f.ok (bits (v % 2 ^ 32) (f.lo - 32) f.wid) = true →
            rd t (fieldOf home f) = bits (v % 2 ^ 32) (f.lo - 32) f.wid) ∧
          (a % 8 = 0 → f.lo + f.wid ≤ 32 → okVal f.ok (bits v f.lo f.wid) = true →
            rd t (fieldOf home f) = bits v f.lo f.wid) ∧
          (a % 8 = 4 → f.lo + f.wid ≤ 32 → rd t (fieldOf home f) = rd s (fieldOf home f)) ∧
          (a % 8 = 0 → 32 ≤ f.lo → rd t (fieldOf home f) = rd s (fieldOf home f))) ∧
        mget t.host.latches r = none ∧
        ∀ g : Fld, g.lo < 64 → g.addr ≠ home → quiet (fkey g) = true → rd t g = rd s g))) ∧
  (∀ (s : State) (r a : Nat) (w : Bool) (d : RegDesc) (home : Nat), clocked s = true →
    regAt (a - a % 8) = some (d, home) → d.only64 = true →
    Completes (.narrowAccess r a w) s (fun t =>
      rd t R.hifErrStatNarrow = 1 ∧ (w = false → .read r 0xFFFFFFFF 4 ∈ t.sent) ∧ mget t.host.latches r = none ∧
      Leaves [R.hifErrStatNarrow] s t ∧ rest t = rest (dropLatch s r))) ∧
  (∀ (s : State) (r a n : Nat) (w : Bool), clocked s = true → regAt (a - a % 8) = none →
    (a < 0x8000000 ∨ 0x10000000 ≤ a) →
    Completes (.unmappedAccess r a n w) s (fun t =>
      rd t R.hifErrStatUnmapped = 1 ∧ (w = false → .read r 0 n ∈ t.sent) ∧ Leaves [R.hifErrStatUnmapped] s t ∧
      rest t = rest (dropLatch s r))) ∧
  (∀ (s : State) (r a : Nat) (d : RegDesc) (home : Nat), clocked s = true → regAt (a - a % 8) = some (d, home) →
    mayWrite d home r = false → r ≠ 48 →
    Completes (.protectedWrite r a) s (fun t =>
      rd t R.hifErrStatProtected = 1 ∧ Leaves [R.hifErrStatProtected] s t ∧ rest t = rest (dropLatch s r)))

/-- R341, R342: REG_READ answers the registers' contents and changes no field; REG_WRITE sets the fields its mask
  selects whole, with the effects of a field that has some (log 37), and is refused with INVALID where no group
  serves the register, where the mask selects a read-only bit, and on SK10240-S where the write would disable a
  safety mechanism (R3). It rests on the model's readings in log 34. -/
def Obligations.RegisterCommandsReadAndWrite : Prop :=
  (∀ (s : State) (h : CmdHdr) (a n : Nat), live s = true → ByCore h → n ≤ 26 →
    Completes (.regRead h a n) s (fun t => Answers h .ok (readSeveral s a n).1 t ∧ Leaves [] s t)) ∧
  (∀ (s : State) (h : CmdHdr) (a v m : Nat) (d : RegDesc) (home : Nat), live s = true → ByCore h →
    regAt a = some (d, home) → d.grp ≠ 99 → d.coreOnly = true → maskBad d home v m = false →
    disables s (writeMasked s d home v m) home = none →
    (PlainRow d → Completes (.regWrite h a v m) s (fun t => Answers h .ok [] t ∧
      ∀ f ∈ d.fields, f.own = false → f.acc = .rw → bits m f.lo f.wid = 2 ^ f.wid - 1 →
        okVal f.ok (bits v f.lo f.wid) = true → rd t (fieldOf home f) = bits v f.lo f.wid)) ∧
    (¬ PlainRow d → ∃ t, exec (.regWrite h a v m) s = .next t ∧
      act s (settle s (.next (holdAnswer (ownEffects (afterWrite s (writeMasked s d home v m) d home h.requester) d home
        h.requester v m) h none .ok []))) = .next t)) ∧
  (∀ (s : State) (h : CmdHdr) (a v m : Nat) (d : RegDesc) (home : Nat), live s = true → ByCore h →
    regAt a = some (d, home) → d.grp ≠ 99 → d.coreOnly = true → maskBad d home v m = false →
    (disables s (writeMasked s d home v m) home).isSome = true →
    Completes (.regWrite h a v m) s (fun t => Answers h .invalid [] t ∧ Leaves [] s t)) ∧
  (∀ (s : State) (h : CmdHdr) (a v m : Nat) (d : RegDesc) (home : Nat), live s = true → ByCore h →
    regAt a = some (d, home) → (d.grp = 99 ∨ d.coreOnly = false ∨ maskBad d home v m = true) →
    Completes (.regWrite h a v m) s (fun t => Answers h .invalid [] t ∧ Leaves [] s t))

/-! ### Mailboxes, locks, commands and sessions (chapter 12) -/

/-- R330, R331, R337, R338: a write of a mailbox's data by the master that may write it stores the word; any other
  write leaves the data alone and is reported. A doorbell of that master fills the header and makes the mailbox
  FULL, any other is rejected; the reader's take empties it. A VF reaches the mailbox of the lowest lock it owns. -/
def Obligations.MailboxesCarryMessages : Prop :=
  (∀ (s : State) (m k n j v : Nat), clocked s = true → boxOf s m k = some n → j < 32 →
    (mbxWritable s m n = true →
      Completes (.mbxDataWrite m k j v) s (fun t => rd t (R.mbxDataBytes n j) = v % 2 ^ 64 ∧
        Leaves [R.mbxDataBytes n j] s t ∧ rest t = rest (dropLatch s m))) ∧
    (mbxWritable s m n = false →
      Completes (.mbxDataWrite m k j v) s (fun t => rd t R.hifErrStatMbxReject = 1 ∧ .busError m ∈ t.sent ∧
        (1 ≤ m ∧ m ≤ 18 → rd t (R.mbxStatReject n) = 1) ∧
        Leaves [R.hifErrStatMbxReject, R.mbxStatReject n] s t ∧
        rest t = rest (if 1 ≤ m ∧ m ≤ 18 then reportUr (dropLatch s m) m else dropLatch s m)))) ∧
  (∀ (s : State) (m k j v : Nat), clocked s = true → 3 ≤ m → m ≤ 18 → boxOf s m k = none → j < 32 →
    Completes (.mbxDataWrite m k j v) s (fun t => rd t R.hifErrStatMbxReject = 1 ∧ .busError m ∈ t.sent ∧
      Leaves [R.hifErrStatMbxReject] s t ∧ rest t = rest (reportUr (dropLatch s m) m))) ∧
  (∀ (s : State) (m k n v : Nat) (msg : List Byte), clocked s = true → boxOf s m k = some n → bits v 0 9 ≤ 256 →
    mbxWritable s m n = true →
    Completes (.mbxDoorbell m k v msg) s (fun t =>
      rd t (R.mbxStatState n) = 1 ∧ rd t (R.mbxHdrLen n) = bits v 0 9 ∧ rd t (R.mbxHdrSender n) = m % 64 ∧
      rd t (R.mbxHdrValid n) = 1 ∧ rd t (R.mbxHdrSeq n) = (rd s (R.mbxHdrSeq n) + 1) % 256 ∧
      rd t (R.mbxHdrCookie n) = bits v 32 32 ∧ (∀ j, j < 32 → rd t (R.mbxDataBytes n j) = rd s (R.mbxDataBytes n j)) ∧
      (32 ≤ n → .coreInt "COMMAND" n ∈ t.sent))) ∧
  (∀ (s : State) (m k n v : Nat), clocked s = true → boxOf s m k = some n →
    (256 < bits v 0 9 ∨ mbxWritable s m n = false) →
    Completes (.mbxDoorbell m k v []) s (fun t => rd t R.hifErrStatMbxReject = 1 ∧ .busError m ∈ t.sent ∧
      Leaves [R.hifErrStatMbxReject, R.mbxStatReject n] s t)) ∧
  (∀ (s : State) (m n : Nat), clocked s = true → n < 32 → byPort m n = false → rd s (R.mbxCfgReader n) = m → m ≠ 0 →
    mbxState s n = 1 → s.host.outRing.find? (fun e => e.1 == n) = none →
    Completes (.mbxTake m n) s (fun t => rd t (R.mbxStatState n) = 0 ∧ rd t (R.mbxHdrValid n) = 0 ∧
      .read m (mbxHeader s n) 8 ∈ t.sent ∧
      Leaves [R.mbxStatState n, R.mbxHdrValid n] s t ∧ rest t = rest (dropLatch s m))) ∧
  (∀ (s : State) (m k n : Nat), clocked s = true → boxOf s m k = some n → 32 ≤ n → lockOwner s n = m → m ≠ 0 →
    m ≠ 0x3F → mbxState s n = 3 →
    Completes (.mbxTake m k) s (fun t => mbxState t n = 0 ∧ lockOwner t n = m ∧
      .read m (mbxHeader s n) 8 ∈ t.sent))

/-- R335, R336: a read of a free lock takes it and returns 0; a read of a held lock returns its owner, of a
  RELEASING one 0x3F. The owner's release frees it, discarding a response that waits, or leaves it RELEASING while a
  command is in its mailbox; any other write leaves it and is reported. A core's LCK_FORCE releases any held lock in
  the same way and leaves a FREE or RELEASING one alone. -/
def Obligations.LocksHaveOneOwner : Prop :=
  (∀ (s : State) (r i : Nat), clocked s = true → i < 32 → reachesLocks r = true → lockOwner s (32 + i) = 0 →
    Completes (.lockAcquire r i) s (fun t => lockOwner t (32 + i) = r ∧ rd t (R.lckOwner i) = r ∧
      .read r 0 8 ∈ t.sent ∧ Leaves [R.mbxStatOwner (32 + i), R.lckOwner i] s t ∧ rest t = rest (dropLatch s r))) ∧
  (∀ (s : State) (r i : Nat), clocked s = true → i < 32 → reachesLocks r = true → lockOwner s (32 + i) ≠ 0 →
    Completes (.lockAcquire r i) s (fun t => lockOwner t (32 + i) = lockOwner s (32 + i) ∧
      .read r (lockOwner s (32 + i)) 8 ∈ t.sent ∧ Leaves [] s t ∧ rest t = rest (dropLatch s r))) ∧
  (∀ (s : State) (r i : Nat), clocked s = true → i < 32 → reachesLocks r = true → lockOwner s (32 + i) = r →
    Completes (.lockRelease r i r) s (fun t =>
      (mbxState s (32 + i) = 0 ∨ mbxState s (32 + i) = 3 → lockOwner t (32 + i) = 0 ∧ rd t (R.lckOwner i) = 0) ∧
      (mbxState s (32 + i) = 3 → mbxState t (32 + i) = 0) ∧
      (mbxState s (32 + i) ≠ 0 ∧ mbxState s (32 + i) ≠ 3 → lockOwner t (32 + i) = 0x3F ∧ rd t (R.lckOwner i) = 0x3F) ∧
      Leaves [R.mbxStatOwner (32 + i), R.lckOwner i, R.mbxStatState (32 + i), R.mbxHdrValid (32 + i)] s t)) ∧
  (∀ (s : State) (r i v : Nat), clocked s = true → i < 32 → reachesLocks r = true →
    (v ≠ r ∨ lockOwner s (32 + i) ≠ r) →
    Completes (.lockRelease r i v) s (fun t => rd t R.hifErrStatLockBadrel = 1 ∧
      rd t (R.hifCntCount 2) = (rd s (R.hifCntCount 2) + 1) % 2 ^ 48 ∧
      Leaves [R.hifErrStatLockBadrel, R.hifCntCount 2] s t ∧ rest t = rest (dropLatch s r))) ∧
  (∀ (s : State) (r i v : Nat), clocked s = true → reachesLocks r = false →
    Completes (.lockAcquire r i) s (fun t => Leaves [] s t ∧ rest t = rest (dropLatch s r)) ∧
    Completes (.lockRelease r i v) s (fun t => Leaves [] s t ∧ rest t = rest (dropLatch s r))) ∧
  (∀ (s : State) (c i : Nat), live s = true → isCore c = true → i < 32 →
    Completes (.lckForce c i) s (fun t => rd t R.lckForceLock = i ∧
      (lockOwner s (32 + i) = 0 ∨ lockOwner s (32 + i) = 0x3F → Leaves [R.lckForceLock] s t) ∧
      (lockOwner s (32 + i) ≠ 0 ∧ lockOwner s (32 + i) ≠ 0x3F →
        (mbxState s (32 + i) = 0 ∨ mbxState s (32 + i) = 3 → lockOwner t (32 + i) = 0 ∧ rd t (R.lckOwner i) = 0) ∧
        (mbxState s (32 + i) ≠ 0 ∧ mbxState s (32 + i) ≠ 3 → lockOwner t (32 + i) = 0x3F ∧ rd t (R.lckOwner i) = 0x3F)) ∧
      Leaves [R.lckForceLock, R.mbxStatOwner (32 + i), R.lckOwner i, R.mbxStatState (32 + i),
        R.mbxHdrValid (32 + i)] s t))

/-- R337, R341: a core takes a PENDING command; its response makes the mailbox RESPONSE and goes out.
  SESSION_CHALLENGE answers a nonce that stays held and unused; SESSION_STATUS and DEVICE_KEYS answer what they
  read. It rests on the model's readings in log 34. -/
def Obligations.CommandsAreTakenAndAnswered : Prop :=
  (∀ (s : State) (c n : Nat), live s = true → isCore c = true → 32 ≤ n → n < 64 → mbxState s n = 1 →
    Completes (.commandTake c n) s (fun t => mbxState t n = 2 ∧ mget t.host.takenBy n = some c ∧
      mget t.host.responseDue n = none ∧ .read c (mbxHeader s n) 8 ∈ t.sent ∧ Leaves [R.mbxStatState n] s t)) ∧
  (∀ (s : State) (c n : Nat) (a : Answer), live s = true → isCore c = true → 32 ≤ n → n < 64 → mbxState s n = 2 →
    mget s.host.responseDue n = some a → lockOwner s n ≠ 0x3F →
    Completes (.commandResponse c n) s (fun t => mbxState t n = 3 ∧ rd t (R.mbxHdrResp n) = 1 ∧
      mget t.host.responseDue n = none ∧ .response n a.status a.payload (responseMsg a).2.2 ∈ t.sent)) ∧
  (∀ (s : State) (h : CmdHdr), live s = true → ByCore h →
    Completes (.sessionChallenge h) s (fun t => Leaves [] s t ∧
      Answers h .ok (freeBytes s 32).1 t ∧
      t.host.nonces.head? = some ⟨h.requester, (freeBytes s 32).1, uptime s, false⟩)) ∧
  (∀ (s : State) (h : CmdHdr) (n : Nat), live s = true → ByCore h → 1 ≤ n → n ≤ 16 →
    Completes (.sessionStatus h n) s (fun t => Leaves [] s t ∧
      Answers h .ok (toLe 8 (rd s (R.hifSessSeqSeq n)) ++
        toLe 2 (statNum s (R.hifSessLastStatus n))) t)) ∧
  (∀ (s : State) (h : CmdHdr) (d : Nat) (z : List Byte), live s = true → ByCore h →
    s.keys.devEcdh = some d → s.keys.devKem = some z → 1665 ≤ cmdBufLen h →
    Completes (.deviceKeys h) s (fun t => Leaves [] s t ∧
      Answers h .ok (toBe 97 (Config.p384Pub d).toNat ++ toBe 1568 (Config.mlkemPub z).toNat) t))

/-- R343–R346: SESSION_OPEN by PF0 or the cluster agent, with a key of the image and a good nonce, opens the lowest
  closed session, bound to its requester and with the rights both sides name, if both signatures verify and the
  secrets agree; otherwise it is refused and no session opens: REFUSED_UNAUTHENTICATED by another requester, without
  a key of the image, a good nonce or a signature; KEY_ERASED while the keys are zeroized; NO_ROOM without a closed
  session or two free slots. A session that carries SESSION_CLOSE is closed. It rests on the model's readings in
  logs 4, 9 (the lowest closed session) and 34. -/
def Obligations.SessionsOpenAndClose : Prop :=
  (∀ (s : State) (h : CmdHdr) (p pubE pubM : List Byte) (rights n a b : Nat), live s = true → h.dmaErr = false →
    (h.requester = 1 ∨ h.requester = 48) → 32 ≤ h.mbx ∧ h.mbx < 64 → rdB s R.keyStatZeroized = false →
    authKey s (fieldLe p 0 2) = some (pubE, pubM, rights) →
    nonceGood s h.requester (slice p 0x28 32) = true → freeSession s = some n → twoSlots s = some (a, b) →
    Completes (.sessionOpen h p) s (fun t =>
      (Config.ecdsaOk pubE (sha (slice p 0 0x6D0)) (slice p 0x6D0 96) = true →
       Config.mldsaOk pubM (sha (slice p 0 0x6D0)) (slice p 0x730 4627) = true →
       (sharedSecrets s p).isSome = true →
        rd t (R.hifSessOpen n) = 1 ∧ rd t (R.hifSessReq n) = h.requester ∧ rd t (R.hifSessSeqSeq n) = 0 ∧
        rd t (R.hifSessRights n) = (rights &&& fieldLe p 2 2) % 2 ^ 16 ∧ sessSlots t n = some (a, b) ∧
        ∃ k v, mget t.host.responseDue h.mbx = some ⟨slice h.body 0 32, some k, .ok, v⟩) ∧
      (Config.ecdsaOk pubE (sha (slice p 0 0x6D0)) (slice p 0x6D0 96) = false ∨
       Config.mldsaOk pubM (sha (slice p 0 0x6D0)) (slice p 0x730 4627) = false ∨ sharedSecrets s p = none →
        t.keys = s.keys ∧ Answers h .refusedUnauthenticated [] t))) ∧
  (∀ (s : State) (h : CmdHdr) (p : List Byte), live s = true → h.dmaErr = false → 32 ≤ h.mbx ∧ h.mbx < 64 →
    (h.requester ≠ 1 ∧ h.requester ≠ 48 ∨ rdB s R.keyStatZeroized = false ∧
      (authKey s (fieldLe p 0 2) = none ∨ nonceGood s h.requester (slice p 0x28 32) = false)) →
    Completes (.sessionOpen h p) s (fun t => t.keys = s.keys ∧ Answers h .refusedUnauthenticated [] t)) ∧
  (∀ (s : State) (h : CmdHdr) (p : List Byte), live s = true → h.dmaErr = false → 32 ≤ h.mbx ∧ h.mbx < 64 →
    (h.requester = 1 ∨ h.requester = 48) → rdB s R.keyStatZeroized = true →
    Completes (.sessionOpen h p) s (fun t => t.keys = s.keys ∧ Answers h .keyErased [] t ∧ Leaves [] s t)) ∧
  (∀ (s : State) (h : CmdHdr) (p pubE pubM : List Byte) (rights : Nat), live s = true → h.dmaErr = false →
    32 ≤ h.mbx ∧ h.mbx < 64 → (h.requester = 1 ∨ h.requester = 48) → rdB s R.keyStatZeroized = false →
    authKey s (fieldLe p 0 2) = some (pubE, pubM, rights) →
    nonceGood s h.requester (slice p 0x28 32) = true → (freeSession s = none ∨ twoSlots s = none) →
    Completes (.sessionOpen h p) s (fun t => t.keys = s.keys ∧
      (Config.ecdsaOk pubE (sha (slice p 0 0x6D0)) (slice p 0x6D0 96) = true →
       Config.mldsaOk pubM (sha (slice p 0 0x6D0)) (slice p 0x730 4627) = true →
       (sharedSecrets s p).isSome = true → Answers h .noRoom [] t))) ∧
  (∀ (s : State) (h : CmdHdr), live s = true → isCore h.requester = false → cmdGuarded h = true →
    (h.requester < 2 ∨ 18 < h.requester) → dmaFails h = false → 1 ≤ cmdSession h → cmdSession h ≤ 16 →
    32 ≤ h.mbx ∧ h.mbx < 64 →
    authentic s h.requester (cmdSession h) (cmdSeq h) h.body h.tag = true →
    Completes (.sessionClose h) s (fun t => sessSlots t (cmdSession h) = none ∧
      rdStat t (R.hifSessLastStatus (cmdSession h)) = .ok ∧
      ∃ k, mget t.host.responseDue h.mbx = some ⟨slice h.body 0 32, some k, .ok, []⟩)) ∧
  (∀ (s : State) (h : CmdHdr), live s = true → ByCore h → 1 ≤ cmdSession h → cmdSession h ≤ 16 →
    Completes (.sessionClose h) s (fun t => sessSlots t (cmdSession h) = none ∧ Answers h .ok [] t))

/-- R340: a command that a session's checks do not pass has no effect but its refusal: it is answered
REFUSED_UNAUTHENTICATED and counted in HIF_CNT[1]; and a sequence number that a session has accepted is never accepted
again.
It rests on the model's readings in log 34. -/
def Obligations.GuardedCommandsNeedTheirSession : Prop :=
  (∀ (s : State) (h : CmdHdr) (grp : Option Nat) (f : State → CmdOut), isCore h.requester = false →
    32 ≤ h.mbx ∧ h.mbx < 64 →
    (cmdGuarded h = false ∨ (2 ≤ h.requester ∧ h.requester ≤ 18) ∨ dmaFails h = false ∧
      authentic s h.requester (cmdSession h) (cmdSeq h) h.body h.tag = false) →
    Answers h .refusedUnauthenticated [] (guarded s h grp f) ∧
    rd (guarded s h grp f) (R.hifCntCount 1) = (rd s (R.hifCntCount 1) + 1) % 2 ^ 48 ∧
    Leaves [R.hifCntCount 1, R.hifCntCount 2] s (guarded s h grp f) ∧
    (guarded s h grp f).keys = s.keys ∧ (guarded s h grp f).tab = s.tab ∧ (guarded s h grp f).hbm = s.hbm ∧
    (guarded s h grp f).flo = s.flo ∧ (guarded s h grp f).tim = s.tim ∧ (guarded s h grp f).clu = s.clu) ∧
  (∀ (s : State) (r n seq : Nat) (msg : List Byte) (tag : BitVec 128), seq < 2 ^ 64 →
    authentic (wr s (R.hifSessSeqSeq n) seq) r n seq msg tag = false)

/-! ### Keys and the cipher engine (chapter 13) -/

/-- R351–R353, R360–R365: KEY_LOAD into an empty slot makes it loaded with the use, owner and bits given; KEY_ERASE
leaves a slot waiting for its rewrite, or empties it at once; KEY_ZEROIZE closes every session and destroys the device
keys; a pending rewrite is applied once no lease is held; in LOAD the device keys are derived from slot 0.
It rests on the model's readings in log 34. -/
def Obligations.KeySlotsAreLoadedRewrittenAndErased : Prop :=
  (∀ (s : State) (h : CmdHdr) (k use owner : Nat) (b : Bool) (key : List Byte), live s = true → ByCore h →
    modeIn s commandModes = true → rdB s R.keyStatZeroized = false → 8 ≤ k → k < 64 → use < 16 →
    (owner = 0 ∨ owner = 1 ∨ owner = 48) → sessionOf s k = none → rd s (R.keySlotState k) = 0 →
    Completes (.keyLoad h k use owner b key) s (fun t => rd t (R.keySlotState k) = 2 ∧ rd t (R.keySlotUse k) = use ∧
      rd t (R.keySlotOwner k) = owner ∧ rd t (R.keySlotKey128 k) = b2n b ∧
      mget t.keys.slots k = some ⟨some (slice (slice key 0 32) 0 16), some (slice (slice key 0 32) 16 16)⟩ ∧
      rd t (R.keySlotGen k) = rd s (R.keySlotGen k) ∧
      Leaves [R.keySlotState k, R.keySlotUse k, R.keySlotOwner k, R.keySlotKey128 k, R.keyStatFree] s t)) ∧
  (∀ (s : State) (h : CmdHdr) (k : Nat), live s = true → ByCore h → modeIn s commandModes = true →
    rdB s R.keyStatZeroized = false → 5 ≤ k → k < 64 →
    (rd s (R.keySlotState k) ≠ 0 → Completes (.keyErase h k 0) s (fun t => rd t (R.keySlotState k) = 3 ∧
      mget t.keys.pend k = some .erase ∧ t.keys.slots = s.keys.slots ∧
      Leaves [R.keySlotState k, R.cipCntCount 5] s t)) ∧
    (sessionOf s k = none → Completes (.keyErase h k 1) s (fun t => rd t (R.keySlotState k) = 0 ∧
      rd t (R.keySlotLeases k) = 0 ∧ mget t.keys.slots k = none ∧ mget t.keys.pend k = none))) ∧
  (∀ (s : State) (h : CmdHdr), live s = true → ByCore h → modeIn s commandModes = true →
    Completes (.keyZeroize h) s (fun t => rd t R.keyStatZeroized = 1 ∧ rd t R.keyStatDevkeys = 0 ∧ t.keys.sess = [] ∧
      t.keys.devEcdh = none ∧ t.keys.devKem = none ∧ Answers h .ok [] t)) ∧
  (∀ (s : State) (k use owner : Nat) (b : Bool) (key : List Byte), live s = true → k < 64 →
    rd s (R.keySlotLeases k) = 0 →
    (mget s.keys.pend k = some (.load key use owner b) →
      Completes (.keyRewriteApply k) s (fun t => rd t (R.keySlotState k) = 2 ∧
        rd t (R.keySlotGen k) = (rd s (R.keySlotGen k) + 1) % 256 ∧ mget t.keys.pend k = none ∧
        mget t.keys.slots k = some ⟨some (slice key 0 16), some (slice key 16 16)⟩)) ∧
    (mget s.keys.pend k = some .erase → sessionOf s k = none →
      Completes (.keyRewriteApply k) s (fun t => rd t (R.keySlotState k) = 0 ∧
        rd t (R.keySlotGen k) = (rd s (R.keySlotGen k) + 1) % 256 ∧ mget t.keys.pend k = none ∧
        mget t.keys.slots k = none))) ∧
  (∀ (s : State), live s = true → mode s = .load → rdB s R.keyStatZeroized = false → rd s (R.keySlotState 0) = 2 →
    Completes .deviceKeyDerive s (fun t => rd t R.keyStatDevkeys = 1 ∧ t.keys.devEcdh.isSome = true ∧
      t.keys.devKem = some (kdf (slotKey s 0) "SKDK-MLKEM" [] 4) ∧ t.keys.slots = s.keys.slots ∧
      Leaves [R.keyStatDevkeys] s t))

/-- R354–R358, R363: a doorbell fetches the ring's new descriptors; a core that starts a valid job takes leases of its
slots; a job done is counted in blocks; a finished group leaves its ring whole; a verification is counted by its
outcome.
It rests on the model's readings in log 32. -/
def Obligations.CipherJobsRunAndComplete : Prop :=
  (∀ (s : State) (m r tail : Nat) (l : List (List Byte)), live s = true → r < 4 → mayRing r m = true →
    cipSize s r ≠ 0 →
    Completes (.cipherRingDoorbell m r tail l) s (fun t => mget t.keys.tail r = some (tail % cipSize s r) ∧
      (ringJobs t r).length = (ringJobs s r).length +
        (tail % cipSize s r + cipSize s r - mgetD s.keys.tail r 0) % cipSize s r ∧
      (ringJobs t r).take (ringJobs s r).length = ringJobs s r ∧ Leaves [] s t)) ∧
  (∀ (s : State) (c r i : Nat) (j : JobS) (input old : List Byte), live s = true → c < 4 →
    mget s.keys.cores c = none → nextRing s = some (r, i) → (ringJobs s r)[i]? = some j → jobWaits s j = false →
    rdB s R.keyStatZeroized = false → jobValid s r true j = true → jobOut j ≠ 1 →
    Completes (.cipherJobStart c input old false) s (fun t =>
      (mget t.keys.cores c).map (fun g => (g.ring, g.next, g.busy)) = some (r, i, true) ∧
      ((ringJobs t r)[i]?).map (fun j => (j.st, j.input)) = some (.running, input) ∧
      rd t (R.keySlotLeases (jobSlot j)) = (rd s (R.keySlotLeases (jobSlot j)) + 1) % 8 ∧
      Leaves [R.keySlotLeases (jobSlot j)] s t)) ∧
  (∀ (s : State) (c : Nat) (g : GroupRun) (j : JobS), live s = true → mget s.keys.cores c = some g → g.busy = true →
    (ringJobs s g.ring)[g.next]? = some j → j.st = .running →
    Completes (.cipherJobDone c) s (fun t => ((ringJobs t g.ring)[g.next]?).map (·.st) = some .done ∧
      rd t (R.cipCntCount 1) = (rd s (R.cipCntCount 1) + jobBlocks j) % 2 ^ 48)) ∧
  (∀ (s : State) (r : Nat), live s = true → r < 4 → ringJobs s r ≠ [] →
    ((ringJobs s r).take (groupLen (ringJobs s r))).all (fun j => j.st == .done) = true →
    ((ringJobs s r).take (groupLen (ringJobs s r))).getLast?.any jobLink = false →
    tagDiffers ((ringJobs s r).take (groupLen (ringJobs s r))) = false →
    Completes (.cipherGroupComplete r) s (fun t =>
      ringJobs t r = (ringJobs s r).drop (groupLen (ringJobs s r)) ∧
      rd t (R.cipCntCount 0) = (rd s (R.cipCntCount 0) + groupLen (ringJobs s r)) % 2 ^ 48)) ∧
  (∀ (s : State) (pub msg sig : List Byte), live s = true →
    Completes (.sigRequest 2 pub msg sig) s (fun t =>
      let c := R.sigCntCount (if Config.ecdsaOk pub msg sig then 0 else 1)
      rd t c = (rd s c + 1) % 2 ^ 48 ∧ Leaves [c] s t ∧ rest t = rest s) ∧
    Completes (.sigRequest 3 pub msg sig) s (fun t =>
      let c := R.sigCntCount (if Config.mldsaOk pub msg sig then 0 else 1)
      rd t c = (rd s c + 1) % 2 ^ 48 ∧ Leaves [c] s t ∧ rest t = rest s))

/-! ### The time base (chapter 10) -/

/-- R263, R266, R267: while no command waits a TIM cycle passes: NS and FRAC advance by TIM_INCREMENT modulo 2^64 and
TIM_UPTIME by 0.8 ns; the cycle in which NS wraps sets TIM_INT.WRAP and counts in PENDING, or sets REBASE at 255. The
cluster agent's waiting frames leave where the gates let them (R370).
It rests on the model's readings in log 19. -/
def Obligations.TimCycleAdvancesTheCounter : Prop :=
  (∀ s : State, powered s = true → s.pending = [] → ∃ t, step s = .next t ∧
    rd t R.timNowNs = (nowNs s * 2 ^ 32 + rd s R.timNowFrac + rd s R.timIncrementInc) / 2 ^ 32 % 2 ^ 32 ∧
    rd t R.timNowFrac = (nowNs s * 2 ^ 32 + rd s R.timNowFrac + rd s R.timIncrementInc) % 2 ^ 32 ∧
    rd t R.timUptimeNs = (uptime s + (s.tim.upFifths + 4) / 5) % 2 ^ 64 ∧
    t.tim.upFifths = (s.tim.upFifths + 4) % 5 ∧ t.pending = [] ∧
    t.clu.outq = s.clu.outq.filter (fun e => !agentMaySend (timCycle s) e.2.1) ∧
    (s.clu.outq.filter (fun e => agentMaySend (timCycle s) e.2.1)).all (fun e => t.sent.contains (.bolvis e.1 e.2.2)) =
      true ∧
    (s.clu.outq ≠ [] ∨
      Leaves [R.timNowNs, R.timNowFrac, R.timUptimeNs, R.timNowxPending, R.timNowxRebase, R.timIntWrap] s t)) ∧
  (∀ s : State, live s = true →
    2 ^ 64 ≤ nowNs s * 2 ^ 32 + rd s R.timNowFrac + rd s R.timIncrementInc →
    Completes .nsWrap s (fun t => rd t R.timIntWrap = 1 ∧ t.tim.netBase = s.tim.netBase + 2 ^ 32 ∧
      (rd s R.timNowxPending ≠ 255 → rd t R.timNowxPending = (rd s R.timNowxPending + 1) % 256 ∧
        rd t R.timNowxRebase = rd s R.timNowxRebase) ∧
      (rd s R.timNowxPending = 255 → rd t R.timNowxPending = 255 ∧ rd t R.timNowxRebase = 1)))

/-- R264, R266, R268, R269, R290: what a core's writes of TIM_INCREMENT, TIM_ADJ and TIM_CTL and PF0's write of
  TIM_EPOCH_ACK do to the counter, STATE, SOURCE and VALID; the hold timer ends holdover; TIME_SET and TIME_STEP of
  a core make time VALID with SOURCE 2 and STATE TIMED, whatever the lists do; with no list and no pending commit NS
  becomes what the command says; TIME_CFG sets both of its limits. It rests on the model's readings in log 34 beyond
  R264. -/
def Obligations.TimeIsSetAndControlled : Prop :=
  ((∀ (s : State) (r v : Nat), live s = true → isCore r = true → v < 2 ^ 36 →
    (0xCCC78EA0 ≤ v → v ≤ 0xCCD20AFA → Completes (.timIncrementWrite r v) s (fun t =>
      rd t R.timIncrementInc = v ∧ Leaves [R.timIncrementInc] s t ∧ rest t = rest (dropLatch s r))) ∧
    (v < 0xCCC78EA0 ∨ 0xCCD20AFA < v → Completes (.timIncrementWrite r v) s (fun t =>
      rd t R.timStatIncRej = 1 ∧ Leaves [R.timStatIncRej] s t ∧ rest t = rest (dropLatch s r)))) ∧
  (∀ (s : State) (k : Nat) (clr : Bool), live s = true → Completes (.timEpochAck 1 k clr) s (fun t =>
    rd t R.timNowxPending = (rd s R.timNowxPending - k % 256) % 256 ∧ (clr = true → rd t R.timNowxRebase = 0) ∧
    Leaves [R.timNowxPending, R.timNowxRebase] s t ∧ rest t = rest (dropLatch s 1))) ∧
  (∀ (s : State) (r v : Nat), live s = true → isCore r = true → v < 2 ^ 32 → v ≠ 2 ^ 31 → rd s R.timNowNs < 2 ^ 32 →
    (rd s R.timStatState = 0 ∨
      (0 < rd s R.timJumpLimitLimitNs ∧ (sbits 32 v).natAbs ≤ rd s R.timJumpLimitLimitNs)) →
    s.take.accepted = none → s.take.timed = none →
    Completes (.timAdjStep r v) s (fun t => rd t R.timNowNs = (rd s R.timNowNs + v) % 2 ^ 32 ∧
      rdStat t R.timAdjStatus = .ok ∧ rd t R.timAdjGo = 0 ∧ rd t R.timStatState = rd s R.timStatState)) ∧
  (∀ (s : State) (r v : Nat), live s = true → isCore r = true → rd s R.timStatState = 0 →
    Completes (.timAdjSet r v) s (fun t => rd t R.timNowNs = v % 2 ^ 32 ∧ rd t R.timNowFrac = 0 ∧
      rd t R.timNowxPending = 0 ∧ rd t R.timNowxRebase = 1 ∧ rdStat t R.timAdjStatus = .ok)) ∧
  (∀ (s : State) (r v : Nat), live s = true → isCore r = true → rd s R.timStatState ≠ 0 →
    Completes (.timAdjSet r v) s (fun t => rd t R.timNowNs = rd s R.timNowNs ∧
      rdStat t R.timAdjStatus = .refusedMode)) ∧
  (∀ (s : State) (r e : Nat), live s = true → isCore r = true → rd s R.cluStatActing = 2 → directorValid s = false →
    Completes (.lockDeclare r true e) s (fun t => Leaves [] s t ∧ rest t = rest (dropLatch s r))) ∧
  (∀ (s : State) (r e : Nat) (d : Bool), live s = true → isCore r = true → rd s R.timStatState ≠ 1 →
    (d = false ∨ rd s R.cluStatActing ≠ 2 ∨ directorValid s = true) →
    Completes (.lockDeclare r d e) s (fun t => rd t R.timStatState = 1 ∧
      rd t R.timStatSource = (if d then 3 else 1) ∧ t.tim.holdStart = none ∧ t.tim.netBase = e * 2 ^ 32 ∧
      (rd s R.timStatState = 0 → timeValid t = true))) ∧
  (∀ (s : State) (r : Nat), live s = true → isCore r = true → rd s R.timStatState = 1 →
    rd s R.timStatSource = 1 ∨ rd s R.timStatSource = 3 → rd s R.timCfgHoldS ≠ 0 →
    Completes (.lossDeclare r) s (fun t => rd t R.timStatState = 2 ∧ t.tim.holdStart = some (uptime s) ∧
      timeValid t = timeValid s ∧ Leaves [R.timStatState] s t)) ∧
  (∀ (s : State) (t0 : Nat), live s = true → s.tim.holdStart = some t0 → rd s R.timStatState = 2 →
    uptime s - t0 < rd s R.timCfgHoldS * 10 ^ 9 → Completes .holdTimerExpire s (fun t => Leaves [] s t ∧ rest t = rest s)) ∧
  (∀ (s : State) (t0 : Nat), live s = true → s.tim.holdStart = some t0 → rd s R.timStatState = 2 →
    rd s R.timCfgHoldS * 10 ^ 9 ≤ uptime s - t0 → s.tim.oper = [] → s.take.timed = none →
    Completes .holdTimerExpire s (fun t => rd t R.timStatState = 0 ∧ rd t R.timStatSource = 0 ∧
      timeValid t = false ∧ t.tim.holdStart = none ∧ rd t R.timIntSuspend = 1))) ∧
  ((∀ (s : State) (h : CmdHdr) (sec ns : Nat), live s = true → ByCore h → modeIn s commandModes = true →
    Completes (.timeSet h sec ns) s (fun t => rd t R.timStatState = 1 ∧ rd t R.timStatSource = 2 ∧
      timeValid t = true ∧ Answers h .ok [] t ∧
      (s.tim.oper = [] → s.take.timed = none →
        rd t R.timNowNs = (sec * 10 ^ 9 + ns) % 2 ^ 32 ∧ rd t R.timNowFrac = 0))) ∧
  (∀ (s : State) (h : CmdHdr) (d : Int), live s = true → ByCore h → modeIn s commandModes = true →
    (d.natAbs < 2 ^ 31 → Completes (.timeStep h d) s (fun t => rd t R.timStatState = 1 ∧ rd t R.timStatSource = 2 ∧
      timeValid t = true ∧ Answers h .ok [] t ∧
      (s.tim.oper = [] → s.take.timed = none → s.take.accepted = none →
        rd t R.timNowNs = ibits 32 ((rd s R.timNowNs : Int) + d)))) ∧
    (2 ^ 31 ≤ d.natAbs → Completes (.timeStep h d) s (fun t => Answers h .invalid [] t ∧ Leaves [] s t))) ∧
  (∀ (s : State) (h : CmdHdr) (lim hold : Nat), live s = true → ByCore h → modeIn s commandModes = true →
    lim < 2 ^ 32 → hold < 2 ^ 16 → s.tim.holdStart = none →
    Completes (.timeCfg h lim hold) s (fun t => rd t R.timJumpLimitLimitNs = lim ∧ rd t R.timCfgHoldS = hold ∧
      Answers h .ok [] t ∧ Leaves [R.timJumpLimitLimitNs, R.timCfgHoldS] s t)) ∧
  (∀ (s : State) (r v : Nat), live s = true → isCore r = false → Completes (.timIncrementWrite r v) s (fun t =>
    Leaves [R.hifErrStatProtected] s t ∧ rest t = rest (dropLatch s r))))

/-- R281–R284: a front port's gate list: BASE and RUN arm it unless BASE has passed, and a list that waited for its
change time becomes operating; at BASE its first entry applies;
an entry that ends hands over to the next; a list written while none runs shows at once, else it waits for its
change time.
It rests on the model's readings in logs 22 and 46. -/
def Obligations.GateListsRunAndChange : Prop :=
  (∀ (s : State) (r p base : Nat) (run : Bool), live s = true → isCore r = true → p < 512 → base < 2 ^ 32 →
    (run = false ∧ rd s (R.shtPortBaseBase (macQ p) (macM p)) = base ∨
        nsDiff base (nowNs s) ≠ 0 ∧ nsDiff base (nowNs s) < 2 ^ 31 →
      Completes (.gateListRun r p base run) s (fun t =>
        rd t (R.shtPortBaseBase (macQ p) (macM p)) = base ∧ rd t (R.shtPortBaseRun (macQ p) (macM p)) = b2n run ∧
        mget t.tim.entryEnd p = none ∧ rd t (R.shtPortStatGates (macQ p) (macM p)) = idleGates t p % 2 ^ 16 ∧
        operList t p = (if rdB s (R.shtPortPendPending (macQ p) (macM p)) then mgetD s.tim.admBank p noList
          else operList s p))) ∧
    ((run = true ∨ rd s (R.shtPortBaseBase (macQ p) (macM p)) ≠ base) →
      (nsDiff base (nowNs s) = 0 ∨ 2 ^ 31 ≤ nsDiff base (nowNs s)) → Completes (.gateListRun r p base run) s (fun t =>
      rd t (R.shtPortStatBaseErr (macQ p) (macM p)) = 1 ∧
      Leaves [R.shtPortStatBaseErr (macQ p) (macM p)] s t ∧ rest t = rest (dropLatch s r)))) ∧
  (∀ (s : State) (p : Nat) (e : Nat × Nat) (es : List (Nat × Nat)), live s = true → p < 512 →
    rdB s (R.shtPortBaseRun (macQ p) (macM p)) = true → timeValid s = true → mget s.tim.entryEnd p = none →
    (operList s p).cycle ≠ 0 → (operList s p).entries = e :: es → e.2 ≠ 0 →
    atOrAfter (nowNs s) (rd s (R.shtPortBaseBase (macQ p) (macM p))) = true →
    Completes (.gateListStart p) s (fun t => rd t (R.shtPortStatEntry (macQ p) (macM p)) = 0 ∧
      rd t (R.shtPortStatGates (macQ p) (macM p)) = e.1 % 2 ^ 16 ∧
      rd t (R.shtPortStatCycleStart (macQ p) (macM p)) = rd s (R.shtPortBaseBase (macQ p) (macM p)) % 2 ^ 32 ∧
      mget t.tim.entryEnd p = some ((rd s (R.shtPortBaseBase (macQ p) (macM p)) + e.2) % 2 ^ 32))) ∧
  (∀ (s : State) (p i t0 : Nat) (e : Nat × Nat), live s = true → listRuns s p = true →
    mget s.tim.entryEnd p = some t0 → atOrAfter (nowNs s) t0 = true →
    rdB s (R.shtPortPendPending (macQ p) (macM p)) = false →
    rd s (R.shtPortStatEntry (macQ p) (macM p)) + 1 = i → (operList s p).entries[i]? = some e → e.2 ≠ 0 → i < 1024 →
    Completes (.gateEntryAdvance p) s (fun t => rd t (R.shtPortStatEntry (macQ p) (macM p)) = i ∧
      rd t (R.shtPortStatGates (macQ p) (macM p)) = e.1 % 2 ^ 16 ∧
      mget t.tim.entryEnd p = some ((t0 + e.2) % 2 ^ 32) ∧
      Leaves [R.shtPortStatEntry (macQ p) (macM p), R.shtPortStatGates (macQ p) (macM p)] s t)) ∧
  (∀ (s : State) (p : Nat), live s = true → listRuns s p = true → rdB s (R.shtPortPendPending (macQ p) (macM p)) = true →
    atOrAfter (nowNs s) (rd s (R.shtPortPendChangeAt (macQ p) (macM p))) = true →
    Completes (.listChangeTime p) s (fun t => operList t p = mgetD s.tim.admBank p noList ∧
      rd t (R.shtPortPendPending (macQ p) (macM p)) = 0 ∧
      rd t (R.shtPortCfgCycleNs (macQ p) (macM p)) = (mgetD s.tim.admBank p noList).cycle % 2 ^ 32)) ∧
  (∀ (s : State) (h : CmdHdr) (p sched cycle off : Nat) (es : List (Nat × Nat)), live s = true → ByCore h →
    modeIn s commandModes = true → p < 512 → (portDecl s p).isSome = true → sched < 2 ^ 16 →
    listOk ⟨cycle, sched, off, es⟩ = true → portRsv s p = [] →
    (listRuns s p = false → Completes (.gateSet h p sched cycle off es) s (fun t =>
      operList t p = ⟨cycle, sched, off, es⟩ ∧ Answers h .ok [] t ∧
      rd t (R.shtPortStatGates (macQ p) (macM p)) = (0xFFFF ^^^ sched) % 2 ^ 16)) ∧
    (listRuns s p = true → Completes (.gateSet h p sched cycle off es) s (fun t =>
      operList t p = operList s p ∧ mget t.tim.admBank p = some ⟨cycle, sched, off, es⟩ ∧ Answers h .ok [] t ∧
      rd t (R.shtPortPendPending (macQ p) (macM p)) = 1)))

/-- R286–R290: RSV_SET of a queue whose list and windows allow it reserves the queue, RSV_CLEAR gives it up; an
admission window that starts clears USED, once in its cycle; frames of a closed egress window leave their queue.
It rests on the model's readings in log 34. -/
def Obligations.ReservationsAreSetAndCleared : Prop :=
  (∀ (s : State) (h : CmdHdr) (qn port tc ml ao al eo el n : Nat), live s = true → ByCore h →
    modeIn s commandModes = true → timeValid s = true → n < 256 → mget s.tim.rsv qn = none →
    rsvOk s qn ⟨port, tc, ml, ao, al, eo, el, n, 0, none⟩ = true → rd s (R.shtRsvStatUsed (macQ port)) < 16384 →
    Completes (.rsvSet h qn port tc ml ao al eo el n) s (fun t =>
      mget t.tim.rsv qn = some ⟨port, tc, ml, ao, al, eo, el, n, 0, none⟩ ∧
      rd t (R.shtRsvStatUsed (macQ port)) = rd s (R.shtRsvStatUsed (macQ port)) + 1 ∧ Answers h .ok [] t ∧
      Leaves [R.shtRsvStatUsed (macQ port)] s t)) ∧
  (∀ (s : State) (h : CmdHdr) (qn : Nat) (r : RsvS), live s = true → ByCore h → modeIn s commandModes = true →
    mget s.tim.rsv qn = some r →
    Completes (.rsvClear h qn) s (fun t => mget t.tim.rsv qn = none ∧ Answers h .ok [] t ∧
      (queueNode s qn = none → rd t (R.shtRsvStatUsed (macQ r.port)) =
        (rd s (R.shtRsvStatUsed (macQ r.port)) - 1) % 2 ^ 15))) ∧
  (∀ (s : State) (qn c : Nat) (r : RsvS), live s = true → mget s.tim.rsv qn = some r → listRuns s r.port = true →
    rd s (R.shtPortStatCycleStart (macQ r.port) (macM r.port)) = c →
    (r.admOff ≤ nsDiff (nowNs s) c → r.started ≠ some c →
      Completes (.admissionWindowStart qn) s (fun t =>
        mget t.tim.rsv qn = some { r with used := 0, started := some c } ∧ Leaves [] s t)) ∧
    (nsDiff (nowNs s) c < r.admOff ∨ r.started = some c →
      Completes (.admissionWindowStart qn) s (fun t => mget t.tim.rsv qn = some r ∧ Leaves [] s t))) ∧
  (∀ (s : State) (qn k cp : Nat) (w : Nat × Nat) (r : RsvS) (n : NodeS), live s = true →
    mget s.tim.rsv qn = some r → queueNode s qn = some k → mget s.cel.nodes k = some n → n.frames = [cp] →
    (mget s.cel.copies cp).bind (·.win) = some w → r.port < 512 →
    (atOrAfter (nowNs s) w.2 = true → Completes (.egressWindowEnd qn) s (fun t =>
      t.cel = (dropQueued s cp 0x12).cel ∧ rd t (R.shtCntCount (macQ r.port) 5) =
        (rd (dropQueued s cp 0x12) (R.shtCntCount (macQ r.port) 5) + 1) % 2 ^ 48)) ∧
    (atOrAfter (nowNs s) w.2 = false → Completes (.egressWindowEnd qn) s (fun t => t.cel = s.cel ∧ Leaves [] s t)))

/-- R276, R279, R280: a read of MAC_TXTS_LO takes the oldest transmit record; PPS_OUT rises at NEXT and falls; an edge
on PPS_IN is captured and its read clears NEW; an edge away from the whole second is fault 14 (R429); SYNCE_OUT is
squelched without a locked link that is up, or with DIV 0.
It rests on the model's readings in logs 13, 32 and 48. -/
def Obligations.TimestampsAndPulses : Prop :=
  (∀ (s : State) (r p : Nat) (x : TsRec) (xs : List TsRec), live s = true → p < 512 → mgetD s.tim.txFifo p [] = x :: xs →
    Completes (.macTxtsRead r p) s (fun t => mgetD t.tim.txFifo p [] = xs ∧
      .read r (fieldLe (tsBytes x) 0 8) 8 ∈ t.sent ∧
      rd t (R.macTxtsHiRecHi (macQ p) (macM p)) = fieldLe (tsBytes x) 8 8 % 2 ^ 64)) ∧
  (∀ s : State, live s = true →
    (s.tim.ppsHigh = true → Completes .ppsOutEdge s (fun t => t.tim.ppsHigh = false ∧
      .pin "PPS_OUT" false ∈ t.sent ∧ Leaves [] s t)) ∧
    (s.tim.ppsHigh = false → rd s R.timPpsOutCfgPeriodNs ≠ 0 → rd s R.timPpsOutCfgWidthUs ≠ 0 →
      atOrAfter (nowNs s) (rd s R.timPpsOutNextNext) = true →
      Completes .ppsOutEdge s (fun t => t.tim.ppsHigh = true ∧ .pin "PPS_OUT" true ∈ t.sent ∧
        rd t R.timPpsOutNextNext = (rd s R.timPpsOutNextNext + rd s R.timPpsOutCfgPeriodNs) % 2 ^ 32 ∧
        Leaves [R.timPpsOutNextNext] s t))) ∧
  (∀ s : State, live s = true → Completes .ppsIn s (fun t => rd t R.timPpsInNs = nowNs s % 2 ^ 32 ∧
    rd t R.timPpsInSubns = rd s R.timNowFrac / 2 ^ 16 % 2 ^ 16 ∧ rd t R.timPpsInNew = 1 ∧
    (ppsOff s = false → Leaves [R.timPpsInNs, R.timPpsInSubns, R.timPpsInNew] s t ∧ rest t = rest s) ∧
    (ppsOff s = true → bit (rd t R.safFaultFault) 14 = true ∧ (14, 0) ∈ t.saf.standing ∧ rd t R.timIntSuspend = 1))) ∧
  (∀ (s : State) (r : Nat), live s = true → Completes (.ppsInRead r) s (fun t => rd t R.timPpsInNew = 0 ∧
    .read r (rd s R.timPpsInNs + rd s R.timPpsInSubns * 2 ^ 32 + rd s R.timPpsInNew * 2 ^ 48) 8 ∈ t.sent ∧
    Leaves [R.timPpsInNew] s t ∧ rest t = rest (dropLatch s r))) ∧
  (∀ (s : State) (i : Nat) (k : Bool), live s = true → i < 2 → Completes (.synceSquelch i k) s (fun t =>
    rd t (R.timSynceSquelched i) = b2n (!k || rd s (R.timSynceDiv i) == 0 ||
      decide (512 ≤ rd s (R.timSyncePort i)) || rd s (R.pwrPortState (rd s (R.timSyncePort i))) != 2) ∧
    Leaves [R.timSynceSquelched i] s t ∧ rest t = rest s))

/-! ### Tables and takes (chapters 3, 4 and 5) -/

/-- R90–R97: TAKE_COMMIT arms the next take, at once or at a time; a due commit switches stamping and the older take
drains; it retires when no packet of it is left or at the drain limit; settling ends; TAKE_DISCARD drops a pending
commit and what was staged.
It rests on the model's readings in logs 22 and 34. -/
def Obligations.TakesCommitSwitchAndSettle : Prop :=
  (∀ (s : State) (h : CmdHdr) (at_ : Nat), live s = true → ByCore h → modeIn s commandModes = true →
    s.take.timed = none → isSettling s = false →
    Completes (.takeCommit h false at_) s (fun t => t.take.accepted = some ((nowNs s + 256) % 2 ^ 32) ∧
      rd t R.stgTakeActActTime = (nowNs s + 256) % 2 ^ 32 ∧ Answers h .ok [] t ∧ t.tab = s.tab ∧
      rd t R.stgTakeActActTake = (rd s R.stgTakeStatCur + 1) % 2 ^ 16 ∧ rd t R.stgTakeStatCur = rd s R.stgTakeStatCur)) ∧
  (∀ (s : State) (h : CmdHdr) (at_ : Nat), live s = true → ByCore h → modeIn s commandModes = true →
    s.take.timed = none → timeValid s = true → at_ < 2 ^ 32 → nsDiff at_ (nowNs s) ≠ 0 →
    nsDiff at_ (nowNs s) < 2 ^ 31 →
    Completes (.takeCommit h true at_) s (fun t => t.take.timed = some at_ ∧ rd t R.stgTakeActActTime = at_ ∧
      rd t R.stgTakeActTimed = 1 ∧ t.take.accepted = s.take.accepted ∧ Answers h .ok [] t ∧ t.tab = s.tab)) ∧
  (∀ (s : State) (h : CmdHdr), live s = true → ByCore h → modeIn s commandModes = true →
    (s.take.timed = none ∨ 10000 ≤ timedRemaining s) → isSettling s = true →
    Completes (.takeDiscard h) s (fun t => t.take.timed = none ∧ t.take.cluster = false ∧ t.tab = s.tab ∧
      Answers h .ok [] t)) ∧
  (∀ (s : State) (h : CmdHdr), live s = true → ByCore h → modeIn s commandModes = true →
    (s.take.timed = none ∨ 10000 ≤ timedRemaining s) → isSettling s = false →
    Completes (.takeDiscard h) s (fun t => rd t R.stgTakeStagedChanges = 0 ∧ t.tab.cmapNew = [] ∧
      Answers h .ok [] t)) ∧
  (∀ (s : State) (a : Nat), live s = true → s.take.accepted = some a → reached s a = true →
    Completes .takeActivate s (fun t => rd t R.stgTakeStatCur = (rd s R.stgTakeStatCur + 1) % 2 ^ 16 ∧
      rd t R.stgTakeStatOld = rd s R.stgTakeStatCur % 2 ^ 16 ∧ rd t R.stgTakeStatOldLive = 1 ∧
      rd t R.stgTakeDoneDoneTime = a % 2 ^ 32 ∧ t.take.accepted = none ∧ t.take.drainSince = some (uptime s) ∧
      t.tab = s.tab)) ∧
  (∀ s : State, live s = true → rdB s R.stgTakeStatOldLive = true → s.take.settling = false →
    (takeInFlight s (rd s R.stgTakeStatOld) = false →
      Completes .takeDrainComplete s (fun t => t.take.settling = true ∧ rd t R.stgTakeStatPhase = 4 ∧
        Leaves [R.stgTakeStatPhase] s t)) ∧
    (takeInFlight s (rd s R.stgTakeStatOld) = true →
      Completes .takeDrainComplete s (fun t => Leaves [] s t ∧ rest t = rest s)) ∧
    (∀ t0, s.take.drainSince = some t0 → rd s R.stgTakeCfgDrainLimit ≠ 0 →
      (t0 + 1000 * rd s R.stgTakeCfgDrainLimit ≤ uptime s →
        Completes .drainLimitExpire s (fun t => t.take.settling = true ∧ rd t R.stgTakeStatPhase = 4 ∧
          Leaves [R.stgTakeStatPhase] s t)) ∧
      (uptime s < t0 + 1000 * rd s R.stgTakeCfgDrainLimit →
        Completes .drainLimitExpire s (fun t => Leaves [] s t ∧ rest t = rest s)))) ∧
  (∀ s : State, live s = true → s.take.settling = true → Completes .takeSettleDone s (fun t =>
    t.take.settling = false ∧
    (s.take.timed = none → rd t R.stgTakeStatOldLive = 0 ∧ rd t R.stgTakeStagedChanges = 0)))

/-- R327, R347–R349: a batch that sets a new entry of a direct table applies it; a batch that is not well formed
applies nothing; a refused entry undoes its whole batch: whatever entries went before it, the tables are as they were;
the first segment posted on a table-update ring opens a batch, and a batch left open is dropped.
It rests on the model's readings in log 34. -/
def Obligations.BatchesApplyTheirEntries : Prop :=
  (∀ (s0 s : State) (i : Nat) (es : List (TblDecl × BatchOp)), (applyAll s0 s i es).status ≠ .ok →
    (applyAll s0 s i es).st.tab = { s0.tab with log := [] }) ∧
  (∀ (s : State) (h : CmdHdr) (b : List Byte) (d : TblDecl) (i a : Nat), live s = true → ByCore h →
    fieldLe b 0 4 = 0x42544B53 → fieldLe b 4 4 < 32 → fieldLe b 0x14 4 = b.length → b.length ≤ 1048576 →
    48 + 16 * fieldLe b 0x10 4 ≤ b.length →
    readEntries s (b.take (b.length - 16)) (fieldLe b 0x10 4) 0 32 = .ok [(d, .directSet i a)] →
    d.egress = true → dirAt s d.num i = [] →
    Completes (.tableBatch h b) s (fun t => dirAt t d.num i = [⟨3, a⟩] ∧ Answers h .ok (toLe 4 noIndex) t ∧
      ∀ j, j ≠ i → dirAt t d.num j = dirAt s d.num j)) ∧
  (∀ (s : State) (h : CmdHdr) (b : List Byte), live s = true → ByCore h →
    (fieldLe b 0 4 ≠ 0x42544B53 ∨ fieldLe b 0x14 4 ≠ b.length) →
    Completes (.tableBatch h b) s (fun t => t.tab = s.tab ∧ Answers h .invalid (toLe 4 noIndex) t ∧
      rd t (R.hifCntCount 4) = (rd s (R.hifCntCount 4) + 1) % 2 ^ 48 ∧ Leaves [R.hifCntCount 4] s t)) ∧
  (∀ (s : State) (u tail k : Nat) (d seg : List Byte), live s = true → u < 16 →
    rd s (R.hifRingCfgSizeLog2 (128 + u)) = k → 0 < k → rd s (R.hifRingCfgHead (128 + u)) < 2 ^ k → k ≤ 15 →
    tail = (rd s (R.hifRingCfgHead (128 + u)) + 1) % 2 ^ k → bits (fieldLe d 8 4) 23 8 = 0 →
    fieldLe d 0x0E 2 = 0 → fieldLe d 0x14 12 = 0 → fieldLe d 0x30 16 = 0 → bit (fieldLe d 8 4) 21 = true → bit (fieldLe d 8 4) 22 = false → 0 < fieldLe d 8 4 % 2 ^ 21 →
    fieldLe d 8 4 % 2 ^ 21 ≤ 1048576 →
    Completes (.tuRingDoorbell (0x40 * u) tail [(d, seg)]) s (fun t => rd t (R.hifRingCfgHead (128 + u)) = tail ∧
      mget t.host.batches u = some ⟨uptime s, slice seg 0 (fieldLe d 8 4 % 2 ^ 21)⟩ ∧ t.tab = s.tab)) ∧
  (∀ (s : State) (u : Nat) (b : OpenBatch), live s = true → mget s.host.batches u = some b →
    b.since + 10 ^ 8 ≤ uptime s →
    Completes (.batchIncomplete u) s (fun t => mget t.host.batches u = none ∧
      rd t (R.hifCntCount 4) = (rd s (R.hifCntCount 4) + 1) % 2 ^ 48 ∧
      rd t (R.hifCntCount 5) = (rd s (R.hifCntCount 5) + 1) % 2 ^ 48 ∧
      Leaves [R.hifCntCount 4, R.hifCntCount 5] s t))

/-- R108, R114, R133–R138: care-mask upkeep, learning, station moves and ageing: the spacing of a quadrant's banks
  is restored; a slice whose CHECK does not match is shown and is fault 5 in the safety scope, 22 elsewhere; a learn
  request places its entry, a move request changes the port of its entry, and a visit ages a bucket. It rests on the
  model's readings in logs 32, 41 and 42. -/
def Obligations.TableUpkeepRows : Prop :=
  (∀ (s : State) (q : Nat), live s = true → q < 4 → rdB s (R.cmsStatRestoring q) = true →
    Completes (.holeRestore q) s (fun t => rd t (R.cmsStatRestoring q) = 0 ∧
      t.tab = (restoreQuad s q).tab ∧ Leaves [R.cmsStatRestoring q] (restoreQuad s q) t)) ∧
  (∀ (s : State) (q b a : Nat), live s = true → q < 4 → b < 32 → a < 4096 →
    Completes (.cmsScrub q b a true) s (fun t => rd t (R.cmsStatCheckErr q) = 1 ∧ rd t (R.cmsErrAddrBank q) = b ∧
      rd t (R.cmsErrAddrSlice q) = a ∧ t.tab = s.tab ∧
      bit (rd t R.safFaultFault) (if (tblDecl s (rd s (R.cmsBankTable q b))).isSome ∧ bankRole s q b ≠ 0 ∧
        inScope s (rd s (R.cmsBankTable q b)) = true then 5 else 22) = true)) ∧
  (∀ (s : State) (q b a : Nat), live s = true → Completes (.cmsScrub q b a false) s (fun t =>
    Leaves [] s t ∧ rest t = rest s)) ∧
  (∀ (s s' : State) (k : Nat) (d : TblDecl) (r : LearnReq) (rs : List LearnReq), live s = true →
    tblDecl s k = some d → mgetD s.tab.queue k [] = r :: rs → r.move = false → learnEntry s d r.key = none →
    learnedOn (setQueue s k rs) r.port < learnLimit (setQueue s k rs) r.port →
    placeEnt { setQueue s k rs with tab := { (setQueue s k rs).tab with log := [] } } d
      (learnedEnt s d r.key r.port) 2 = some s' →
    Completes (.learnCommit k) s (fun t => t.tab.bkt = s'.tab.bkt ∧ t.tab.cms = s'.tab.cms ∧ t.tab.log = [] ∧
      (t.tab.seen.getLast?).map (fun e => (e.tbl, e.key)) = some (d.num, r.key))) ∧
  (∀ (s : State) (k : Nat) (d : TblDecl) (r : LearnReq) (rs : List LearnReq) (e : TEnt), live s = true →
    tblDecl s k = some d → mgetD s.tab.queue k [] = r :: rs → r.move = true → learnEntry s d r.key = some e →
    (e.action % 1024 = r.port → Completes (.moveDecide k) s (fun t => mgetD t.tab.queue k [] = rs ∧
      t.tab.bkt = s.tab.bkt ∧ Leaves [] s t)) ∧
    (e.action % 1024 ≠ r.port → e.static = false → inHoldoff (setQueue s k rs) k r = false →
      learnedOn (setQueue s k rs) r.port < learnLimit (setQueue s k rs) r.port →
      Completes (.moveDecide k) s (fun t => t.tab.bkt =
        (updEnts (setQueue s k rs) d r.key (fun _ => true) (fun e => some { e with action := r.port }) 1).tab.bkt ∧
        flapOf t d.num r.key = none ∧ t.tab.log = []))) ∧
  (∀ (s : State) (k : Nat) (d : TblDecl), live s = true → k < 256 → tblDecl s k = some d → d.kind = 1 →
    rd s (R.fwdTblAgeAgeMs k) ≠ 0 → (mgetD s.tab.age k ⟨0, uptime s, 0⟩).next < 2 ^ d.sizeLog2 →
    Completes (.ageingVisit k) s (fun t =>
      mget t.tab.age k = some { mgetD s.tab.age k ⟨0, uptime s, 0⟩ with
        next := (mgetD s.tab.age k ⟨0, uptime s, 0⟩).next + 1 } ∧
      t.tab.bkt = (visitBucket (if d.learn then drainArbiter s d else s) d
        (mgetD s.tab.age k ⟨0, uptime s, 0⟩).next).tab.bkt))

/-- R139–R143, R341: the Continuity checker defers a block that reads differently from its shadow; a deferred block
that has caught up and agrees leaves the list, one that times out is counted as unverified; TABLE_READ answers the
bytes of the storage image.
It rests on the model's readings in logs 22 and 32. -/
def Obligations.ContinuitySweepsAndReads : Prop :=
  (∀ (s : State) (k q b : Nat) (sh : List Byte) (hurt : List (Nat × Nat)) (d : TblDecl), live s = true → k < 257 →
    tblDecl s k = some d → rd s (R.conTblPeriodMs k) ≠ 0 → mget s.tab.conSweep k = none →
    rd s (R.conShadowAddr k) ≠ 0 → b < cdiv (imageLen s d) 4096 → q ∈ blockQuads s d b → (q, b) ∈ hurt →
    Completes (.continuitySweep k sh hurt) s (fun t => mget t.tab.conSweep k = some (uptime s, false) ∧
      (∃ c ∈ t.tab.conDefer, c.tbl = k ∧ c.quad = q ∧ c.block = b) ∧ t.tab.bkt = s.tab.bkt ∧ Leaves [] s t)) ∧
  (∀ (s : State) (k q b ap : Nat) (sh : List Byte) (hurt : List Nat) (d : TblDecl) (c : ConDefer), live s = true →
    tblDecl s k = some d → s.tab.conDefer.find? (fun c => c.tbl == k && c.quad == q && c.block == b) = some c →
    (s.tab.conDefer.filter (fun x => x != c)).any (fun c => c.tbl == k) = true →
    (c.seq ≤ ap → hurt = [] →
      (∀ o ∈ blockEntries s d (4096 * b) sh (blockLen s d b) (blockLen s d b),
        imageBytes s d o.1 o.2 = slice sh (o.1 - 4096 * b) o.2) →
      Completes (.continuityCatchup k q b ap sh hurt false) s (fun t =>
        t.tab.conDefer = s.tab.conDefer.filter (fun x => x != c) ∧ t.tab.bkt = s.tab.bkt ∧ Leaves [] s t)) ∧
    (ap < c.seq → s.tab.conUnver.contains (k, q, b) = false →
      Completes (.continuityCatchup k q b ap sh hurt true) s (fun t => rd t R.conStatUnverified = 1 ∧
        rd t R.conUnverCntCount = (rd s R.conUnverCntCount + 1) % 2 ^ 48 ∧ (k, q, b) ∈ t.tab.conUnverNow ∧
        Leaves [R.conStatUnverified, R.conUnverCntCount] s t))) ∧
  (∀ (s : State) (h : CmdHdr) (k o n : Nat) (d : TblDecl), live s = true → ByCore h → tblDecl s k = some d →
    (o + n ≤ imageLen s d → n ≤ 208 → Completes (.tableRead h k o n) s (fun t =>
      Answers h .ok (imageBytes s d o n) t ∧ t.tab = s.tab ∧ Leaves [] s t)) ∧
    (imageLen s d < o + n → Completes (.tableRead h k o n) s (fun t => Answers h .invalid [] t ∧ t.tab = s.tab ∧
      Leaves [] s t)))

/-! ### The flow table (chapter 6) -/

/-- R167: a flow command waits while its key's line is FILLING; otherwise it is decided at once: a pin and an unpin
  of a cached record rewrite PIN and leave the line DIRTY, a delete removes the record, a create places it; a
  command that waited is decided when its line has resolved, and answers with its session's key or, if that is gone,
  with KEY_ERASED. It rests on the model's readings in logs 5 and 34. -/
def Obligations.FlowCommandsAreDecided : Prop :=
  (∀ (s : State) (h : CmdHdr) (key k : Nat), live s = true → ByCore h → modeIn s commandModes = true →
    k = clrBit (key % 2 ^ 320) 31 →
    (keyFilling s k = true → Completes (.flowPin h key) s (fun t =>
      t.flo.waiting = s.flo.waiting ++ [⟨slice h.body 0 32, h.mbx, none, k, .pin⟩] ∧
      mget t.host.responseDue h.mbx = none ∧ Leaves [] s t)) ∧
    (keyFilling s k = false → ∀ (l r : Nat) (x : LineS), findLine s (homeOfKey s k) k = some (l, x) →
      mget s.flo.lines l = some x → primaryOf s k = some r →
      (recPin r = false → pinRoom s (homeOfKey s k) (setOf s (homeOfKey s k) k) = true →
        Completes (.flowPin h key) s (fun t => Answers h .ok [] t ∧
          mget t.flo.lines l = some { x with content := setBit x.content 388, pinned := true, st := .dirty } ∧
          t.hbm = s.hbm ∧ Leaves [] s t)) ∧
      (recPin r = true → recSched r = false →
        Completes (.flowUnpin h key) s (fun t => Answers h .ok [] t ∧
          mget t.flo.lines l = some { x with content := clrBit x.content 388, pinned := false, st := .dirty } ∧
          t.hbm = s.hbm ∧ Leaves [] s t))) ∧
    (keyFilling s k = false → ∀ r : Nat, primaryOf s k = some r → recKey r = k →
      Completes (.flowDelete h key) s (fun t => Answers h .ok [] t ∧
        (∀ v ∈ t.flo.victims, ¬(v.quad = homeOfKey s k ∧ v.key = k)) ∧
        t.hbm = (removeFlow s (homeOfKey s k) r 4).hbm)) ∧
    (keyFilling s k = false → primaryOf s k = none →
      Completes (.flowPin h key) s (fun t => Answers h .invalid [] t ∧ t.flo = s.flo ∧ t.hbm = s.hbm) ∧
      Completes (.flowDelete h key) s (fun t => Answers h .invalid [] t ∧ t.flo = s.flo ∧ t.hbm = s.hbm))) ∧
  (∀ (s u : State) (h : CmdHdr) (record r x : Nat), live s = true → ByCore h → modeIn s commandModes = true →
    r = setBit record 320 → recKey r = recKey record → keyFilling s (recKey r) = false →
    recordNow s (homeOfKey s (recKey r)) (recKey r) = none → createOk r = true → recPin r = false →
    recSched r = false → recBal r = false → placePair s (homeOfKey s (recKey r)) r = .at x u →
    Completes (.flowCreate h record) s (fun t => Answers h .ok [] t ∧ t.hbm = u.hbm)) ∧
  (∀ (s u : State) (i : Nat) (w : FlowWait), live s = true → s.flo.waiting[i]? = some w →
    keyFilling s w.matched = false → 32 ≤ w.mbx → w.mbx < 64 →
    u = { s with flo := { s.flo with waiting := s.flo.waiting.eraseIdx i } } →
    Completes (.flowCmdResume i) s (fun t => t.flo = (flowDecide u w.matched w.cmd).st.flo ∧
      (w.key = none ∨ (sessSlots t (fieldLe w.head 3 1 % 32)).isSome = true ∧
          w.key = some (keyRsp t (fieldLe w.head 3 1 % 32)) →
        mget t.host.responseDue w.mbx =
          some ⟨w.head, w.key, (flowDecide u w.matched w.cmd).status, (flowDecide u w.matched w.cmd).payload⟩) ∧
      (w.key ≠ none ∧ (sessSlots t (fieldLe w.head 3 1 % 32)).isSome = false →
        mget t.host.responseDue w.mbx = some ⟨w.head, none, .keyErased, []⟩)))

/-- R160, R163, R166, R170: a clean bucket read that finds the key's record makes the line CLEAN with it; a poisoned
  one quarantines the bucket and ends the miss; a writeback stores the victim's record; an expired setup is
  abandoned. It rests on the model's readings in logs 5, 22 and 32. -/
def Obligations.MissesAndWritebacksResolve : Prop :=
  (∀ (s : State) (l q a : Nat) (x : LineS), live s = true → mget s.flo.lines l = some x → x.st = .filling →
    x.miss = .b0 → x.hold = [] → q = lineQuad l → q < 4 → a = slotAddr s q (4 * fb0 s x.key) →
    (badRange s q a 512 = false → ∀ sl, slotIn s q (fb0 s x.key) x.key = some sl →
      Completes (.bucketReadDone l [] []) s (fun t =>
        mget t.flo.lines l = some { x with
          st := .clean, content := cacheForm (slotRec s q sl), slot := sl, miss := .none, task := 0,
          pinned := x.pinned || recPin (slotRec s q sl), hold := [], used := s.flo.clock + 1 } ∧
        t.hbm.mem = s.hbm.mem ∧ t.hbm.poison = s.hbm.poison ∧
        Leaves [R.hbmCntCount q 0, R.hbmCntCount q 2] s t)) ∧
    (badRange s q a 512 = true → quarantined s q (fb0 s x.key) = false → rdB s (R.fltQuarValid q 0) = false →
      Completes (.bucketReadDone l [] []) s (fun t =>
        mget t.flo.lines l = none ∧ rd t (R.fltQuarValid q 0) = 1 ∧
        rd t (R.fltQuarBucket q 0) = fb0 s x.key % 2 ^ 25 ∧
        rd t (R.fltCntCount q 10) = (rd s (R.fltCntCount q 10) + 1) % 2 ^ 48 ∧
        t.hbm.mem = s.hbm.mem ∧ t.hbm.poison = s.hbm.poison ∧
        Leaves [R.hbmCntCount q 0, R.hbmCntCount q 2, R.hbmCntCount q 4, R.fltCntCount q 10,
          R.fltQuarBucket q 0, R.fltQuarValid q 0]
          s t))) ∧
  (∀ (s : State) (i : Nat) (v : VictimS), live s = true → s.flo.victims[i]? = some v →
    ((s.flo.victims.take i).filter (fun x => x.quad == v.quad)).length < 256 →
    (∀ e ∈ s.flo.lines, e.2.miss ≠ .victim) →
    Completes (.writebackDone i 0) s (fun t => t.flo.victims = s.flo.victims.eraseIdx i ∧
      t.flo.lines = s.flo.lines ∧
      (chanDead s v.quad (logCh (slotAddr s v.quad v.slot)) = false →
        plainArea s v.quad (slotAddr s v.quad v.slot) 128 = true →
        slotRec t v.quad v.slot =
          putBits v.content 352 32 (bits (slotRec s v.quad v.slot) 352 32) % 2 ^ 1024)) ∧
    Completes (.writebackDone i 2) s (fun t => t.flo.victims = s.flo.victims.eraseIdx i ∧ t.hbm = s.hbm ∧
      Leaves [R.fltCntCount v.quad 6] s t)) ∧
  (∀ (s : State) (i l : Nat) (d : TaskS) (x : LineS), live s = true → mget s.eng.tasks i = some d → d.kind = 0 →
    d.flag = none → d.ctx = none → d.admitted = false → d.placed = none → d.line = some l → d.quad < 4 →
    mget s.flo.lines l = some x → x.hold = [] → d.since + 1000 * rd s (R.fltSetupCfgLimitUs d.quad) ≤ uptime s →
    Completes (.setupLimitExpire i) s (fun t => mget t.eng.tasks i = none ∧ mget t.flo.lines l = none ∧
      rd t (R.fltCntCount d.quad 8) = (rd s (R.fltCntCount d.quad 8) + 1) % 2 ^ 48 ∧ t.hbm = s.hbm ∧
      Leaves [R.fltCntCount d.quad 8, R.tskCntCount d.quad 2] s t))

/-- R168, R170, R223: the sequencer of an ageing sweep posts the task of the next 4,096 slots unless the byte budget
  is overdrawn; the repair of a listed bucket is posted and queued; a running repair task takes its bucket out of
  the quarantine list and, under standard microcode, ends. It rests on the model's readings in logs 5 and 26. -/
def Obligations.SweepsArePostedAndBucketsRepaired : Prop :=
  (∀ (s : State) (quad : Nat) (d : TaskS), live s = true → quad < 4 → dispMode s = 1 →
    mget s.flo.sweep quad = none → rd s (R.fltAgeCfgPeriodS quad) ≠ 0 → 0 < recSlots s →
    sweepMay s quad = true →
    kindTask s quad 1 [0, 4096, flowTick s] = some d → taskRoom s d = true →
    Completes (.sweepTaskPost quad none) s (fun t => mget t.flo.sweep quad = some ⟨4096, uptime s⟩ ∧
      mget t.eng.tasks s.eng.nextTask = some d ∧
      mgetD t.eng.inq quad [] = mgetD s.eng.inq d.quad [] ++ [s.eng.nextTask] ∧ Leaves [] s t)) ∧
  (∀ (s : State) (quad i : Nat) (w : RemovalS) (d : TaskS), live s = true → quad < 4 → dispMode s = 1 →
    s.flo.removal[i]? = some w → w.started = true → w.next.getD quad 0 < recSlots s →
    sweepMay s quad = true →
    kindTask s quad 1 [w.next.getD quad 0, 4096, 2 ^ 63 + w.backend * 2 ^ 16 + w.service] = some d →
    taskRoom s d = true →
    Completes (.sweepTaskPost quad (some i)) s (fun t => mget t.eng.tasks s.eng.nextTask = some d ∧
      t.flo.removal = s.flo.removal.set i { w with next := w.next.set quad (w.next.getD quad 0 + 4096) } ∧
      Leaves [] s t)) ∧
  (∀ (s : State) (quad i g : Nat) (d : TaskS), live s = true → quad < 4 → i < 64 → dispMode s = 1 →
    mgetD s.eng.inq quad [] = [] → (∀ j, j < 64 → rdB s (R.fltQuarValid quad j) = (j == i)) →
    s.eng.tasks.any (fun e => repairOf quad (rd s (R.fltQuarBucket quad i)) e.2) = false →
    kindTask s quad 2 [rd s (R.fltQuarBucket quad i), 0, 0] = some d → routeGroup s d = some g →
    grpRoom s g d = true →
    Completes (.taskAdmit quad) s (fun t => mget t.eng.tasks s.eng.nextTask = some { d with group := g } ∧
      s.eng.nextTask ∈ mgetD t.eng.queues (8 * g + d.prio) [] ∧ Leaves [] s t)) ∧
  (∀ (s : State) (quad i k : Nat) (d : TaskS) (bad : List Nat), live s = true → quad < 4 → i < 64 →
    rdB s (R.fltQuarValid quad i) = true →
    repairRuns s quad (rd s (R.fltQuarBucket quad i)) = some (k, d) → mget s.eng.tasks k = some d →
    Completes (.quarantineRepair quad i bad) s (fun t => rd t (R.fltQuarValid quad i) = 0 ∧
      rd t (R.fltQuarBucket quad i) = 0 ∧ t.flo.lines = s.flo.lines ∧ t.flo.victims = s.flo.victims ∧
      mget t.eng.tasks k = some { d with decided := if (grpStore s d.group).std then some 0 else none } ∧
      ∀ j, j < 64 → j ≠ i → rd t (R.fltQuarValid quad j) = rd s (R.fltQuarValid quad j)))

/-! ### The flow engines (chapter 8) -/

/-- R227, R228, R231: the first task at a dispatcher's input that finds room in its group is admitted, once no listed
bucket still waits for its repair task; it is queued at its level of the group that serves it, an ordered one with the
next sequence of its domain; the dispatcher starts the first queued task on the lowest free context, with W0–W2 its
arguments and everything else clear.
It rests on the model's readings in log 26. -/
def Obligations.TasksAreAdmittedAndDispatched : Prop :=
  (∀ (s : State) (q i g : Nat) (d : TaskS), live s = true → q < 4 → dispMode s = 1 →
    (∀ j, j < 64 → rdB s (R.fltQuarValid q j) = true →
      s.eng.tasks.any (fun e => repairOf q (rd s (R.fltQuarBucket q j)) e.2) = true) →
    admitNext s q = some i → mget s.eng.tasks i = some d → routeGroup s d = some g → grpRoom s g d = true →
    (d.ordered = false → Completes (.taskAdmit q) s (fun t =>
      mget t.eng.tasks i = some { d with group := g } ∧ i ∈ mgetD t.eng.queues (8 * g + d.prio) [] ∧
      i ∉ mgetD t.eng.inq q [] ∧ t.eng.doms = s.eng.doms ∧ Leaves [] s t)) ∧
    (d.ordered = true → domOut s q d.domain ≠ 1024 → Completes (.taskAdmit q) s (fun t =>
      mget t.eng.tasks i = some { d with seq := (domOf s d.quad d.domain).1, admitted := true, group := g } ∧
      domOf t d.quad d.domain = (((domOf s d.quad d.domain).1 + 1) % 65536, (domOf s d.quad d.domain).2) ∧
      mget t.eng.rel (relKey d.quad d.domain (domOf s d.quad d.domain).1) = some .pending ∧
      i ∈ mgetD t.eng.queues (8 * g + d.prio) [] ∧ Leaves [] s t))) ∧
  (∀ (s : State) (q k c i : Nat) (is : List Nat) (d : TaskS), live s = true → q < 4 → k < 8 → dispMode s = 1 →
    grpState s (grpOf q k) = 1 → rdB s (R.engGrpStatAffinity q k) = false → grpTasks s (grpOf q k) = i :: is →
    mget s.eng.tasks i = some d → freeContext s (grpOf q k) = some c → (grpStore s (grpOf q k)).std = false →
    Completes (.dispatch q k none) s (fun t =>
      mget t.eng.ctxs c = some ⟨i, d.entry % 16384, [d.args.getD 0 0, d.args.getD 1 0, d.args.getD 2 0, 0, 0, 0, 0, 0],
        false, false, false, false, [], false, false, none, .no, [], false, none, none, false, none⟩ ∧
      mget t.eng.tasks i = some { d with ctx := some c } ∧ i ∉ grpTasks t (grpOf q k) ∧
      rd t (R.engCntCount q k 0) = (rd s (R.engCntCount q k 0) + 1) % 2 ^ 48 ∧ Leaves [R.engCntCount q k 0] s t))

/-- R204, R210, R212: a word without memory, message and trap part does its two ALU operations on the registers before
it and goes to the next address when its context issues in its engine's round, at once or when what it waited for is
there; a context whose round has not come keeps its word. R222: an uncorrectable control-store
error fails the group.
It rests on the model's readings in logs 17, 26 and 45. -/
def Obligations.MicrowordsExecute : Prop :=
  (∀ (s : State) (q k c w : Nat) (x : CtxS) (d : TaskS), live s = true → q < 4 → k < 8 → c < 64 →
    ctxTask s (ctxOf q k c) = some (x, d) → d.decided = none → x.trapWait = none →
    w = wordAt s (grpOf q k) x.pc → PlainWord w →
    (x.waiting = .over ∨ (x.waiting = .no ∧ mwWait w = false) → inTurn s (ctxOf q k c) = true → Completes (.microwordIssue q k c 0) s (fun t =>
      mget t.eng.ctxs (ctxOf q k c) = some { afterAlu s x w with
        pc := (x.pc + 1) % 16384, waiting := .no, sel := none, waited := false } ∧
      mget t.eng.turn (ctxOf q k c / 4) = some ((ctxOf q k c + 1) % 4) ∧
      t.eng.tasks = s.eng.tasks ∧ t.hbm = s.hbm)) ∧
    (inTurn s (ctxOf q k c) = false → Completes (.microwordIssue q k c 0) s (fun t =>
      t.eng = s.eng ∧ t.hbm = s.hbm)) ∧
    (x.waiting = .mdone → x.mem = none → inTurn s (ctxOf q k c) = false → Completes (.waitEnd q k c false) s (fun t =>
      mget t.eng.ctxs (ctxOf q k c) = some { x with timeout := false, waiting := .over } ∧
      t.eng.turn = s.eng.turn ∧ t.hbm = s.hbm ∧ Leaves [] s t)) ∧
    (x.waiting = .mdone → x.mem = none → inTurn s (ctxOf q k c) = true → Completes (.waitEnd q k c false) s (fun t =>
      mget t.eng.ctxs (ctxOf q k c) = some { afterAlu s { x with timeout := false } w with
        pc := (x.pc + 1) % 16384, waiting := .no, sel := none, waited := false } ∧
      t.eng.tasks = s.eng.tasks ∧ t.hbm = s.hbm ∧ Leaves [R.smpCntCount 1] s t))) ∧
  (∀ (s : State) (q k c : Nat), live s = true → q < 4 → k < 8 → (mget s.eng.store (grpOf q k)).isSome = true →
    grpCtxs s (grpOf q k) = [] → grpTasks s (grpOf q k) = [] → mgetD s.eng.affWait (grpOf q k) [] = [] →
    modeIn s [.load, .test, .safe] = true →
    Completes (.microwordIssue q k c 2) s (fun t => rd t (R.engGrpStatState q k) = 5 ∧
      bit (rd t R.safFaultFault) 9 = true ∧ t.eng = s.eng))

/-- R214, R304: a stack read of a context completes: its granules are in the line buffer, MERR is 0 and the context
  has no operation outstanding. R215: a flow-table read of a cached record gives its bytes and W[DATA_REG] 0. It
  rests on the model's readings in logs 8 and 26. -/
def Obligations.MemoryOperationsComplete : Prop :=
  (∀ (s : State) (q k c : Nat) (x : CtxS) (d : TaskS) (m : MemOpS), live s = true → q < 4 → k < 8 → c < 64 →
    ctxTask s (ctxOf q k c) = some (x, d) → x.mem = some m → m.sel = none → x.trapWait = none → m.space = 2 →
    m.op = 1 → m.lbOff + m.len ≤ 8 → badRange s q m.addr (64 * m.len) = false →
    Completes (.memOpComplete q k c [] []) s (fun t =>
      mget t.eng.ctxs (ctxOf q k c) = some { x with mem := none, merr := false } ∧
      lbRead t (ctxOf q k c) (64 * m.lbOff) (64 * m.len) = hbmPeek s q m.addr (64 * m.len) ∧
      t.hbm.mem = s.hbm.mem ∧ t.hbm.poison = s.hbm.poison ∧ t.eng.tasks = s.eng.tasks ∧
      Leaves [R.hbmCntCount q 0, R.hbmCntCount q 2] s t)) ∧
  (∀ (s : State) (q k c r : Nat) (x : CtxS) (d : TaskS) (m : MemOpS), live s = true → q < 4 → k < 8 → c < 64 →
    ctxTask s (ctxOf q k c) = some (x, d) → x.mem = some m → m.sel = none → x.trapWait = none →
    fopOf s (ctxOf q k c) 0 = some (m, d) → m.lbOff + min 2 m.len ≤ 8 →
    recValid (slotRec s (handleQuad (bits m.addr 8 29)) (handleSlot (bits m.addr 8 29))) = true →
    cached s (handleQuad (bits m.addr 8 29))
      (recKey (slotRec s (handleQuad (bits m.addr 8 29)) (handleSlot (bits m.addr 8 29)))) = some r →
    Completes (.fopRead q k c [] []) s (fun t =>
      mget t.eng.ctxs (ctxOf q k c) = some { x with mem := none, merr := false, w := x.w.set m.dataReg 0 } ∧
      lbRead t (ctxOf q k c) (64 * m.lbOff) (64 * min 2 m.len) = (toLe 128 r).take (64 * min 2 m.len) ∧
      t.hbm = s.hbm ∧ t.flo = s.flo ∧ Leaves [] s t))

/-- R215: what a flow-table place, update, remove, pin and unpin of a context leave: the record, and in W[DATA_REG]
  the status (with the record's handle above it for a place). It rests on the model's readings in logs 5 and 26. -/
def Obligations.FlowTableOperationsAnswer : Prop :=
  ∀ (s : State) (q k c h : Nat) (x : CtxS) (d : TaskS) (m : MemOpS), live s = true → q < 4 → k < 8 → c < 64 →
    ctxTask s (ctxOf q k c) = some (x, d) → x.mem = some m → m.sel = none → x.trapWait = none →
    h = bits m.addr 8 29 →
    (∀ (u : State) (r y : Nat), fopOf s (ctxOf q k c) 1 = some (m, d) → d.abandoned = false → setupTask d = false →
      m.len ≠ 4 → r = setBit (leNat (slice m.data 0 128)) 320 → recPin r = false → placeRec s (homeOfKey s (recKey r)) r = .at y u →
      Completes (.fopPlace q k c) s (fun t => t.hbm = u.hbm ∧
        mget t.eng.tasks x.task = some { d with placed := some (recKey r) } ∧
        mget t.eng.ctxs (ctxOf q k c) = some { x with
          mem := none, merr := false, handle := some (homeOfKey s (recKey r) * 2 ^ 27 + y),
          w := x.w.set m.dataReg ((homeOfKey s (recKey r) * 2 ^ 27 + y) * 256 % 2 ^ 64) })) ∧
    (∀ (r old l : Nat) (ln : LineS), fopOf s (ctxOf q k c) 2 = some (m, d) →
      r = setBit (leNat (slice m.data 0 128)) 320 → handleRec s h = some old → recKey old = recKey r →
      findLine s (handleQuad h) (recKey (putBits r 388 1 (bits old 388 1))) = some (l, ln) →
      mget s.flo.lines l = some ln → ln.st ≠ .filling →
      Completes (.fopUpdate q k c) s (fun t =>
        mget t.flo.lines l = some { ln with content := cacheForm (putBits r 388 1 (bits old 388 1)), st := .dirty } ∧
        mget t.eng.ctxs (ctxOf q k c) = some { x with mem := none, merr := false, w := x.w.set m.dataReg 0 } ∧
        t.hbm = s.hbm)) ∧
    (∀ r, fopOf s (ctxOf q k c) 3 = some (m, d) → bit m.addr 4 = false → handleRec s h = some r →
      recAlias r = false →
      (recSched r = false → Completes (.fopRemove q k c) s (fun t =>
        t.hbm = (removeFlow s (handleQuad h) r 4).hbm ∧ t.flo = (removeFlow s (handleQuad h) r 4).flo ∧
        mget t.eng.ctxs (ctxOf q k c) = some { x with mem := none, merr := false, w := x.w.set m.dataReg 0 })) ∧
      (recSched r = true → Completes (.fopRemove q k c) s (fun t => t.hbm = s.hbm ∧ t.flo = s.flo ∧
        mget t.eng.ctxs (ctxOf q k c) = some { x with mem := none, merr := false, w := x.w.set m.dataReg 4 }))) ∧
    (∀ (r l : Nat) (ln : LineS), handleRec s h = some r →
      findLine s (homeOfKey s (recKey r)) (recKey r) = some (l, ln) → mget s.flo.lines l = some ln →
      (fopOf s (ctxOf q k c) 4 = some (m, d) → recPin r = false → ln.st ≠ .filling →
        pinRoom s (homeOfKey s (recKey r)) (setOf s (homeOfKey s (recKey r)) (recKey r)) = true →
        Completes (.fopPin q k c) s (fun t =>
          mget t.flo.lines l = some { ln with content := setBit ln.content 388, pinned := true, st := .dirty } ∧
          mget t.eng.ctxs (ctxOf q k c) = some { x with mem := none, merr := false, w := x.w.set m.dataReg 0 })) ∧
      (fopOf s (ctxOf q k c) 5 = some (m, d) → recPin r = true → recSched r = false →
        Completes (.fopUnpin q k c) s (fun t =>
          mget t.flo.lines l = some { ln with content := clrBit ln.content 388, pinned := false, st := .dirty } ∧
          mget t.eng.ctxs (ctxOf q k c) = some { x with mem := none, merr := false, w := x.w.set m.dataReg 0 })))

/-- R217, R224, R229, R230, R233: a core posts a task, cancels one by its sequence, interrupts a context and sets
  event flags; the group tick sets bit 31; a cancelled task, and one of a mode that has ended, is killed. It rests
  on the model's readings in log 26. -/
def Obligations.TasksArePostedCancelledAndSignalled : Prop :=
  (∀ (s : State) (r q k : Nat) (d : TaskS), live s = true → isCore r = true → q < 4 → k < 8 → dispMode s = 1 →
    d = descTask s q 3 ((List.range 4).map (fun j => toLe 8 (rd s (R.tskPostBytes q k j)))).flatten →
    bits (rd s (R.tskPostBytes q k 0)) 18 3 = 0 → servingGroups s q d.cls ≠ [] →
    d.entry < fieldLe (ucode s d.cls) 0 2 → taskRoom s d = true →
    Completes (.taskPost r q k) s (fun t => mget t.eng.tasks s.eng.nextTask = some d ∧
      mgetD t.eng.inq q [] = mgetD s.eng.inq q [] ++ [s.eng.nextTask] ∧
      rdStat t (R.tskPostCtlStatus q k) = .ok ∧ Leaves [] s t)) ∧
  (∀ (s : State) (r q dom n i : Nat) (d : TaskS), live s = true → isCore r = true → q < 4 → dom < 65536 →
    n < 65536 → s.eng.tasks.find? (fun e => e.2.quad == q && e.2.admitted && e.2.domain == dom && e.2.seq == n &&
      !e.2.abandoned) = some (i, d) → mget s.eng.tasks i = some d → d.ctx = none → d.kind ≠ 0 → d.ordered = true →
    mget s.eng.rel (relKey q dom n) = some .pending → (domOf s q dom).2 ≠ n →
    mget s.eng.rel (relKey q dom (domOf s q dom).2) = some .pending →
    Completes (.taskCancel r q dom n) s (fun t => mget t.eng.tasks i = none ∧
      mget t.eng.rel (relKey q dom n) = some .void ∧ rdStat t (R.tskCancelStatus q) = .ok ∧
      rd t (R.tskCntCount q 2) = (rd s (R.tskCntCount q 2) + 1) % 2 ^ 48 ∧
      Leaves [R.tskCancelDomain q, R.tskCancelSeq q, R.tskCntCount q 2] s t)) ∧
  (∀ (s : State) (q k c : Nat) (x : CtxS) (d : TaskS), live s = true → q < 4 → k < 8 → c < 64 →
    ctxTask s (ctxOf q k c) = some (x, d) → d.kind ≠ 0 → d.ordered = false →
    (d.cancel = true → Completes (.cancelKill q k c) s (fun t => mget t.eng.ctxs (ctxOf q k c) = none ∧
      mget t.eng.tasks x.task = none ∧
      rd t (R.engCntCount q k 5) = (rd s (R.engCntCount q k 5) + 1) % 2 ^ 48 ∧
      Leaves [R.engCntCount q k 5, R.engIntGo q k] s t)) ∧
    ((s.eng.ctxs.map (·.1)).filter (staleCtx s) = [ctxOf q k c] → Completes .modeChangeKill s (fun t =>
      mget t.eng.ctxs (ctxOf q k c) = none ∧ mget t.eng.tasks x.task = none ∧
      rd t (R.engCntCount q k 5) = (rd s (R.engCntCount q k 5) + 1) % 2 ^ 48))) ∧
  (∀ (s : State) (r q k c code : Nat) (x : CtxS), live s = true → isCore r = true → q < 4 → k < 8 → c < 64 →
    mget s.eng.ctxs (ctxOf q k c) = some x → x.waiting = .no → x.intr = [] →
    Completes (.engInt r q k c code) s (fun t =>
      mget t.eng.ctxs (ctxOf q k c) = some { x with intr := [(0x10, code % 256)] } ∧
      rd t (R.engIntGo q k) = 1 ∧ rd t (R.engIntCtx q k) = c ∧
      Leaves [R.engIntGo q k, R.engIntCtx q k, R.engIntCode q k] s t)) ∧
  (∀ (s : State) (r q k i v : Nat), live s = true → isCore r = true → q < 4 → k < 8 → i < 64 →
    Completes (.flagWrite r q k i v) s (fun t =>
      rd t (R.tskFlagFlags q k i) = (rd s (R.tskFlagFlags q k i) ||| v % 2 ^ 32) % 2 ^ 32 ∧
      Leaves [R.tskFlagFlags q k i] s t ∧ rest t = rest (dropLatch s r))) ∧
  (∀ (s : State) (q k : Nat), live s = true → q < 4 → k < 8 → rd s (R.tskFlagCfgTickUs q k) ≠ 0 → dispMode s ≠ 0 →
    Completes (.flagTick q k) s (fun t => rest t = rest s ∧
      ∀ e ∈ (grpStore s (grpOf q k)).ft, bit (rd t (R.tskFlagFlags q k e.1)) 31 = true))

/-- R222, R235, R236, R428: outside the splice of a class region, DRAIN, RETURN, ADOPT and RELEASE of a group, by
  register and by ENG_GROUP, the end of a drain, of a control-store load and of a group's test slice, and the STATE
  each leaves; while a class region is spliced, a drained group of the class is loaded anew. It rests on the model's
  readings in log 26. -/
def Obligations.GroupsChangeState : Prop :=
  (∀ (s : State) (r q k : Nat), live s = true → isCore r = true → q < 4 → k < 8 → splicedClass s = none →
    (grpState s (grpOf q k) = 1 → hasSibling s (grpOf q k) = true → grpCtxs s (grpOf q k) = [] →
      (∀ i ∈ grpTasks s (grpOf q k) ++ mgetD s.eng.affWait (grpOf q k) [], ∀ d, mget s.eng.tasks i = some d →
        servingGroups (setGrpState s (grpOf q k) 2) d.quad d.cls ≠ []) →
      Completes (.groupDrain r q k) s (fun t => rd t (R.engGrpStatState q k) = 2 ∧ rd t (R.engGrpCtlDrain q k) = 1 ∧
        rdStat t (R.engGrpStatStatus q k) = .ok ∧ t.eng.ctxs = s.eng.ctxs)) ∧
    (grpState s (grpOf q k) ≠ 1 → Completes (.groupDrain r q k) s (fun t =>
      rdStat t (R.engGrpStatStatus q k) = .invalid ∧ Leaves [] s t ∧ t.eng = s.eng)) ∧
    (grpState s (grpOf q k) = 3 →
      Completes (.groupReturn r q k) s (fun t => rd t (R.engGrpStatState q k) = 1 ∧
        rdStat t (R.engGrpStatStatus q k) = .ok ∧ t.eng = s.eng ∧ Leaves [R.engGrpStatState q k] s t) ∧
      Completes (.groupRelease r q k) s (fun t => rd t (R.engGrpStatState q k) = 0 ∧
        rd t (R.engUcodeVerLoaded q k) = 0 ∧ mget t.eng.store (grpOf q k) = none ∧
        rdStat t (R.engGrpStatStatus q k) = .ok)) ∧
    (∀ cls, cls < 8 → (grpState s (grpOf q k) = 0 ∨ grpState s (grpOf q k) = 3 ∨ grpState s (grpOf q k) = 5) →
      ucodeFor s cls ≠ [] → Completes (.groupAdopt r q k cls) s (fun t => rd t (R.engGrpStatState q k) = 4 ∧
        mget t.eng.loading (grpOf q k) = some cls ∧ rdStat t (R.engGrpStatStatus q k) = .ok ∧
        Leaves [R.engGrpStatState q k, R.engGrpCtlAdoptClass q k] s t))) ∧
  (∀ (s : State) (q k : Nat), live s = true → q < 4 → k < 8 → grpState s (grpOf q k) = 2 → splicedClass s = none →
    (∀ c x d, c ∈ grpCtxs s (grpOf q k) → ctxTask s c = some (x, d) → d.kind ≠ 0 ∧ d.ordered = false) →
    Completes (.drainKill q k) s (fun t => rd t (R.engGrpStatState q k) = 3 ∧ rd t (R.engGrpCtlDrain q k) = 0)) ∧
  (∀ (s : State) (q k cls : Nat), live s = true → q < 4 → k < 8 → grpState s (grpOf q k) = 2 →
    splicedClass s = some cls → rd s (R.engUcodeVerClass q k) = cls → s.eng.loading = [] →
    grpCtxs s (grpOf q k) = [] → mget s.eng.store (grpOf q k) ≠ some (storeOf (ucodeFor s cls)) →
    (∀ g, g < 32 → g ≠ grpOf q k → grpState s g ≤ 1) →
    Completes (.drainKill q k) s (fun t => rd t (R.engGrpStatState q k) = 4 ∧
      mget t.eng.loading (grpOf q k) = some cls)) ∧
  (∀ (s : State) (q k cls : Nat), live s = true → q < 4 → k < 8 → grpState s (grpOf q k) = 4 → cls < 8 →
    splicedClass s = none →
    mget s.eng.loading (grpOf q k) = some cls →
    Completes (.controlStoreLoadDone q k 0) s (fun t => rd t (R.engGrpStatState q k) = 1 ∧
      rd t (R.engUcodeVerClass q k) = cls ∧ rd t (R.engUcodeVerLoaded q k) = 1 ∧
      mget t.eng.store (grpOf q k) = some (storeOf (ucodeFor s cls)) ∧ mget t.eng.loading (grpOf q k) = none)) ∧
  (∀ (s : State) (h : CmdHdr) (q k cls : Nat), live s = true → ByCore h → modeIn s commandModes = true → q < 4 →
    k < 8 → cls < 8 → splicedClass s = none →
    (grpState s (grpOf q k) = 3 → Completes (.engGroup h q k 1 cls) s (fun t => rd t (R.engGrpStatState q k) = 1 ∧
      Answers h .ok [] t ∧ t.eng = s.eng ∧ Leaves [R.engGrpStatState q k] s t)) ∧
    (grpState s (grpOf q k) ≠ 3 → Completes (.engGroup h q k 1 cls) s (fun t => Answers h .invalid [] t ∧
      t.eng = s.eng ∧ Leaves [] s t))) ∧
  (∀ (s : State) (q k : Nat), live s = true → q < 4 → k < 8 → modeIn s [.sync, .serve, .splice, .safe] = true →
    splicedClass s = none → grpState s (grpOf q k) = 3 → Completes (.engineGroupTest q k none true) s (fun t =>
      rd t (R.engGrpStatState q k) = 1 ∧ rd t (R.bstEngLast q) = k ∧ rd t (R.bstEngPass q) = 1 ∧
      mget t.saf.engPass (grpOf q k) = some (uptime s)))

/-! ### Flow services (chapter 7) -/

/-- R189, R190: a port is allocated from a block the subscriber holds, and is tentative; a release clears its bit; a
tentative port that expires leaves the list; a block held long enough is released.
It rests on the model's readings in logs 16 and 22. -/
def Obligations.PortsAreAllocatedAndReleased : Prop :=
  (∀ (s : State) (u : SubId) (pool task i r j o : Nat), live s = true → u.vrf < 2 ^ 14 → u.addr < 2 ^ 128 →
    pool < 4096 → subFind s u = some i → r = subRec s (subHome u) i → 0 < subBlocks r → subPool r = pool →
    heldPort s (poolEnt s pool) (subHome u) r = some (j, o) →
    Completes (.portAllocate u.vrf u.v6 u.addr pool task) s (fun t =>
      t.flo.tentative = s.flo.tentative ++ [⟨subHome u, i, bits r (subBlk j) 20,
        blockPort s (poolEnt s pool) (bits r (subBlk j + 20) 10) + o, uptime s, task⟩] ∧
      t.flo.maps = s.flo.maps ∧
      rd t (R.fltSvcCntCount (subHome u) 3) = (rd s (R.fltSvcCntCount (subHome u) 3) + 1) % 2 ^ 48)) ∧
  (∀ (s : State) (u : SubId) (pool task i : Nat), live s = true → u.vrf < 2 ^ 14 → u.addr < 2 ^ 128 → pool < 4096 →
    subFind s u = some i → 0 < subBlocks (subRec s (subHome u) i) → subPool (subRec s (subHome u) i) ≠ pool →
    Completes (.portAllocate u.vrf u.v6 u.addr pool task) s (fun t => t.flo.tentative = s.flo.tentative ∧
      t.hbm = s.hbm ∧
      rd t (R.fltSvcCntCount (subHome u) 7) = (rd s (R.fltSvcCntCount (subHome u) 7) + 1) % 2 ^ 48)) ∧
  (∀ (s : State) (e : Nat) (x : TentS), live s = true → s.flo.tentative[e]? = some x → x.since + 20000 ≤ uptime s →
    Completes (.tentativePortExpire e) s (fun t => t.flo.tentative = s.flo.tentative.eraseIdx e ∧
      t.flo.lines = s.flo.lines)) ∧
  (∀ (s : State) (u : SubId) (index port i r p j m o : Nat), live s = true → u.vrf < 2 ^ 14 → u.addr < 2 ^ 128 →
    subFind s u = some i → r = subRec s (subHome u) i → p = poolEnt s (subPool r) →
    (List.range (subBlocks r)).find? (fun j => bits r (subBlk j) 20 == index &&
      decide (blockPort s p (bits r (subBlk j + 20) 10) ≤ port) &&
      decide (port < blockPort s p (bits r (subBlk j + 20) 10) + poolSize p)) = some j →
    m = bits r (subBlk j + 32) 20 → o = port - blockPort s p (bits r (subBlk j + 20) 10) →
    bit (mapBits s (subHome u) m) o = true → 2 ≤ bits r (subBlk j + 64) 13 → NoDead s (subHome u) →
    plainArea s (subHome u) (mapAddr s (subHome u) m) 512 = true →
    Completes (.portRelease u.vrf u.v6 u.addr index port) s (fun t =>
      mapBits t (subHome u) m = clrBit (mapBits s (subHome u) m) o ∧ t.flo = s.flo ∧
      rd t (R.fltSvcCntCount (subHome u) 4) = (rd s (R.fltSvcCntCount (subHome u) 4) + 1) % 2 ^ 48)) ∧
  (∀ (s : State) (q i : Nat), live s = true → q < 4 → listedSubs s q = [i] → bit (subRec s q i) 142 = true →
    subBlocks (subRec s q i) = 1 → holdOver s (subRec s q i) 0 = true →
    Completes (.subscriberVisit q) s (fun t =>
      t.flo.maps = s.flo.maps.filter (· != q * 2 ^ 20 + bits (subRec s q i) (subBlk 0 + 32) 20) ∧
      rd t (R.fltSvcCntCount q 6) = (rd s (R.fltSvcCntCount q 6) + 1) % 2 ^ 48))

/-- R177, R182, R183, R203: SVC_SET with the ring seed kept writes the service entry, and a service that no table
  entry has answers NO_ROOM; SVC_DELETE undefines it; BACKEND_SET to removal schedules a sweep, which starts 20 µs
  later and whose end frees the index. It rests on the model's readings in logs 28 and 34. -/
def Obligations.ServicesAndBackendsAreSet : Prop :=
  (∀ (s : State) (h : CmdHdr) (sv policy seed pool max base : Nat) (hp : Bool), live s = true → ByCore h →
    modeIn s commandModes = true → isCrew s = false → sv < 65536 → policy < 3 → max ≤ 4096 →
    (svcDefined (svcEnt s sv) = true → svcMax (svcEnt s sv) = max) → svcSeed (svcEnt s sv) = seed % 2 ^ 32 →
    (if svcDefined (svcEnt s sv) then some (svcBase (svcEnt s sv))
      else if max = 0 then some 0 else backendRun s (svcHome sv) max) = some base → NoDead s (svcHome sv) →
    plainArea s (svcHome sv) (svcAddr s sv) 32 = true →
    Completes (.svcSet h sv policy seed hp pool max) s (fun t => Answers h .ok [] t ∧
      svcEnt t sv = svcEntry (svcEnt s sv) policy seed hp pool max base)) ∧
  (∀ (s : State) (h : CmdHdr) (sv policy seed pool max : Nat) (hp : Bool), live s = true → ByCore h →
    modeIn s commandModes = true → isCrew s = false → 65536 ≤ sv → policy < 3 → max ≤ 4096 →
    Completes (.svcSet h sv policy seed hp pool max) s (fun t => Answers h .noRoom [] t ∧ t.hbm = s.hbm ∧
      Leaves [] s t)) ∧
  (∀ (s : State) (h : CmdHdr) (sv : Nat), live s = true → ByCore h → modeIn s commandModes = true →
    isCrew s = false → sv < 65536 → NoDead s (svcHome sv) → plainArea s (svcHome sv) (svcAddr s sv) 32 = true →
    (svcDefined (svcEnt s sv) = false ∨
      (List.range (svcMax (svcEnt s sv))).all (fun i => bkState (bkEnt s sv i) == 0) = true) →
    Completes (.svcDelete h sv) s (fun t => Answers h .ok [] t ∧ svcEnt t sv = clrBit (svcEnt s sv) 0)) ∧
  (∀ (s : State) (h : CmdHdr) (sv i addr port zone weight : Nat), live s = true → ByCore h →
    modeIn s commandModes = true → isCrew s = false → sv < 65536 → svcDefined (svcEnt s sv) = true →
    i < svcMax (svcEnt s sv) → (bkState (bkEnt s sv i) = 1 ∨ bkState (bkEnt s sv i) = 2) →
    s.flo.removal = [] →
    Completes (.backendSet h sv i addr false port zone weight 3) s (fun t => Answers h .ok [] t ∧
      t.flo.removal = [⟨sv, i, uptime s, [0, 0, 0, 0], false⟩]) ∧
    Completes (.backendSet h sv i addr false port zone weight 1) s (fun t => Answers h .ok [] t ∧
      t.flo = s.flo)) ∧
  (∀ (s : State) (h : CmdHdr) (sv i addr port zone weight want : Nat) (v6 : Bool), live s = true → ByCore h →
    modeIn s commandModes = true → isCrew s = false → sv < 65536 → svcDefined (svcEnt s sv) = true →
    i < svcMax (svcEnt s sv) → bkState (bkEnt s sv i) = 3 →
    Completes (.backendSet h sv i addr v6 port zone weight want) s (fun t => Answers h .busy [] t ∧
      t.hbm = s.hbm ∧ t.flo = s.flo)) ∧
  (∀ (s : State) (i : Nat) (w : RemovalS), live s = true → s.flo.removal[i]? = some w →
    (w.since + 20000 ≤ uptime s → Completes (.removalSweepStart i) s (fun t =>
      t.flo.removal = s.flo.removal.set i { w with started := true } ∧ Leaves [] s t ∧ t.hbm = s.hbm)) ∧
    (w.started = true → w.next.all (fun n => decide (recSlots s ≤ n)) = true → removalTasks s w = 0 →
      w.service < 65536 → NoDead s (svcHome w.service) →
      plainArea s (svcHome w.service) (bkAddr s w.service (svcBase (svcEnt s w.service) + w.backend)) 32 = true →
      Completes (.removalSweepEnd i) s (fun t => t.flo.removal = s.flo.removal.eraseIdx i ∧
        bkEnt t w.service w.backend = putBits (putBits (bkEnt s w.service w.backend) 144 2 0) 224 32 0)))

/-- R185, R196, R203: POOL_SET writes the pool and its addresses, or answers INVALID for a bad entry and NO_ROOM
  where no pool or address entry is left; POOL_CLEAR frees it, and ADM_SET writes a class with full buckets in every
  quadrant. It rests on the model's readings in logs 28 and 34. -/
def Obligations.PoolsAndClassesAreSet : Prop :=
  (∀ (s : State) (h : CmdHdr) (pool entry : Nat) (addrs : List Nat), live s = true → ByCore h →
    modeIn s commandModes = true → pool < 4096 →
    (poolOk s entry addrs = true → poolRoom s (poolEnt s pool) entry = true → poolBusy s (poolEnt s pool) = false →
      Completes (.poolSet h pool entry addrs) s (fun t => Answers h .ok [] t ∧
        mget t.flo.pools pool = some entry ∧
        ∀ i, i < addrs.length → mget t.flo.rewrite (poolFirst entry + i) = addrs[i]?)) ∧
    (poolOk s entry addrs = false → Completes (.poolSet h pool entry addrs) s (fun t => Answers h .invalid [] t ∧
      t.flo = s.flo ∧ t.hbm = s.hbm)) ∧
    (bit (poolEnt s pool) 0 = true → poolBusy s (poolEnt s pool) = false →
      Completes (.poolClear h pool) s (fun t => Answers h .ok [] t ∧ mget t.flo.pools pool = none ∧
        ∀ a, poolFirst (poolEnt s pool) ≤ a → a < poolFirst (poolEnt s pool) + poolCount (poolEnt s pool) →
          mget t.flo.rewrite a = none)) ∧
    (poolBusy s (poolEnt s pool) = true → Completes (.poolClear h pool) s (fun t => Answers h .busy [] t ∧
      t.flo = s.flo ∧ t.hbm = s.hbm))) ∧
  (∀ (s : State) (h : CmdHdr) (pool entry : Nat) (addrs : List Nat), live s = true → ByCore h →
    modeIn s commandModes = true → poolOk s entry addrs = true →
    4096 ≤ pool ∨ poolRoom s (poolEnt s pool) entry = false →
    Completes (.poolSet h pool entry addrs) s (fun t => Answers h .noRoom [] t ∧ t.flo = s.flo ∧ t.hbm = s.hbm)) ∧
  (∀ (s : State) (h : CmdHdr) (c rate burst : Nat), live s = true → ByCore h → modeIn s commandModes = true →
    c < 65536 → Completes (.admSet h c rate burst) s (fun t => Answers h .ok [] t ∧
      mget t.flo.adm c = some (rate % 2 ^ 32, burst % 2 ^ 16) ∧ Leaves [] s t ∧ t.hbm = s.hbm ∧
      ∀ q, q < 4 → mget t.flo.admTok (q * 65536 + c) = some (cdiv (burst % 2 ^ 16) 4 * 10 ^ 9 : Nat)))

/-- R197–R202: a latency sample that returns is added to its cached record's histogram, one that does not is freed; a
frame of export records takes them from the buffer and advances the sequence; templates, sent when due, advance it
with valid time.
It rests on the model's readings in logs 16, 22 and 28. -/
def Obligations.SamplesReturnAndExportsLeave : Prop :=
  (∀ (s : State) (q slot l ln : Nat) (x : SampS) (y : LineS), live s = true → q < 4 → slot < 4096 →
    mget s.flo.samples (q * 4096 + slot) = some x →
    (x.lat = some l → findLine s q x.key = some (ln, y) → mget s.flo.lines ln = some y → y.st ≠ .filling →
      fieldLe (sec s 7 0) 0 1 ≠ 1 → rd s R.fltTelCfgHistBaseNs ≠ 0 →
      Completes (.sampleReturn q slot) s (fun t => mget t.flo.samples (q * 4096 + slot) = none ∧
        mget t.flo.lines ln = some { y with
          st := .dirty, content := histAdd y.content (histBucket (rd s R.fltTelCfgHistBaseNs) l) } ∧
        rd t (R.fltSvcCntCount q 11) = (rd s (R.fltSvcCntCount q 11) + 1) % 2 ^ 48 ∧
        Leaves [R.fltSvcCntCount q 11] s t)) ∧
    (x.since + 10 ^ 6 ≤ uptime s → Completes (.sampleSlotExpire q slot) s (fun t =>
      mget t.flo.samples (q * 4096 + slot) = none ∧
      rd t (R.fltSvcCntCount q 12) = (rd s (R.fltSvcCntCount q 12) + 1) % 2 ^ 48 ∧ t.flo.lines = s.flo.lines ∧
      Leaves [R.fltSvcCntCount q 12] s t))) ∧
  (∀ (s : State) (q n : Nat) (e : Nat × Bool × List Byte) (es : List (Nat × Bool × List Byte)), live s = true →
    q < 4 → modeIn s [.load, .test, .safe] = true → exportOn s = true → mgetD s.flo.expBuf q [] = e :: es →
    e.1 + 10 ^ 8 ≤ uptime s →
    n = fitCount (rd s R.fltTelHdrCfgHdrLen) (rd s R.fltTelPortMtu) ((e :: es).map (·.2)) →
    (n ≠ 0 → Completes (.exportFrameBuild q) s (fun t => mgetD t.flo.expBuf q [] = (e :: es).drop n ∧
      rd t (R.fltTelSeqSeq q) = (rd s (R.fltTelSeqSeq q) + n) % 2 ^ 32)) ∧
    (n = 0 → Completes (.exportFrameBuild q) s (fun t => mgetD t.flo.expBuf q [] = es ∧
      rd t (R.fltSvcCntCount q 14) = (rd s (R.fltSvcCntCount q 14) + 1) % 2 ^ 48 ∧ t.cel = s.cel))) ∧
  (∀ (s : State) (q : Nat), live s = true → q < 4 → modeIn s [.load, .test, .safe] = true → exportOn s = true →
    templateDue s q = true → Completes (.templateSend q) s (fun t =>
      rd t (R.fltTelSeqSeq q) = (rd s (R.fltTelSeqSeq q) + if timeValid s then 1 else 0) % 2 ^ 32 ∧
      t.flo = { s.flo with tmplAt := mset s.flo.tmplAt q (uptime s) }))

/-! ### Clusters (chapter 14) -/

/-- R373, R375, R376: members send HEARTBEAT, one that arrives makes its peer live, and a newer acting Director's is
followed; a Crew sends JOIN, the Director answers it, and an accepted Crew is JOINED; a TIME message is passed on.
It rests on the model's readings in log 27. -/
def Obligations.MembersExchangeHeartbeats : Prop :=
  (∀ (s : State) (i : Nat), live s = true → inCluster s = true → CanSend s i →
    (rd s R.cluCfgHbMs ≠ 0 → Completes .heartbeatSend s (fun t => SentBolvis t i 0x01 (heartbeatBytes s).1 ∧
      t.clu.seqOut = s.clu.seqOut + 1)) ∧
    (actsCrew s = true → rdB s R.cluStatJoined = false → Completes .joinSend s (fun t =>
      SentBolvis t i 0x02 (toBe 1 (rd s R.cluStatDeputyId) ++ [0, 0, 0] ++ toBe 4 (rd s R.imgImageVerImageVer)))) ∧
    (∀ (port : Nat) (ptp : List Byte), actsDirector s = true ∨ (actsCrew s = true ∧ rd s R.cluStatDirectorId = i) →
      Completes (.time (some i) port ptp) s (fun t =>
      SentBolvis t i 0x04 (ptp.take 1024)))) ∧
  (∀ (s u : State) (port : Nat) (f : List Byte) (m : BMsg), live s = true →
    (Received s 0x01 port f m u → Completes (.heartbeat port f) s (fun t =>
      rd t (R.cluPeerState m.src) = 1 ∧ (peerOf t m.src).heard = uptime s ∧ (peerOf t m.src).hbBoot = some m.boot ∧
      (fieldBe m.payload 0 1 = 1 → rd s R.cluStatTerm < m.term → m.term < 2 ^ 32 →
        rd t R.cluStatTerm = m.term ∧ rd t R.cluStatActing = 2 ∧ rd t R.cluStatDirectorId = m.src))) ∧
    (Received s 0x02 port f m u → actsDirector u = true → CanSend u m.src →
      Completes (.join port f) s (fun t => SentBolvis t m.src 0x03
        (statusBytes (joinStatus u m) ++ [0, 0] ++ toBe 4 (rd s R.cluCommitActLastId)))) ∧
    (Received s 0x03 port f m u → actsCrew s = true → rd s R.cluStatTerm ≤ m.term → m.term < 2 ^ 32 →
      statusOf (fieldBe m.payload 0 2) = .ok → Completes (.joinAck port f) s (fun t =>
        rd t R.cluStatJoined = 1 ∧ rd t R.cluStatDirectorId = m.src ∧ rd t R.cluStatTerm = m.term)) ∧
    (Received s 0x04 port f m u → actsDirector s = true → Completes (.time none port f) s (fun t =>
      .coreInt "TIME" m.src ∈ t.sent ∧ t.tim = s.tim)))

/-- R375, R384, R385: a peer whose heartbeats stop is lost, and a Crew whose Director is lost shows it; its deputy
  then acts as Director under the TERM after the highest it knows, and the image Director that reclaims its role
  under the TERM after the acting one. It rests on the model's readings in logs 22 and 27. -/
def Obligations.RolesFollowLossAndTerm : Prop :=
  (∀ (s : State) (i : Nat), live s = true → inCluster s = true → i < 64 → peerLive s i = true →
    rd s R.cluCfgHbMs ≠ 0 → rd s R.cluCfgMissCount ≠ 0 →
    (peerOf s i).heard + rd s R.cluCfgMissCount * rd s R.cluCfgHbMs * 10 ^ 6 ≤ uptime s → Completes (.peerLost i) s (fun t =>
      rd t (R.cluPeerState i) = 2 ∧ .coreInt "PEER_LOST" i ∈ t.sent ∧
      (actsCrew s = true → rd s R.cluStatDirectorId = i →
        rd t R.cluStatDirLost = 1 ∧ rd t R.cluStatJoined = 0 ∧
        (rd s R.timStatState = 1 → rd s R.timStatSource = 3 → rd s R.timCfgHoldS ≠ 0 → rd t R.timStatState = 2)))) ∧
  (∀ s : State, live s = true → actsCrew s = true → rd s R.cluStatDeputyId = deviceId s →
    rdB s R.cluStatDirLost = true → modeIn s [.serve, .splice, .safe] = true →
    Completes .deputyTakeover s (fun t => rd t R.cluStatActing = 1 ∧ rd t R.cluStatDirectorId = deviceId s % 64 ∧
      rd t R.cluStatTerm = (knownTerm s + 1) % 2 ^ 32 ∧ rd t R.cluStatDirLost = 0)) ∧
  (∀ (s : State) (h : CmdHdr), live s = true → ByCore h → modeIn s commandModes = true →
    (rd s R.cluStatRole = 1 → Completes (.cluReclaim h) s (fun t => Answers h .ok [] t ∧
      rd t R.cluStatActing = 1 ∧ rd t R.cluStatTerm = (rd s R.cluStatTerm + 1) % 2 ^ 32 ∧ rest t = rest (holdAnswer s
        h none .ok []))) ∧
    (rd s R.cluStatRole ≠ 1 → Completes (.cluReclaim h) s (fun t => Answers h .invalid [] t ∧ Leaves [] s t)) ∧
    (∀ id, rd s R.cluStatRole ≠ 0 → id < 64 → (rd s R.cluStatActing ≠ 2 ∨ id ≠ deviceId s) →
      Completes (.cluDeputySet h id) s (fun t => Answers h .ok [] t ∧ rd t R.cluStatDeputyId = id ∧
        Leaves [R.cluStatDeputyId] s t)) ∧
    (∀ (i addr mac port : Nat), rd s R.cluStatRole ≠ 0 → i < 64 → i ≠ deviceId s →
      (isBolvis s port = true → port < 1024 → mac < 2 ^ 48 → Completes (.cluPeerSet h i addr mac port false) s
        (fun t => Answers h .ok [] t ∧ rd t (R.cluPeerValid i) = 1 ∧ rd t (R.cluPeerMac i) = mac ∧
          rd t (R.cluPeerPort i) = port ∧ peerAddr t i = addr % 2 ^ 128)) ∧
      Completes (.cluPeerSet h i addr mac port true) s (fun t => Answers h .ok [] t ∧ rd t (R.cluPeerValid i) = 0 ∧
        rd t (R.cluPeerState i) = 0)))

/-- R377: a Crew copies the next version of a service and its ring slots, and asks for the service when it has
  missed one; the Director answers with the whole service, and the copy is whole again when its ring slots have
  followed in turn. It rests on the model's readings in logs 27 and 48. -/
def Obligations.RingsFollowTheDirector : Prop :=
  ∀ (s u : State) (port : Nat) (f : List Byte) (m : BMsg) (sv : Nat), live s = true →
    sv = fieldBe m.payload 0 2 →
    (Received s 0x05 port f m u → fromDirector u m = true →
      (fieldBe m.payload 4 4 = (ringVer s sv + 1) % 2 ^ 32 ∨ sv ∈ s.clu.missed → fieldBe m.payload 0x28 1 = 0 →
        NoDead s (svcHome sv) → plainArea s (svcHome sv) (svcAddr s sv) 32 = true →
        Completes (.svc port f) s (fun t =>
          ringVer t sv = fieldBe m.payload 4 4 ∧ svcEnt t sv = fieldLe m.payload 8 32 ∧
          t.clu.missed = s.clu.missed ∧ (sv ∈ s.clu.missed → mget t.clu.resync sv = some 0))) ∧
      (fieldBe m.payload 4 4 ≠ (ringVer s sv + 1) % 2 ^ 32 → sv ∉ s.clu.missed → CanSend u m.src →
        Completes (.svc port f) s (fun t => sv ∈ t.clu.missed ∧ t.hbm = s.hbm ∧
          SentBolvis t m.src 0x07 (toBe 2 sv ++ [0, 0])))) ∧
    (Received s 0x06 port f m u → fromDirector u m = true → fieldBe m.payload 4 4 = ringVer s sv →
      sv ∉ s.clu.missed ∨ mget s.clu.resync sv = some (fieldBe m.payload 2 2) → NoDead s (svcHome sv) →
      plainArea s (svcHome sv) (ringBase s sv) 131072 = true → Completes (.ring port f) s (fun t =>
        (sv ∈ s.clu.missed →
          if fieldBe m.payload 2 2 + min 500 (fieldBe m.payload 8 2) < 65536 then
            sv ∈ t.clu.missed ∧
              mget t.clu.resync sv = some (fieldBe m.payload 2 2 + min 500 (fieldBe m.payload 8 2))
          else sv ∉ t.clu.missed) ∧
        ∀ k, k < 500 → k < fieldBe m.payload 8 2 → fieldBe m.payload 2 2 + k < 65536 →
          ringSlot t sv (fieldBe m.payload 2 2 + k) = fieldBe m.payload (0x0C + 2 * k) 2)) ∧
    (Received s 0x07 port f m u → actsDirector u = true → sv ≠ 0xFFFF → ∀ i, CanSend u i →
      Completes (.resync port f) s (fun t => t.hbm = s.hbm ∧ SentBolvis t i 0x05 (svcBytes u sv
        ((List.range (svcMax (svcEnt u sv))).filter (fun j => bkState (bkEnt u sv j) != 0)))))

/-- R378: a LEASE is held until its expiry, one with REMAIN_MS 0 ends every lease on its range; the Director renews
  the leases of its grants, the deputy records those it is told of, and leases whose time has come end. It rests on
  the model's readings in log 27. -/
def Obligations.LeasesAreHeldAndRenewed : Prop :=
  (∀ (s u : State) (port : Nat) (f : List Byte) (m : BMsg), live s = true → fromDirector u m = true →
    (Received s 0x08 port f m u →
      (fieldBe m.payload 12 4 ≠ 0 → Completes (.lease port f) s (fun t =>
        (⟨fieldBe m.payload 0 2, fieldBe m.payload 4 4, fieldBe m.payload 8 4,
          uptime s + fieldBe m.payload 12 4 * 10 ^ 6⟩ : HeldS) ∈ t.clu.held)) ∧
      (fieldBe m.payload 12 4 = 0 → Completes (.lease port f) s (fun t => ∀ x ∈ t.clu.held,
        x.pool = fieldBe m.payload 0 2 → x.first + x.count ≤ fieldBe m.payload 4 4 ∨
          fieldBe m.payload 4 4 + fieldBe m.payload 8 4 ≤ x.first))) ∧
    (Received s 0x09 port f m u → rd s R.cluStatDeputyId = deviceId s → Completes (.leaseSync port f) s (fun t =>
      (⟨fieldBe m.payload 0 2, fieldBe m.payload 4 4, fieldBe m.payload 8 4, fieldBe m.payload 12 1 % 64,
        fieldBe m.payload 16 4, uptime s + 11 * 10 ^ 9, fieldBe m.payload 20 8⟩ : LeaseS) ∈ t.clu.leases))) ∧
  (∀ (s : State) (pool first n d : Nat), live s = true → actsDirector s = true → d < 64 → d ≠ deviceId s →
    s.clu.grants = [⟨pool, first, n, 2 ^ d⟩] → mayGrant s d = true → CanSend s d →
    Completes .leaseRenew s (fun t => SentBolvis t d 0x08 (leaseBytes pool first n 10000) ∧
      t.clu.grants = s.clu.grants)) ∧
  (∀ s : State, live s = true → s.clu.held.any (fun x => decide (x.expiry ≤ uptime s)) = true →
    Completes .leaseExpire s (fun t => t.clu.held = s.clu.held.filter (fun x => decide (uptime s < x.expiry)) ∧
      rd t (R.cluCntCount 8) = (rd s (R.cluCntCount 8) +
        (s.clu.held.filter (fun x => decide (x.expiry ≤ uptime s))).length) % 2 ^ 48)) ∧
  (∀ (s : State) (h : CmdHdr) (pool first count mask : Nat), live s = true → ByCore h →
    modeIn s commandModes = true → actsDirector s = true → pool < 4096 → bit (poolEnt s pool) 0 = true →
    poolFirst (poolEnt s pool) ≤ first → first + count ≤ poolFirst (poolEnt s pool) + poolCount (poolEnt s pool) →
    0 < count → 0 < mask → mask < 2 ^ 64 → Completes (.cluLeaseSet h pool first count mask) s (fun t =>
      Answers h .ok [] t ∧ (⟨pool, first, count, mask⟩ : GrantS) ∈ t.clu.grants))

/-- R382, R383: CLU_COMMIT starts a cluster commit and its answer waits; the Director decides when every Crew has
  voted or at the deadline, and repeats GO until it is acknowledged; a Crew votes on PREPARE, arms on GO and cancels
  on ABORT or at its own deadline. It rests on the model's readings in log 27. -/
def Obligations.ClusterCommitsDecide : Prop :=
  (∀ (s : State) (h : CmdHdr) (at_ : Nat), live s = true → ByCore h → modeIn s commandModes = true →
    rd s R.cluStatRole ≠ 0 → actsDirector s = true → s.clu.commit = none → s.take.timed = none →
    timeValid s = true → at_ < 2 ^ 32 → 1000000 ≤ nsDiff at_ (nowNs s) → nsDiff at_ (nowNs s) < 2 ^ 31 →
    livePeers s ≠ [] → Completes (.cluCommit h true at_) s (fun t => rd t R.cluCommitStatPhase = 1 ∧
      t.take.timed = some at_ ∧ t.take.cluster = true ∧ mget t.host.responseDue h.mbx = none ∧
      t.clu.commit = some ⟨(rd s R.cluCommitActLastId + 1) % 2 ^ 32, at_, livePeers s, [], false, [],
        slice h.body 0 32, h.mbx, none⟩)) ∧
  (∀ (s : State) (c : CommitS), live s = true → s.clu.commit = some c →
    (c.go = false → pastLead s c.tAct 600 = true → allVoted c = false → c.votes.all (fun v => v.2 == .ok) = true →
      Completes .voteDeadline s (fun t => t.clu.commit = none ∧ rd t R.cluCommitStatPhase = 5 ∧
        rdStat t R.cluCommitStatStatus = .aborted ∧ (s.take.timed.isSome → t.take.timed = none))) ∧
    (c.go = true → pastLead s c.tAct 100 = false → ∀ i ∈ c.crew, i ∉ c.acked → CanSend s i →
      Completes .goRepeat s (fun t => SentBolvis t i 0x0C (toBe 4 c.id) ∧ t.clu.commit = some c)) ∧
    (∀ (u : State) (port : Nat) (f : List Byte) (m : BMsg), fieldBe m.payload 0 4 = c.id → m.src ∈ c.crew →
      (Received s 0x0B port f m u → c.go = false → (∀ v ∈ c.votes, v.1 ≠ m.src) →
        (∃ i ∈ c.crew, i ≠ m.src ∧ ∀ v ∈ c.votes, v.1 ≠ i) → Completes (.vote port f) s (fun t =>
          t.clu.commit = some { c with votes := c.votes ++ [(m.src, statusOf (fieldBe m.payload 4 2))] })) ∧
      (Received s 0x0B port f m u → c.go = false → c.crew = [m.src] → c.votes = [] →
        statusOf (fieldBe m.payload 4 2) = .ok → Completes (.vote port f) s (fun t =>
          rd t R.cluCommitStatPhase = 3 ∧ rdStat t R.cluCommitStatStatus = .ok ∧
          t.clu.commit = some { c with votes := [(m.src, .ok)], go := true })) ∧
      (Received s 0x0D port f m u → m.src ∉ c.acked → Completes (.goAck port f) s (fun t =>
        t.clu.commit = some { c with acked := c.acked ++ [m.src] })))) ∧
  (∀ (s u : State) (port : Nat) (f : List Byte) (m : BMsg), live s = true → fromDirector u m = true →
    (Received s 0x0A port f m u → s.take.cluster = false → CanSend u m.src →
      (commitTimed u (fieldBe m.payload 4 4) true).status = .ok → Completes (.prepare port f) s (fun t =>
        rd t R.cluCommitStatPhase = 2 ∧ rd t R.cluCommitStatCommitId = fieldBe m.payload 0 4 ∧
        t.take.timed = some (fieldBe m.payload 4 4) ∧ t.take.cluster = true ∧
        SentBolvis t m.src 0x0B (toBe 4 (fieldBe m.payload 0 4) ++ statusBytes .ok))) ∧
    (Received s 0x0C port f m u → crewCommit u (fieldBe m.payload 0 4) 2 = true →
      (pastLead u (rd s R.cluCommitActTAct) 100 = false → CanSend u m.src → Completes (.go port f) s (fun t =>
        rd t R.cluCommitStatPhase = 3 ∧ t.take = s.take ∧
        SentBolvis t m.src 0x0D (toBe 4 (fieldBe m.payload 0 4)))) ∧
      (pastLead u (rd s R.cluCommitActTAct) 100 = true → s.take.timed.isSome = true →
        Completes (.go port f) s (fun t => t.take.timed = none ∧ rd t R.cluCommitStatPhase = 5))) ∧
    (Received s 0x0E port f m u → crewCommit u (fieldBe m.payload 0 4) 2 = true → s.take.timed.isSome = true →
      Completes (.abort port f) s (fun t => t.take.timed = none ∧ t.take.cluster = false ∧
        rd t R.cluCommitStatPhase = 5 ∧ rdStat t R.cluCommitStatStatus = .aborted))) ∧
  (∀ s : State, live s = true → s.take.cluster = true → rd s R.cluCommitStatPhase = 2 →
    pastLead s (rd s R.cluCommitActTAct) 100 = true → s.take.timed.isSome = true →
    Completes .crewGoDeadline s (fun t => t.take.timed = none ∧ t.take.cluster = false ∧
      rd t R.cluCommitStatPhase = 5))

/-- R374, R381: a key roll is pending until T_SWITCH or until time is invalid, when the epoch changes, at once without
valid time; a STEER frame of the own cluster
enters as its inner frame, and one of another cluster is discarded and counted.
It rests on the model's readings in logs 12 and 27. -/
def Obligations.EpochsRollAndFramesAreSteered : Prop :=
  (∀ (s u : State) (port : Nat) (f : List Byte) (m : BMsg), live s = true → Received s 0x0F port f m u →
    fromDirector u m = true → Completes (.keyRoll port f) s (fun t => rd t R.cluKeySwitchAt = fieldBe m.payload 4 4 ∧
      (timeValid s = true → rd t R.cluKeyRollPend = 1 ∧ t.clu.rollTo = fieldBe m.payload 0 1 ∧
        rd t R.cluKeyEpoch = rd s R.cluKeyEpoch) ∧
      (timeValid s = false → rd t R.cluKeyRollPend = 0 ∧ rd t R.cluKeyEpoch = fieldBe m.payload 0 1))) ∧
  (∀ s : State, live s = true → rdB s R.cluKeyRollPend = true →
    reached s (rd s R.cluKeySwitchAt) = true ∨ timeValid s = false →
    Completes .keySwitch s (fun t => rd t R.cluKeyEpoch = s.clu.rollTo % 2 ^ 8 ∧ rd t R.cluKeyRollPend = 0 ∧
      Leaves [R.cluKeyEpoch, R.cluKeyRollPend] s t ∧ rest t = rest s)) ∧
  (∀ (s : State) (h : CmdHdr) (epoch at_ : Nat), live s = true → ByCore h → modeIn s commandModes = true →
    rd s R.cluStatRole ≠ 0 → actsDirector s = true → epoch < 256 → slotLoaded s (cluSlot epoch) = true →
    timeValid s = true → Completes (.cluKeyRoll h epoch at_) s (fun t => Answers h .ok [] t ∧
      rd t R.cluKeyRollPend = 1 ∧ rd t R.cluKeySwitchAt = at_ % 2 ^ 32 ∧ t.clu.rollTo = epoch)) ∧
  (∀ (s u : State) (p : Nat) (b : List Byte) (align : Nat) (w : Bool), live s = true → p < 512 →
    isBolvis s p = true → portUp s p = true → mode s = .safe → (rxOf s p).frame.isNone = true →
    (rxOf s p).discard = false → diverted s p b = true → bhVer b = 1 → bhType b = 0x20 → b.length ≤ frameMax s p →
    u = countBytes (bump s (R.ctrPortCount p 0)) p b.length →
    (bhCluster b ≠ rd s R.cluStatClusterId → Completes (.steer p b align w) s (fun t => t.cel = s.cel ∧
      rd t (R.cluCntCount 10) = (rd s (R.cluCntCount 10) + 1) % 2 ^ 48)) ∧
    (bhCluster b = rd s R.cluStatClusterId → bolvisFrom s p b = true → b.length = 98 + bhLen b →
      Completes (.steer p b align w) s (fun t => t.cel = (steerIn (bump u (R.cluCntCount 9)) p b align w).cel)))

/-! ### Cells, queues and packets (chapters 3, 4 and 9) -/

/-- R240, R243, R246, R247, R260, R494: the first bytes of a frame take a cell and begin it, further bytes take the
  next one, a good end closes it and frees the MAC, a bad FCS or a stop of the input drops it. It rests on the
  model's readings in logs 9 (which cell), 12 and 32. -/
def Obligations.FramesArriveInCells : Prop :=
  (∀ (s : State) (p pool c o : Nat) (b : List Byte) (align : Nat) (clean : Bool), live s = true → p < 512 →
    (portDecl s p).isSome = true → portUp s p = true → carries s = true → rxOf s p = ⟨none, false, 0, false⟩ →
    b ≠ [] → b.length ≤ 192 → diverted s p b = false → b.length ≤ frameMax s p →
    c = ownerClass s p b → o = 4 * p + c → choosePool s (portQuad p) c = some pool →
    grants s (portQuad p) pool o (cellUnits pool) = true →
    (pool = 1 →
      cellDescAt s (pickCell s pool (portQuad p)) + 16 ≤ cellDataAt s (pickCell s pool (portQuad p))) →
    Completes (.frameStart p b align clean) s (fun t =>
      rxOf t p = ⟨some (pickCell s pool (portQuad p)), false, b.length, false⟩ ∧
      (mget t.cel.cells (pickCell s pool (portQuad p))).map (·.data) = some b ∧
      (∃ f, mget t.cel.frames (pickCell s pool (portQuad p)) = some f ∧ f.inPort = p ∧ f.len = b.length ∧
        f.phase = .arriving ∧ f.pool = pool ∧ f.owner = o ∧ f.ended = false) ∧
      rd t (R.ctrPortCount p 0) = (rd s (R.ctrPortCount p 0) + 1) % 2 ^ 48)) ∧
  (∀ (s : State) (p h : Nat) (b : List Byte) (f : FrameS) (c : CellS), live s = true → p < 512 →
    (rxOf s p).discard = false → (rxOf s p).frame = some h → b ≠ [] → b.length ≤ 256 →
    (rxOf s p).bytes + b.length ≤ frameMax s p → mget s.cel.frames h = some f → mget s.cel.cells f.last = some c →
    f.pool = 0 → freeCount s 0 f.quad ≠ 0 → grants s f.quad 0 f.owner 1 = true →
    Completes (.cellWrite p b) s (fun t =>
      mget t.cel.frames h = some { f with last := pickCell s 0 f.quad, len := f.len + b.length } ∧
      (mget t.cel.cells (pickCell s 0 f.quad)).map (·.data) = some b ∧
      rxOf t p = { rxOf s p with bytes := (rxOf s p).bytes + b.length })) ∧
  (∀ (s u : State) (p h : Nat) (b : List Byte) (f : FrameS) (w : Bool), live s = true → p < 512 →
    (rxOf s p).discard = false → (rxOf s p).frame = some h → b.length ≤ 256 →
    (rxOf s p).bytes + b.length ≤ frameMax s p → 64 ≤ (rxOf s p).bytes + b.length →
    u = (if b = [] then countBytes s p b.length else addCell (countBytes s p b.length) h b) →
    mget u.cel.frames h = some f → f.abortUnsent = 0 → f.phase = .arriving → f.copies = [] →
    (fcsGood (frameBytes u h) = true → Completes (.frameEnd p b w) s (fun t =>
      mget t.cel.frames h = some { f with ended := true, writer := false } ∧ rxOf t p = ⟨none, false, 0, false⟩)) ∧
    (fcsGood (frameBytes u h) = false → Completes (.frameEnd p b w) s (fun t =>
      mget t.cel.frames h = none ∧
      rd t (R.ctrReasonCount 1) = (rd u (R.ctrReasonCount 1) + 1) % 2 ^ 48))) ∧
  (∀ (s : State) (p h : Nat) (f : FrameS), live s = true → p < 512 → (rxOf s p).frame = some h →
    mget s.cel.frames h = some f → f.phase = .arriving → f.copies = [] →
    Completes (.inputStop p) s (fun t => mget t.cel.frames h = none ∧ rxOf t p = ⟨none, false, 0, true⟩ ∧
      rd t (R.pwrPortState p) = (if portUp s p then 3 else rd s (R.pwrPortState p))))

/-- R76, R247, R259: the ingress section of a frame whose parser has every byte it needs. A frame that the parser
  drops is freed and counted under reason 0x04. Any other frame runs its pipe's stages and flow stage on the parsed
  bus, a PTP event frame with its receive record kept; where an error on the way takes the device from priority mode
  to flags mode, its tasks are stopped (R230). Where the program has no stages and the bus names one port and no
  mirror, an ended frame gets one copy, to the bus's EGRESS and QUEUE, which joins that queue where it has room. A
  frame whose parser still waits for bytes keeps waiting. It rests on the model's readings in logs 11, 32 and 40. -/
def Obligations.PacketsRunTheIngressSection : Prop :=
  ∀ (s : State) (head ecc : Nat) (w : Bool) (f : FrameS) (pr : ProgS) (r : ParseS), live s = true →
    carries s = true → mget s.cel.frames head = some f → f.phase = .arriving → f.abortUnsent = 0 →
    bit (rd s R.pwrParkParked) f.quad = false → pr = progOf s f.quad (pipeOf s f.inPort) →
    r = (parsePacket s pr.parser head f).1 →
    (parseReady r f.ended (frameBytes s head) = false →
      Completes (.packetIngress head ecc w) s (fun t => t = finish s s)) ∧
    (parseReady r f.ended (frameBytes s head) = true →
      (r.drop = true → Completes (.packetIngress head ecc w) s (fun t => mget t.cel.frames head = none ∧
        rd t (R.ctrReasonCount 4) = (rd s (R.ctrReasonCount 4) + 1) % 2 ^ 48 ∧ t.flo = s.flo ∧ t.tab = s.tab)) ∧
      (∀ (k : Nat) (n : NodeS), r.drop = false → pr.stages = [] → busPtp r.bus = false → busDisp r.bus = 0 →
        busMirror r.bus = 0 → busSched r.bus = false → bits r.bus (replPos s) 16 = 0 → busEgress r.bus < 512 →
        mget s.pipe.hand f.quad = none → f.ended = true → mode s = .serve → mget s.tim.rsv (busQueue r.bus) = none →
        queueNode s (busQueue r.bus) = some k → mget s.cel.nodes k = some n → n.units < n.f10 % 2 ^ 27 →
        rdB s (R.pwrPortPd (busEgress r.bus)) = false →
        Completes (.packetIngress head ecc w) s (fun t => t.tab = s.tab ∧
          (mget t.cel.frames head).map (fun g => (g.phase, g.copies, g.bus, g.pipe)) =
            some (.done, [head], r.bus, pipeOf s f.inPort) ∧
          (mget t.cel.copies head).map (fun c => (c.head, c.port, c.queue, c.st, c.mirror)) =
            some (head, busEgress r.bus, busQueue r.bus, .queued, false) ∧
          (mget t.cel.nodes k).map (·.frames) = some (n.frames ++ [head]))) ∧
      (∀ (x : Option Nat × State) (v u : State), r.drop = false →
        x = samplePacket (parsePacket s pr.parser head f).2 f.quad f.inPort →
        v = countParse (updFrame x.2 head (fun f =>
          { f with pipe := pipeOf s f.inPort, bus := r.bus, ipid := r.ipid, lastState := r.last, sel := x.1 }))
          f.quad (pipeOf s f.inPort) r.bus →
        u = runSection (if busPtp r.bus then storeRx v head f else v) head f.quad r.bus ecc w pr →
        Completes (.packetIngress head ecc w) s (fun t =>
          t.cel = (if dispMode s = 1 ∧ dispMode u = 2 then toFlagsMode u else u).cel ∧
          t.flo = (if dispMode s = 1 ∧ dispMode u = 2 then toFlagsMode u else u).flo ∧
          t.eng = (if dispMode s = 1 ∧ dispMode u = 2 then toFlagsMode u else u).eng ∧
          t.tab = (if dispMode s = 1 ∧ dispMode u = 2 then toFlagsMode u else u).tab)))

/-- R240, R256, R257, R276: a port selects the copy its tree gives, and the copy leaves: its bytes with a new FCS, the
port free again and the copy gone; the head scan drops an expired head.
It rests on the model's readings in logs 12, 31 and 32. -/
def Obligations.CopiesAreSelectedAndSent : Prop :=
  (∀ (s u : State) (p cp : Nat) (hurt : List Byte) (c : CopyS), live s = true → canAccept s p = true →
    selectHead p (s.cel.copies.length + 1) hurt (earnAll s p) = (some cp, u) → mget u.cel.copies cp = some c →
    Completes (.schedulerSelect p hurt) s (fun t => mget t.cel.tx p = some cp ∧
      mget t.cel.copies cp = some { c with st := .sending, port := p, selNs := nowNs u })) ∧
  (∀ (s : State) (q k cp : Nat) (n : NodeS) (c : CopyS), live s = true → q < 4 →
    s.cel.nodes.filter (fun e => e.2.level == 3 && e.2.frames != [] && nodePg e.1 % 64 / 16 == q) = [(k, n)] →
    mget s.cel.nodes k = some n → n.frames = [cp] → mget s.cel.copies cp = some c → expired s n c = true →
    abortCode s c = 0 → queueNode s c.queue = some k → c.port < 552 →
    Completes (.headScan q) s (fun t => mget t.cel.copies cp = none ∧
      rd t (R.queCntCount (portQuad c.port) 3) = (rd s (R.queCntCount (portQuad c.port) 3) + 1) % 2 ^ 48)) ∧
  (∀ (s : State) (p cp align : Nat) (out : Option (List Byte)) (c : CopyS) (f : FrameS) (b : List Byte),
    live s = true → p < 512 → mget s.cel.tx p = some cp → mget s.cel.copies cp = some c →
    mget s.cel.frames c.head = some f → c.dropAs = 0 → f.abortUnsent = 0 → f.ended = true → c.port < 552 →
    (f.pool = 1 → (cellsIn s (frameCells s c.head) 0).1 = none) →
    b = (if c.mirror then mirrorForm c.trunc (body (frameBytes s c.head))
      else egressBody s c out (body (frameBytes s c.head))) →
    (((portDecl s p).map (·.bolvis)).getD false = false ∨ b.length + 4 ≤ frameMax s p) →
    Completes (.egressSend p 0 out 0 align) s (fun t => .frame p (b ++ fcsOf b) false ∈ t.sent ∧
      mget t.cel.tx p = none ∧ mget t.cel.copies cp = none ∧
      rd t (R.ctrPortCount c.port 2) = (rd s (R.ctrPortCount c.port 2) + 1) % 2 ^ 48))

/-- R247, R248: a release by a copy that is being sent frees it, and its chain where it was the frame's only one; an
  early release changes nothing and is counted; CEL_FREE frees a chain that nothing uses. It rests on the model's
  readings in log 32. -/
def Obligations.ChainsAreReleasedAndFreed : Prop :=
  (∀ (s : State) (head cp : Nat) (e : CellS) (f : FrameS) (c : CopyS), live s = true →
    mget s.cel.cells head = some e → mget s.cel.frames head = some f → mget s.cel.copies cp = some c →
    c.head = head →
    (c.st = .sending → Completes (.chainRelease head false cp) s (fun t => mget t.cel.copies cp = none ∧
      mget t.cel.tx c.port = none ∧ (cp = head → mget t.cel.frames head = none))) ∧
    (c.st ≠ .sending → Completes (.chainRelease head false cp) s (fun t => t.cel = s.cel ∧
      rd t (R.celCntCount (ptrQuad head) 5) = (rd s (R.celCntCount (ptrQuad head) 5) + 1) % 2 ^ 48 ∧
      Leaves [R.celCntCount (ptrQuad head) 5] s t))) ∧
  (∀ (s : State) (r q ptr : Nat) (c : CellS), live s = true → isCore r = true → q < 4 → ptr < 2 ^ 28 →
    (ptrIndex ptr < poolCells s (ptrPool ptr) (ptrQuad ptr) → inUse s ptr = false →
      mget s.cel.cells ptr = some c → c.eof = true → Completes (.celFree r q ptr) s (fun t =>
        mget t.cel.cells ptr = none ∧ rdStat t (R.celFreeStatus q) = .ok ∧ t.cel.frames = s.cel.frames)) ∧
    (ptrIndex ptr < poolCells s (ptrPool ptr) (ptrQuad ptr) → inUse s ptr = true →
      Completes (.celFree r q ptr) s (fun t => t.cel = s.cel ∧ rdStat t (R.celFreeStatus q) = .busy)) ∧
    (poolCells s (ptrPool ptr) (ptrQuad ptr) ≤ ptrIndex ptr → Completes (.celFree r q ptr) s (fun t =>
      t.cel = s.cel ∧ rdStat t (R.celFreeStatus q) = .invalid ∧ Leaves [R.celFreePtr q] s t)))

/-- R253, R258: while the splice runs, a port moves to its group's new tree between frames, and the last port ends the
change; REPL_SET writes a
group's members into a free run, and the old run is freed 2 µs later.
It rests on the model's readings in logs 9 (which run) and 31. -/
def Obligations.TreesSwitchAndGroupsAreSet : Prop :=
  (∀ (s : State) (p g : Nat) (x : ShadowS), live s = true → mode s = .splice →
    s.cel.toSwitch.find? (fun e => e.2.contains p) = some (g, [p]) → mget s.cel.toSwitch g = some [p] →
    mget s.cel.shadow g = some x → mget s.cel.tx p = none → x.ver < 2 ^ 32 →
    Completes (.portTreeSwitch p) s (fun t => mget t.cel.shadow g = none ∧
      mget t.cel.toSwitch g = none ∧ rd t (R.imgRegionVerVer (64 + g)) = x.ver ∧
      rd t (R.quePgStatPending (g / 16) (g % 16)) = 0 ∧ t.cel.nodes = (switchPort s x p).cel.nodes ∧
      t.cel.copies = s.cel.copies)) ∧
  (∀ (s : State) (p : Nat), live s = true → mode s ≠ .splice →
    Completes (.portTreeSwitch p) s (fun t => t = finish s s)) ∧
  (∀ (s : State) (h : CmdHdr) (g : Nat) (ms : List (Nat × Nat × Bool)), live s = true → ByCore h →
    modeIn s commandModes = true → 0 < g → g < 65536 → ms ≠ [] → ms.length ≤ 4096 →
    (∀ m ∈ ms, m.1 < 1024 ∧ m.2.1 < 2 ^ 21) →
    (∀ a, freeRun s ms.length = some a → Completes (.replSet h g ms) s (fun t => Answers h .ok [] t ∧
      mget t.cel.replGroup g = some (a, ms.length) ∧ Leaves [] s t ∧
      ∀ i, i < ms.length → mget t.cel.replMember (a + i) = (ms[i]?).map (fun m => ⟨m.1, m.2.1, m.2.2⟩))) ∧
    (freeRun s ms.length = none → Completes (.replSet h g ms) s (fun t => Answers h .noRoom [] t ∧
      t.cel = s.cel ∧ Leaves [] s t))) ∧
  (∀ s : State, live s = true → Completes .replRunFree s (fun t =>
    t.cel.replOld = s.cel.replOld.filter (fun e => decide (uptime s < e.2.2 + 2000)) ∧
    t.cel.replGroup = s.cel.replGroup ∧ Leaves [] s t))

/-! ### External memory (chapter 11) -/

/-- R297, R299, R300, R303–R306: a read that meets no poisoned granule and no disturbance answers the stack's bytes,
  and one that a queued write still answers is counted as forwarded; a write stores its bytes and no others, keeps
  the memory's form and clears the mark of a granule it covers; a fetch-add and a compare-and-swap answer the old
  value; a granule that reads clean at its re-read is answered and counted; one that fails twice is answered
  poisoned and sets code 20. It rests on the model's readings in logs 8, 32 and 44. -/
def Obligations.MemoryRequestsAreServed : Prop :=
  (∀ (s : State) (q sh a len h req : Nat) (data : List Byte) (fw : Bool) (first again : List (Nat × Nat)),
    live s = true → q < 4 → memServes s q = true → a < hbmU s q → badRange s q a len = false →
    (first = [] → Completes (.hbmRequest q ⟨sh, req, h⟩ 0 a len data fw first again) s (fun t =>
      .memAnswer q a (hbmPeek s q a len) false ∈ t.sent ∧ t.hbm.mem = s.hbm.mem ∧ t.hbm.poison = s.hbm.poison ∧
      rd t (R.hbmCntCount q 0) = (rd s (R.hbmCntCount q 0) + 1) % 2 ^ 48 ∧
      Leaves [R.hbmCntCount q 0, R.hbmCntCount q 2] s t ∧
      (pageHint s ⟨sh, req, h⟩ q = 1 → mget t.hbm.rows (bankKey s q a) = none) ∧
      (pageHint s ⟨sh, req, h⟩ q ≠ 1 → ∃ r, mget t.hbm.rows (bankKey s q a) = some r ∧
        r.row = Config.hbmRow (rowBlk a) ∧ r.last = uptime s))) ∧
    (fw = true → queuedRange s q a len = true → Completes (.hbmRequest q ⟨sh, req, h⟩ 0 a len data fw first again) s (fun t =>
      .memAnswer q a (hbmPeek s q a len) false ∈ t.sent ∧
      rd t (R.hbmCntCount q 2) = (rd s (R.hbmCntCount q 2) + 1) % 2 ^ 48))) ∧
  (∀ (s : State) (q sh a len h req : Nat) (data : List Byte) (fw : Bool), live s = true → q < 4 →
    memServes s q = true → a < hbmU s q → NoDead s q → rd s (R.hbmErrStatNext q) < 64 →
    Completes (.hbmRequest q ⟨sh, req, h⟩ 1 a len data fw [] []) s (fun t =>
      (plainArea s q a data.length = true → hbmPeek t q a data.length = data) ∧
      (∀ x, x < hkey q a ∨ hkey q a + data.length ≤ x → memGet t.hbm.mem x = memGet s.hbm.mem x) ∧
      (MemCanonical s → MemCanonical t) ∧
      (a % 64 = 0 → data.length = 64 → marked t q (a / 64) = false) ∧
      rd t (R.hbmCntCount q 1) = (rd s (R.hbmCntCount q 1) + 1) % 2 ^ 48)) ∧
  (∀ (s : State) (q sh a len h req old : Nat) (data : List Byte) (fw : Bool), live s = true → q < 4 →
    memServes s q = true → a < hbmU s q → NoDead s q → badRange s q a 8 = false → plainArea s q a 8 = true →
    old = leNat (memRead s.hbm.mem (hkey q a) 8) →
    Completes (.hbmRequest q ⟨sh, req, h⟩ 2 a len data fw [] []) s (fun t =>
      .memAnswer q a (memRead s.hbm.mem (hkey q a) 8) false ∈ t.sent ∧
      memRead t.hbm.mem (hkey q a) 8 = toLe 8 ((old + fieldLe data 0 8) % 2 ^ 64)) ∧
    Completes (.hbmRequest q ⟨sh, req, h⟩ 3 a len data fw [] []) s (fun t =>
      .memAnswer q a (memRead s.hbm.mem (hkey q a) 8) false ∈ t.sent ∧
      (old = fieldLe data 0 8 → memRead t.hbm.mem (hkey q a) 8 = toLe 8 (fieldLe data 8 8 % 2 ^ 64)) ∧
      (old ≠ fieldLe data 0 8 → t.hbm.mem = s.hbm.mem ∧ t.hbm.poison = s.hbm.poison))) ∧
  (∀ (s : State) (q sh a len h req e1 e2 : Nat) (data : List Byte), live s = true → q < 4 → memServes s q = true →
    a < hbmU s q → 0 < len → a % 64 + len ≤ 64 → badRange s q a len = false → 0 < e1 → e1 < 2 ^ 32 → e2 < 2 ^ 32 →
    (e1 ≠ 0xFFFFFFFF ∨ e2 ≠ 0xFFFFFFFF) → rd s (R.hbmErrStatNext q) < 64 →
    Completes (.hbmRequest q ⟨sh, req, h⟩ 0 a len data false [(0, e1)] [(0, e2)]) s (fun t => t.hbm.mem = s.hbm.mem ∧
      (e2 = 0 → .memAnswer q a (hbmPeek s q a len) false ∈ t.sent ∧
        rd t (R.hbmCntCount q 3) = (rd s (R.hbmCntCount q 3) + 1) % 2 ^ 48) ∧
      (e2 ≠ 0 → (∃ b, .memAnswer q a b true ∈ t.sent) ∧ bit (rd t R.safFaultFault) 20 = true ∧
        rd t (R.hbmCntCount q 4) = (rd s (R.hbmCntCount q 4) + 1) % 2 ^ 48 ∧
        rd t (R.hbmErrStatNext q) = (rd s (R.hbmErrStatNext q) + 1) % 64 ∧ t.hbm.poison = s.hbm.poison)))

/-- R308–R317: refresh debt rises to 8 under flow reads and is repaid; HOT follows the temperature and above 95 °C
code 20 is raised; a pass that is due is run once; a rate change waits for the passes under way, and those it found
gathering run again; a channel retires by migration to a spare, whose MARK counts row-blocks, or at once.
It rests on the model's readings in logs 21, 22, 32 and 44. -/
def Obligations.MemoryIsMaintained : Prop :=
  (∀ (s : State) (q pc d : Nat) (w : Bool), live s = true → q < 4 → pc < 64 →
    d = mgetD s.hbm.debt (64 * q + pc) 0 →
    Completes (.refreshDue q pc w) s (fun t => mgetD t.hbm.debt (64 * q + pc) 0 =
        (if w then (if d < 8 then d + 1 else d) else d - 1) ∧
      (w = true → 8 ≤ d → mgetD t.hbm.bank (64 * q + pc) 0 =
        (mgetD s.hbm.bank (64 * q + pc) 0 + 1) % Config.hbmBanks) ∧
      t.hbm.mem = s.hbm.mem ∧ Leaves [R.hbmCntCount q 6] s t)) ∧
  (∀ (s : State) (q temp : Nat), live s = true → q < 4 → temp < 256 →
    Completes (.tempReading q temp) s (fun t => rd t (R.hbmThermTemp q) = temp ∧
      rdB t (R.hbmThermHot q) = (if 85 ≤ temp then true else if temp < 82 then false else rdB s (R.hbmThermHot q)) ∧
      (95 < temp → bit (rd t R.safFaultFault) 20 = true) ∧ t.hbm.mem = s.hbm.mem)) ∧
  (∀ (s : State) (q pc k : Nat), live s = true → q < 4 → pc < 64 → k = 64 * q + pc →
    (memServes s q = true → mget s.hbm.pass k = none → rdB s (R.hbmRateGo q) = false → catching s q = false →
      rd s (R.hbmPcRole q pc) ≠ 2 → passDue s q pc = true →
      Completes (.retrainPass q pc) s (fun t => mget t.hbm.pass k = some (uptime s) ∧ Leaves [] s t)) ∧
    (passDue s q pc = false → Completes (.retrainPass q pc) s (fun t => t = finish s s)) ∧
    ((mget s.hbm.pass k).isSome = true → rdB s (R.hbmRateGo q) = false → s.hbm.again.contains k = false →
      Completes (.retrainPassDone q pc true) s (fun t => mget t.hbm.pass k = none ∧
        mget t.hbm.passTemp k = some (rd s (R.hbmThermTemp q)) ∧ mget t.hbm.passAt k = some (uptime s) ∧
        rd t (R.hbmCntCount q 8) = (rd s (R.hbmCntCount q 8) + 1) % 2 ^ 48) ∧
      (rd s (R.hbmPcRole q pc) < 2 →
        Completes (.retrainPassDone q pc false) s (fun t => rd t (R.hbmPcRole q pc) = 2))) ∧
    (passesOf s q = [k] → s.hbm.again.contains k = true → rdB s (R.hbmRateGo q) = true →
      s.hbm.initial.contains q = false →
      Completes (.retrainPassDone q pc true) s (fun t => mget t.hbm.pass k = none ∧ k ∈ t.hbm.again ∧
        rd t (R.hbmCntCount q 9) = (rd s (R.hbmCntCount q 9) + 1) % 2 ^ 48 ∧
        t.hbm.passAt = s.hbm.passAt ∧ rd t (R.hbmStatState q) = 5 ∧ rd t (R.hbmRateHeld q) = 0))) ∧
  (∀ (s : State) (h : CmdHdr) (q rate : Nat) (g : List Nat), live s = true → ByCore h →
    modeIn s commandModes = true → q < 4 → rate ≤ 2 → g = (passesOf s q).filter (gathering s) →
    (rd s (R.hbmIdRating q) < rate → Completes (.memRate h q rate) s (fun t => Answers h .invalid [] t ∧
      t.hbm = s.hbm ∧ Leaves [] s t)) ∧
    (rate ≤ rd s (R.hbmIdRating q) → memBusy s q = true → Completes (.memRate h q rate) s (fun t =>
      Answers h .busy [] t ∧ t.hbm = s.hbm ∧ Leaves [] s t)) ∧
    (rate ≤ rd s (R.hbmIdRating q) → memBusy s q = false →
      Completes (.memRate h q rate) s (fun t => Answers h .ok [] t ∧ rd t (R.hbmRateTarget q) = rate ∧
        rd t (R.hbmRateGo q) = 1 ∧
        (if s.hbm.initial.contains q || g != [] then
          rd t (R.hbmRateHeld q) = 1 ∧ rd t (R.hbmStatState q) = rd s (R.hbmStatState q) ∧
          t.hbm.again = s.hbm.again ++ g
        else if passesOf s q != [] then rd t (R.hbmStatState q) = rd s (R.hbmStatState q) ∧ t.hbm = s.hbm
        else rd t (R.hbmStatState q) = 5 ∧ ∀ e ∈ t.hbm.debt, e.1 / 64 ≠ q)))) ∧
  (∀ (s : State) (q p : Nat), live s = true → q < 4 → rd s (R.hbmStatState q) = 5 → rd s (R.hbmRateTarget q) ≤ 2 →
    (∀ e ∈ s.hbm.autoWait, e.1 ≠ q) →
    Completes (.rateChangeDone ⟨q, []⟩) s (fun t => rd t (R.hbmStatState q) = 3 ∧
      rd t (R.hbmStatRate q) = rd s (R.hbmRateTarget q) ∧ rd t (R.hbmRateGo q) = 0 ∧
      rdStat t (R.hbmRateStatus q) = .ok ∧
      (rd s (R.hbmStatRate q) = rd s (R.hbmRateTarget q) → rd s (R.fltBudgetMissGbps q) < 2 ^ 10 →
        rd t (R.fltBudgetMissGbps q) = rd s (R.fltBudgetMissGbps q)) ∧
      ∀ k ∈ s.hbm.again, k / 64 = q → mget t.hbm.pass k = some (uptime s)) ∧
    (p < 64 → rd s (R.hbmPcRole q p) < 2 →
      Completes (.rateChangeDone ⟨q, [p]⟩) s (fun t => rd t (R.hbmStatState q) = 3 ∧ rd t (R.hbmPcRole q p) = 2))) ∧
  (∀ (s : State) (h : CmdHdr) (q pc rmode : Nat), live s = true → ByCore h → modeIn s commandModes = true → q < 4 →
    pc < 64 → rmode < 2 → rd s (R.hbmPcRole q pc) = 0 → rd s (R.hbmPcLogical q pc) < 62 →
    (memBusy s q = true → Completes (.pcRetire h q pc rmode) s (fun t => Answers h .busy [] t ∧ t.hbm = s.hbm)) ∧
    (memBusy s q = false → ∀ (d : Nat) (ds : List Nat), pcsWith s q 1 = d :: ds →
      Completes (.pcRetire h q pc 0) s (fun t => Answers h .ok [] t ∧ rd t (R.hbmPcRole q pc) = 3 ∧
        rd t (R.hbmPcRole q d) = 4 ∧ mget t.hbm.mig q = some ⟨rd s (R.hbmPcLogical q pc), pc, d⟩ ∧
        rd t (R.hbmMigStatMark q) = 0) ∧
      Completes (.pcRetire h q pc 1) s (fun t => Answers h .ok [] t ∧ rd t (R.hbmPcRole q pc) = 2 ∧
        rd t (R.hbmPcRole q d) = 0 ∧ rd t (R.hbmPcLogical q d) = rd s (R.hbmPcLogical q pc) ∧
        mget t.hbm.lost (64 * q + rd s (R.hbmPcLogical q pc)) = some ([], false))) ∧
    (memBusy s q = false → pcsWith s q 1 = [] →
      Completes (.pcRetire h q pc 0) s (fun t => Answers h .noRoom [] t ∧ t.hbm = s.hbm) ∧
      Completes (.pcRetire h q pc 1) s (fun t => Answers h .ok [] t ∧ rd t (R.hbmPcRole q pc) = 2 ∧
        bit (rd t R.safFaultFault) 20 = true))) ∧
  (∀ (s : State) (q i e1 e2 g : Nat) (m : MigS), live s = true → q < 4 → mget s.hbm.mig q = some m → m.src < 64 →
    m.dst < 64 → m.src ≠ m.dst → m.logical < 62 → (∀ e ∈ s.hbm.autoWait, e.1 ≠ q) → NoDead s q →
    rd s (R.hbmMigStatMark q) + 1 < 2 ^ 21 →
    (rd s (R.hbmMigStatMark q) + 1 < blkCount s q → Completes (.migrationBlockCopy q []) s (fun t =>
      rd t (R.hbmMigStatMark q) = rd s (R.hbmMigStatMark q) + 1 ∧ t.hbm.mem = s.hbm.mem ∧
      rd t (R.hbmCntCount q 0) = (rd s (R.hbmCntCount q 0) + 1) % 2 ^ 48 ∧
      ∀ x, marked t q x = marked s q x)) ∧
    (i < 16 → 0 < e1 → e1 < 2 ^ 32 → 0 < e2 → e2 < 0xFFFFFFFF → rd s (R.hbmErrStatNext q) < 64 →
      g = (rd s (R.hbmMigStatMark q) * 62 + m.logical) * 16 + i →
      marked s q g = false → Completes (.migrationBlockCopy q [(i, e1, e2)]) s (fun t => marked t q g = true)) ∧
    (blkCount s q ≤ rd s (R.hbmMigStatMark q) + 1 → Completes (.migrationBlockCopy q []) s (fun t =>
      mget t.hbm.mig q = none ∧ rd t (R.hbmPcRole q m.src) = 2 ∧ rd t (R.hbmPcRole q m.dst) = 0 ∧
      rd t (R.hbmPcLogical q m.dst) = m.logical)))

/-! ### Handover, rotation and splice (chapters 1 and 15) -/

/-- R26–R30, R35, R403–R405, R427: a handover starts, moves its ports, ends its port groups, relieves its target and
  tests it; the rotation step hands over or first loads the spare; the HANDOVER and ROTATION_SET commands; a flit
  whose three replays fail makes its link faulty; the last region that goes live ends the splice. TARGET reads as
  written after a refusal too: that is the model's choice (log 36). It rests on the model's readings in logs 29, 32
  and 36 beyond R26. -/
def Obligations.HandoversRotateThePipes : Prop :=
  (∀ (s : State) (r q t : Nat), live s = true → isCore r = true → q < 4 → t < 16 →
    (handRefusal s q t = none → Completes (.handoverGo r q t) s (fun u => rd u (R.modHandoverState q) = 1 ∧
      rd u (R.modHandoverTarget q) = t ∧ rdStat u (R.modHandoverStatus q) = .ok ∧
      mget u.pipe.hand q = some ⟨t, spareOf s q, groupsOf s q t, [], [], []⟩)) ∧
    (∀ c, handRefusal s q t = some c → Completes (.handoverGo r q t) s (fun u => u.pipe = s.pipe ∧
      rdStat u (R.modHandoverStatus q) = c ∧ rd u (R.modHandoverState q) = rd s (R.modHandoverState q) ∧
      rd u (R.modHandoverTarget q) = t ∧ Leaves [R.modHandoverTarget q] s u))) ∧
  (∀ (s : State) (p : Nat) (h : HandS), live s = true → p < 552 → portQuad p < 4 →
    mget s.pipe.hand (portQuad p) = some h → rd s (R.modHandoverState (portQuad p)) = 1 →
    p ∈ handPorts s (portQuad p) h.pgs → p ∉ h.switched → atBoundary s p = true →
    Completes (.handoverPortSwitch p) s (fun u =>
      mget u.pipe.hand (portQuad p) = some { h with switched := h.switched ++ [p] } ∧
      rd u (R.modHandoverState (portQuad p)) =
        (if (handPorts s (portQuad p) h.pgs).all (h.switched ++ [p]).contains then 2 else 1) ∧
      Leaves [R.modHandoverState (portQuad p)] s u)) ∧
  (∀ (s : State) (q g : Nat) (e : Bool) (h : HandS), live s = true → q < 4 → mget s.pipe.hand q = some h →
    rd s (R.modHandoverState q) = 2 → g ∈ h.pgs → g ∉ h.ended →
    (∀ f ∈ h.waiting, (mget s.cel.frames f).bind (·.heldPg) ≠ some g) →
    Completes (.handoverEndMarker q g e) s (fun u =>
      mget u.pipe.hand q = some { h with ended := h.ended ++ [g] } ∧ u.cel = s.cel ∧ Leaves [] s u)) ∧
  (∀ (s : State) (q : Nat) (h : HandS), live s = true → q < 4 → mget s.pipe.hand q = some h →
    rd s (R.modHandoverState q) = 2 → (∀ g ∈ h.pgs, g ∈ h.ended ∧ g < 16) → pipeEmpty s q h.target = true →
    h.target < 9 → h.spare < 9 →
    Completes (.handoverRelieved q) s (fun u => (∀ g ∈ h.pgs, rd u (R.modXbarPg q g) = h.spare) ∧
      rd u (R.modHandoverState q) = 3 ∧ rd u (R.modHandoverRelieved q) = h.target ∧ rd u (R.modSpareSpare q) = 15 ∧
      mget u.pipe.hand q = none ∧ mget u.pipe.testing q = some h.target)) ∧
  (∀ (s : State) (q p : Nat), live s = true → q < 4 → p < 9 → mget s.pipe.testing q = some p → mode s = .safe →
    Completes (.relievedPipeTestDone q true) s (fun u => rd u (R.modSpareSpare q) = p ∧
      rd u (R.modHandoverState q) = 0 ∧ rd u (R.modHandoverFailed q) = 0 ∧ rd u (R.bstPipeLast q) = p ∧
      rd u (R.bstPipePass q) = 1 ∧ mget u.pipe.testing q = none) ∧
    Completes (.relievedPipeTestDone q false) s (fun u => bit (rd u (R.modSpareRetired q)) p = true ∧
      rd u (R.modSpareSpare q) = 15 ∧ rd u (R.modHandoverFailed q) = 1 ∧ rd u (R.bstPipePass q) = 0 ∧
      bit (rd u R.safFaultFault) 6 = true)) ∧
  (∀ (s : State) (q t : Nat), live s = true → q < 4 → t < 9 → modeIn s [.sync, .serve, .splice, .safe] = true →
    quadParked s q = false → rd s (R.modHandoverState q) = 0 → mget s.pipe.load q = none → spareOf s q ≠ 15 →
    chooseTarget s q = some t →
    (groupsOf s q t = [] → Completes (.rotationStep q) s (fun u => mget u.pipe.want q = none ∧
      rdStat u (R.modHandoverStatus q) = .invalid ∧ u.pipe.hand = s.pipe.hand ∧ rd u (R.modHandoverState q) = 0)) ∧
    (groupsOf s q t ≠ [] → spareReady s q t = true → Completes (.rotationStep q) s (fun u => rd u (R.modHandoverState q) = 1 ∧
      rd u (R.modHandoverTarget q) = t ∧
      mget u.pipe.hand q = some ⟨t, spareOf s q, groupsOf s q t, [], [], []⟩)) ∧
    (groupsOf s q t ≠ [] → spareReady s q t = false → Completes (.rotationStep q) s (fun u => mget u.pipe.load q = some t ∧
      Leaves [] s u))) ∧
  (∀ (s : State) (q t : Nat), live s = true → q < 4 → mget s.pipe.load q = some t → spareOf s q < 9 →
    Completes (.spareProgramLoadDone q) s (fun u => mget u.pipe.load q = none ∧
      progOf u q (spareOf s q) = (wantedLoad s q t).1)) ∧
  (∀ (s : State) (l n : Nat) (fs : List Nat), live s = true → l < 10 → rd s (R.fabLinkState l) = 1 → mode s = .safe →
    (n < 3 → Completes (.flitReplay l n fs) s (fun u => rd u (R.fabLinkState l) = 1 ∧
      rd u (R.fabCntCount l 0) = (rd s (R.fabCntCount l 0) + (n + 1)) % 2 ^ 48 ∧
      rd u (R.fabCntCount l 1) = (rd s (R.fabCntCount l 1) + (n + 1)) % 2 ^ 48 ∧
      rd u (R.fabCntCount l 2) = (rd s (R.fabCntCount l 2) + n) % 2 ^ 48)) ∧
    (3 ≤ n → Completes (.flitReplay l n fs) s (fun u => rd u (R.fabLinkState l) = 2 ∧
      bit (rd u R.safFaultFault) 1 = true ∧
      rd u (R.fabCntCount l 2) = (rd s (R.fabCntCount l 2) + 3) % 2 ^ 48))) ∧
  (∀ (s : State) (h : CmdHdr) (q t : Nat), live s = true → ByCore h → q < 4 → t < 9 →
    modeIn s [.sync, .serve, .splice, .safe] = true →
    (rotOn s q = true → mget s.pipe.want q = none → spareOf s q ≠ 15 → groupsOf s q t ≠ [] →
      Completes (.handover h q t) s (fun u => Answers h .ok [] u ∧ mget u.pipe.want q = some t)) ∧
    (rotOn s q = true → groupsOf s q t = [] → mget s.pipe.want q = none → Completes (.handover h q t) s (fun u =>
      Answers h .invalid [] u ∧ u.pipe = s.pipe)) ∧
    (rotOn s q = false → handRefusal s q t = none → Completes (.handover h q t) s (fun u => Answers h .ok [] u ∧
      rd u (R.modHandoverState q) = 1 ∧
      mget u.pipe.hand q = some ⟨t, spareOf s q, groupsOf s q t, [], [], []⟩))) ∧
  (∀ (s : State) (h : CmdHdr) (v : Nat), live s = true → ByCore h → modeIn s commandModes = true → v < 16 →
    (isS s = false → (∀ q, q < 4 → rd s (R.modSpareRetired q) = 0) → Completes (.rotationSet h v) s (fun u =>
      Answers h .ok [] u ∧ rd u R.modRotEn = v ∧ rd u R.safStatDiagOff = (if v = 15 then 0 else 1))) ∧
    (isS s = true → (rd s R.modRotEn &&& (15 - v)) ≠ 0 → Completes (.rotationSet h v) s (fun u =>
      Answers h .invalid [] u ∧ rd u R.modRotEn = rd s R.modRotEn))) ∧
  (∀ (s : State) (r v : Nat) (secs : List SecS), live s = true → mode s = .splice →
    s.img.part = some ⟨secs, [(r, v)]⟩ → r < 192 → v < 2 ^ 32 → regionDone s r secs = true →
    Completes (.regionLive r) s (fun u => mode u = .serve ∧ u.img.part = none ∧ rd u (R.imgRegionVerVer r) = v ∧
      rd u (R.imgRegionVerPending r) = 0 ∧ rd u R.imgStatPhase = 5)) ∧
  (∀ (s : State) (r q t : Nat), live s = true → isCore r = false →
    Completes (.handoverGo r q t) s (fun u => rd u R.hifErrStatProtected = 1 ∧
      Leaves [R.hifErrStatProtected] s u ∧ rest u = rest (dropLatch s r)))

/-! ### Counters, samples, windows and Freeze Frame (chapters 17 to 19) -/

/-- R440–R445, R449, R451: a selection is taken or refused with SEL_ERR; a written counter counts on from its value;
  an overflow sets its OVF bit and counts in a chained neighbour; a match is hit; a user window shows a snapshot
  only inside what its page may read; sample records enter the buffer until it is full. It rests on the model's
  readings in logs 29 and 35. -/
def Obligations.CountersAndSamplesAreKept : Prop :=
  (∀ (s : State) (n v : Nat), clocked s = true → n < 512 →
    (selOk n v = true → Completes (.ctrSelWrite n v 0 0) s (fun t => rd t (R.ctrSelSrc n) = bits v 0 2 ∧
      rd t (R.ctrSelAddr n) = bits v 8 25 ∧ rd t (R.ctrSelChain n) = bits v 33 1 ∧
      rd t (R.ctrSelIntOvf n) = bits v 34 1 ∧
      (bits v 0 2 = 1 → bit v 33 = false → (n, 8 * bits v 8 25) ∈ t.ctr.watch))) ∧
    (selOk n v = false → Completes (.ctrSelWrite n v 0 0) s (fun t => rd t R.ctrStatSelErr = 1 ∧ t.ctr = s.ctr ∧
      rd t (R.ctrSelSrc n) = rd s (R.ctrSelSrc n)))) ∧
  (∀ (s : State) (n v inc : Nat), clocked s = true → n < 512 → v < 2 ^ 48 → inc < 2 ^ 48 →
    Completes (.ctrValWrite n v inc) s (fun t => rd t (R.ctrValCount n) = (v + inc) % 2 ^ 48 ∧
      (2 ^ 48 ≤ v + inc → bit (rd t (R.ctrOvfOvf (n / 64))) (n % 64) = true))) ∧
  (∀ (s : State) (n inc : Nat), live s = true → n < 512 → rd s (R.ctrSelSrc n) = 2 → rdB s (R.ctrSelChain n) = false →
    2 ^ 48 ≤ rd s (R.ctrValCount n) + inc →
    Completes (.counterOverflow n inc) s (fun t => rd t (R.ctrValCount n) = (rd s (R.ctrValCount n) + inc) % 2 ^ 48 ∧
      bit (rd t (R.ctrOvfOvf (n / 64))) (n % 64) = true ∧
      (n % 2 = 0 → rdB s (R.ctrSelChain (n + 1)) = true →
        rd t (R.ctrValCount (n + 1)) = (rd s (R.ctrValCount (n + 1)) + 1) % 2 ^ 48))) ∧
  (∀ (s : State) (j n inc : Nat), live s = true → j < 4 → n = rd s (R.ctrMatchCounter j) → n < 512 →
    rd s (R.ctrSelSrc n) = 2 → rdB s (R.ctrSelChain n) = false → rd s (R.ctrMatchValue j) ≠ 0 →
    rd s (R.ctrValCount n) < rd s (R.ctrMatchValue j) → rd s (R.ctrMatchValue j) ≤ rd s (R.ctrValCount n) + inc →
    rd s (R.ctrValCount n) + inc < 2 ^ 48 →
    Completes (.matchFire j inc) s (fun t => rdB t (R.ctrMatchHit j) = true ∧
      rd t (R.ctrValCount n) = rd s (R.ctrValCount n) + inc ∧
      (rdB s (R.ctrMatchInt j) = true → s.host.link = .l0 → (0, 84) ∉ s.host.msixMask → .vector 0 84 ∈ t.sent))) ∧
  (∀ (s : State) (r k i : Nat), clocked s = true → i < 256 → reachesPage r k = true →
    (rdB s (R.ctrUserEnEn k) = true → i < rd s (R.ctrUserEnCount k) → rd s (R.ctrUserEnBase k) + i < 512 →
      Completes (.counterWindowAccess r k i false false) s (fun t =>
        .read r (snapshot s (rd s (R.ctrUserEnBase k) + i)) 8 ∈ t.sent ∧ Leaves [] s t ∧ rest t = rest (dropLatch s r))) ∧
    (rdB s (R.ctrUserEnEn k) = false → Completes (.counterWindowAccess r k i false false) s (fun t =>
      .read r 0 8 ∈ t.sent ∧ rd t (R.ctrUserEnUserDenied k) = 1 ∧ Leaves [R.ctrUserEnUserDenied k] s t ∧
      rest t = rest (dropLatch s r))) ∧
    Completes (.counterWindowAccess r k i true false) s (fun t => rd t (R.ctrUserEnUserDenied k) = 1 ∧
      Leaves [R.ctrUserEnUserDenied k] s t ∧ rest t = rest (dropLatch s r)) ∧
    Completes (.counterWindowAccess r k i false true) s (fun t => .read r 0xFFFFFFFF 4 ∈ t.sent ∧
      rd t R.hifErrStatNarrow = 1 ∧ Leaves [R.hifErrStatNarrow] s t ∧ rest t = rest (dropLatch s r))) ∧
  (∀ (s : State) (r k i : Nat) (w n : Bool), clocked s = true → reachesPage r k = false →
    Completes (.counterWindowAccess r k i w n) s (fun t => t = finish s (dropLatch s r))) ∧
  (∀ (s : State) (q : Nat) (r : List Byte) (l : List (List Byte)), live s = true → mgetD s.ctr.smpFifo q [] = r :: l →
    rdB s R.smpCtlStop = false →
    (s.ctr.smpBuf.length < 2048 → Completes (.sampleRecord q) s (fun t =>
      t.ctr.smpBuf = s.ctr.smpBuf ++ [putBytes r 2 (toLe 2 s.ctr.smpSeq)] ∧ mgetD t.ctr.smpFifo q [] = l ∧
      rd t R.smpStatCount = s.ctr.smpBuf.length + 1 ∧
      rd t (R.smpCntCount 2) = (rd s (R.smpCntCount 2) + 1) % 2 ^ 48)) ∧
    (2048 ≤ s.ctr.smpBuf.length → Completes (.sampleRecord q) s (fun t => t.ctr.smpBuf = s.ctr.smpBuf ∧
      mgetD t.ctr.smpFifo q [] = l ∧ rd t (R.smpCntCount 0) = (rd s (R.smpCntCount 0) + 1) % 2 ^ 48))) ∧
  (∀ s : State, clocked s = true → Completes .smpClear s (fun t => t.ctr.smpBuf = [] ∧ t.ctr.smpSeq = 0 ∧
    rd t R.smpStatCount = 0 ∧ rd t R.smpStatFull = 0 ∧ Leaves [R.smpStatCount, R.smpStatFull] s t))

/-- R454–R460, R468, R476, R493: an indirect window reads its space and refuses writes; the SMBus target
answers or NACKs; IEEE 1149.1 instructions drive, preload and identify; a freeze is asked for, taken, and read out by
rushes; HBM_DUMP selects stacks.
It rests on the model's readings in logs 23, 29 and 35. -/
def Obligations.WindowsPortsAndFreezeAct : Prop :=
  (∀ (s : State) (r a sp q x : Nat), clocked s = true → 0x8000000 ≤ a → a < 0x10000000 →
    winByte s (a / 8 * 8) = (sp, q, x) →
    (x < winSize s sp q → sp ≠ 6 → ∀ b o, spaceItem s sp q x = some (b, o) →
      Completes (.indirectWindowRead r a false false) s (fun t => .read r (leNat (slice b o 8)) 8 ∈ t.sent ∧
        Leaves [] s t ∧ rest t = rest s)) ∧
    (x < winSize s sp q → sp = 6 → q < 4 → badRange s q x 8 = false →
      Completes (.indirectWindowRead r a false false) s (fun t =>
        .read r (leNat (hbmPeek s q x 8)) 8 ∈ t.sent ∧ t.hbm.mem = s.hbm.mem ∧
        Leaves [R.hbmCntCount q 0, R.hbmCntCount q 2] s t)) ∧
    (x < winSize s sp q → sp = 6 → q < 4 → badRange s q x 8 = false → queuedRange s q x 8 = false →
      Completes (.indirectWindowRead r a false true) s (fun t => .read r 0 8 ∈ t.sent ∧
        bit (rd t R.safFaultFault) 20 = true ∧ t.hbm.mem = s.hbm.mem)) ∧
    (winSize s sp q ≤ x → Completes (.indirectWindowRead r a false false) s (fun t => .read r 0 8 ∈ t.sent ∧
      rd t R.hifErrStatUnmapped = 1 ∧ Leaves [R.hifErrStatUnmapped] s t))) ∧
  (∀ (s : State) (a : Nat), clocked s = true → 0x8000000 ≤ a → a < 0x10000000 →
    Completes (.indirectWindowWrite a) s (fun t => rd t R.hifErrStatProtected = 1 ∧
      Leaves [R.hifErrStatProtected] s t ∧ rest t = rest s)) ∧
  (∀ (s u : State) (a c w : Nat), powered s = true → a = 0x58 + s.mod.strapSmb % 8 → mode s ≠ .freeze →
    (smbWord s c = (some w, u) → Completes (.smbusReadWord a c true) s (fun t =>
      .smbus (toLe 2 w ++ toLe 1 (pecOf (toLe 1 (2 * a) ++ toLe 1 c ++ toLe 1 (2 * a + 1) ++ toLe 2 w))) false
        ∈ t.sent ∧ Leaves [] s t)) ∧
    Completes (.smbusReadWord a c false) s (fun t => .smbus [] true ∈ t.sent ∧ Leaves [] s t)) ∧
  (∀ (s : State) (cells : List (String × Bool)), s.mod.seq ≠ .off →
    Completes (.jtagInstruction .idcode cells) s (fun t => .tdo (toLe 4 (idcode s)) ∈ t.sent ∧ t.ctr.jtag = .idcode) ∧
    Completes (.jtagInstruction .samplePreload cells) s (fun t =>
      t.ctr.preload = cells.filter (fun c => scanned c.1)) ∧
    Completes (.jtagInstruction .extest cells) s (fun t => ∀ c ∈ s.ctr.preload, .pin c.1 c.2 ∈ t.sent) ∧
    (∀ i, rushesIr i = true → mode s ≠ .freeze →
      Completes (.jtagInstruction i cells) s (fun t => t.ctr.jtag = .bypass))) ∧
  (∀ (s : State) (h : CmdHdr), live s = true → ByCore h → Completes (.freeze h) s (fun t => Answers h .ok [] t ∧
    t.ctr.frzCmd = (if s.ctr.frzCmd.isSome then s.ctr.frzCmd else some h.requester) ∧
    (s.ctr.frzCmd = none → t.ctr.frzAt = none) ∧ mode t = mode s)) ∧
  (∀ s : State, freezable s = true →
    (rdB s R.frzCfgPinEn = true → s.ctr.frzReq = none →
      Completes .freezeN s (fun t => t.ctr.frzReq = some (1, 0) ∧ mode t = mode s)) ∧
    (rdB s R.frzCfgPinEn = false → Completes .freezeN s (fun t => t = finish s s)) ∧
    (∀ c u, s.ctr.frzReq = some (c, u) → c < 16 → u < 512 → Completes .freezeTrigger s (fun t =>
      mode t = .freeze ∧ t.ctr.frzReq = none ∧ t.ctr.frzStep = 4 ∧ rd t R.frzLastTrigger = c ∧
      rd t R.frzLastUnit = u ∧ rd t R.keyStatZeroized = 1 ∧ t.host.link = .down)) ∧
    (∀ r a, s.ctr.frzReq = none → s.ctr.frzCmd = some r → s.ctr.frzAt = some a → r < 512 →
      (a + 100000 ≤ uptime s → Completes .freezeTrigger s (fun t =>
        mode t = .freeze ∧ rd t R.frzLastTrigger = 2 ∧ rd t R.frzLastUnit = r)) ∧
      (uptime s < a + 100000 → Completes .freezeTrigger s (fun t => t = finish s s)))) ∧
  (∀ (s : State) (sp tag q a n : Nat) (v sec : Bool) (hurt : List Nat), mode s = .freeze → s.ctr.rushesTo = false →
    (∀ c, rushesRefusal s sp q a n v = some c → Completes (.rushesReq sp tag q a n v sec hurt) s (fun t =>
      .rushes (rushesFrame sp tag a c [] 0) ∈ t.sent ∧ Leaves [] s t)) ∧
    (rushesRefusal s 2 q a n v = none → Completes (.rushesReq 2 tag q a n v sec hurt) s (fun t =>
      .rushes (rushesFrame 2 tag a .ok (hbmPeek s q a n) (poisonedCount s q a n hurt)) ∈ t.sent ∧
      t.hbm = s.hbm ∧ Leaves [] s t))) ∧
  (∀ (s : State) (m : Nat), mode s = .freeze →
    (s.ctr.frzStep = 7 → Completes (.hbmDump m) s (fun t => t.ctr.frzDump = s.ctr.frzDump ||| (m % 16) ∧
      t.hbm = s.hbm ∧ Leaves [] s t)) ∧
    (s.ctr.frzStep ≠ 7 → Completes (.hbmDump m) s (fun t => t = finish s s)) ∧
    Completes .hbmDumpEnd s (fun t => t.ctr.frzDump = 0 ∧ t.hbm = s.hbm ∧ Leaves [] s t))

/-! ### Faults and the journal (chapter 16) -/

/-- R415–R420, R427, R429: a source that fires sets its bit and, as the first, SAF_FIRST; a class-S source in SERVE
  leads to SAFE; a bit clears when it is acknowledged or its condition ends; the monitors raise their codes. It
  rests on the model's readings in logs 20, 29 and 32. -/
def Obligations.FaultsAreRaisedAndCleared : Prop :=
  (∀ (s : State) (c u d : Nat) (st : Bool), powered s = true → c < 23 → u < 65536 → mode s = .safe →
    Completes (.faultDetect c u d st) s (fun t => bit (rd t R.safFaultFault) c = true ∧ mode t = .safe ∧
      (rd s R.safFaultFault = 0 → rd t R.safFirstCode = c ∧ rd t R.safFirstUnit = u) ∧
      (st = true → (c, u) ∈ t.saf.standing))) ∧
  (∀ (s : State) (c u d : Nat) (st : Bool), powered s = true → c < 19 → mode s = .serve → rdB s R.frzCfgSafetyEn = false →
    s.tim.rsv = [] → s.eng.tasks = [] → s.eng.ctxs = [] →
    Completes (.faultDetect c u d st) s (fun t => bit (rd t R.safFaultFault) c = true ∧ mode t = .safe ∧
      rdB t R.safStatSafeN = true)) ∧
  (∀ (s : State) (r c : Nat), clocked s = true → isCore r = true → c < 23 → ackClears s c = true →
    64 * (s.saf.jTail.length + 1) ≤ rd s R.jnlCfgTailMax →
    Completes (.faultAck r (2 ^ c)) s (fun t => bit (rd t R.safFaultFault) c = false)) ∧
  (∀ (s : State) (r c : Nat), clocked s = true → isCore r = true → c < 23 → ackClears s c = false →
    Completes (.faultAck r (2 ^ c)) s (fun t => rd t R.safFaultFault = rd s R.safFaultFault ∧ t.saf = s.saf)) ∧
  (∀ (s : State) (r v : Nat), clocked s = true → isCore r = false → Completes (.faultAck r v) s (fun t =>
    rd t R.hifErrStatProtected = 1 ∧ Leaves [R.hifErrStatProtected] s t ∧ rest t = rest (dropLatch s r))) ∧
  (∀ (s : State) (c u : Nat), powered s = true → selfClearing c = true → s.saf.standing.contains (c, u) = true →
    rotHolds s c u = false → (∀ e ∈ s.saf.standing, e.1 = c → e = (c, u)) → s.saf.uncRead = false →
    Completes (.faultClear c u) s (fun t => bit (rd t R.safFaultFault) c = false ∧ (c, u) ∉ t.saf.standing)) ∧
  (∀ (s : State) (u : Nat), powered s = true → mode s = .safe →
    Completes (.clockMonitor u false) s (fun t => bit (rd t R.safFaultFault) 11 = true ∧ (11, u) ∈ t.saf.standing) ∧
    Completes (.voltageMonitor u) s (fun t => bit (rd t R.safFaultFault) 12 = true ∧ (12, u) ∈ t.saf.standing) ∧
    Completes .timeCrosscheck s (fun t => bit (rd t R.safFaultFault) 14 = true) ∧
    Completes .pinReadback s (fun t => bit (rd t R.safFaultFault) 17 = true ∧ rd t R.safStatReadbackErr = 1 ∧
      rd t (R.safCntCount 5) = (rd s (R.safCntCount 5) + 1) % 2 ^ 48)) ∧
  (∀ (s : State) (d a b c : Nat), powered s = true → mode s = .safe → d < 9 →
    Completes (.tempVote d a b c) s (fun t => mget t.saf.temps d = some (median3 a b c) ∧
      ((105 < median3 a b c ∨ tempFar (median3 a b c) a = true ∨ tempFar (median3 a b c) b = true ∨
        tempFar (median3 a b c) c = true) → bit (rd t R.safFaultFault) 13 = true))) ∧
  (∀ (s : State) (d : Nat) (x y : Bool), powered s = true → mode s = .safe → d < 4 →
    Completes (.serdesLoopback d x y) s (fun t => bit (rd t R.bstAnaLaneFail) d = x ∧ bit (rd t R.bstAnaEyeLow) d = y ∧
      (x = true → bit (rd t R.safFaultFault) 16 = true) ∧ (y = true → bit (rd t R.safFaultFault) 19 = true)) ∧
    Completes (.hbmPhyLoopback d x) s (fun t => bit (rd t R.bstAnaHbmLoop) d = x ∧
      (x = true → bit (rd t R.safFaultFault) 20 = true))) ∧
  (∀ (s : State) (q p : Nat), live s = true → mode s = .safe → q < 4 → p < 9 → pipeOld s (9 * q + p) = true →
    Completes (.pipeTestAge q p) s (fun t => bit (rd t R.safFaultFault) 8 = true ∧
      (8, unitOf q p) ∈ t.saf.standing))

/-- R430, R432–R437: PFW_N raises code 18 and a POWER_FAIL record, whose commit empties the tail and sets PF_DONE
  until PFW_N rises; a posted record enters the tail with the next SEQ; a flash program commits the oldest records,
  or is retried once and then sets WRITE_ERR; JOURNAL_READ; scan test needs a zeroized device. It rests on the
  model's readings in logs 20 and 29 beyond R430. -/
def Obligations.JournalRecordsAreKept : Prop :=
  (∀ s : State, powered s = true → s.saf.pfwN = false → mode s = .safe →
    64 * (s.saf.jTail.length + 1) ≤ rd s R.jnlCfgTailMax →
    Completes .pfwNAssert s (fun t => t.saf.pfwN = true ∧ bit (rd t R.safFaultFault) 18 = true ∧
      ∃ r, t.saf.jTail = s.saf.jTail ++ [r] ∧ r.typ = 0x0060 ∧ r.arg0 = 64 * s.saf.jTail.length)) ∧
  (∀ s : State, clocked s = true → s.saf.pfwN = true → rdB s R.jnlStatPfDone = false →
    Completes .powerFailCommitDone s (fun t => rd t R.jnlStatPfDone = 1 ∧ t.saf.jTail = [] ∧ rd t R.jnlStatTail = 0 ∧
      t.saf.jFlash = ringPut s.saf.jFlash s.saf.jTail ∧ t.saf.jOver = s.saf.jOver)) ∧
  (∀ s : State, powered s = true → Completes .pfwNDeassert s (fun t => t.saf.pfwN = false ∧ rd t R.jnlStatPfDone = 0 ∧
    t.saf.jTail = s.saf.jTail ∧ Leaves [R.jnlStatPfDone] s t)) ∧
  (∀ (s : State) (ty sev req u a b c : Nat) (st : JStatus), live s = true → ty ∈ jTypes → sev < 4 →
    64 * (s.saf.jTail.length + 1) ≤ rd s R.jnlCfgTailMax → rd s R.jnlCfgTailMax ≤ 65536 →
    Completes (.journalPost ty sev req u st a b c) s (fun t =>
      t.saf.jTail = s.saf.jTail ++ [jRec s ty sev req u st a b c] ∧ t.saf.jOver = s.saf.jOver ∧
      rd t R.jnlStatSeq = (rd s R.jnlStatSeq + 1) % 2 ^ 32 ∧
      rd t R.jnlStatTail = 64 * (s.saf.jTail.length + 1) ∧ Leaves [] s t)) ∧
  (∀ (s : State) (n : Nat), clocked s = true → rdB s R.jnlStatPfDone = false → s.saf.jTail ≠ [] →
    (s.saf.jOver = [] → s.saf.jLost = 0 → Completes (.journalCommit n true) s (fun t =>
      t.saf.jTail = s.saf.jTail.drop n ∧ t.saf.jFlash = ringPut s.saf.jFlash (s.saf.jTail.take n) ∧
      rd t (R.jnlCntCount 1) = (rd s (R.jnlCntCount 1) + (s.saf.jTail.take n).length) % 2 ^ 48 ∧
      (∀ m, s.img.qspiAfter = some m → (∀ r ∈ s.saf.jTail.drop n, r.seq ≠ m) → t.img.qspiOut = true))) ∧
    (s.saf.jRetry = false → Completes (.journalCommit n false) s (fun t => t.saf.jRetry = true ∧
      t.saf.jTail = s.saf.jTail ∧ rd t (R.jnlCntCount 3) = (rd s (R.jnlCntCount 3) + 1) % 2 ^ 48)) ∧
    (s.saf.jRetry = true → Completes (.journalCommit n false) s (fun t => t.saf.jRetry = false ∧
      rd t R.jnlStatWriteErr = 1 ∧ bit (rd t R.safFaultFault) 21 = true))) ∧
  (∀ (s : State) (h : CmdHdr) (a n : Nat), live s = true → ByCore h → n ≤ 4096 →
    ((readRecs s a n).foldl (fun a r => a ++ recBytes r) []).length ≤ cmdBufLen h →
    Completes (.journalRead h a n) s (fun t =>
      Answers h .ok ((readRecs s a n).foldl (fun a r => a ++ recBytes r) []) t ∧ t.saf = s.saf ∧ Leaves [] s t)) ∧
  (∀ (s : State) (r : Nat), live s = true → isCore r = true →
    (rdB s R.keyStatZeroized = true → Completes (.scanEnable r) s (fun t => rd t R.bstScanEn = 1 ∧
      rdStat t R.bstScanStatus = .ok ∧ t.saf.scanOn = true)) ∧
    (rdB s R.keyStatZeroized = false → Completes (.scanEnable r) s (fun t => rdStat t R.bstScanStatus = .refusedMode ∧
      t.saf.scanOn = s.saf.scanOn ∧ Leaves [] s t))) ∧
  (∀ (s : State) (cells : List (String × Bool)), s.mod.seq ≠ .off →
    (rdB s R.keyStatZeroized = true → Completes (.jtagInstruction .scan cells) s (fun t => t.saf.scanOn = true)) ∧
    (rdB s R.keyStatZeroized = false → Completes (.jtagInstruction .scan cells) s (fun t =>
      rdStat t R.bstScanStatus = .refusedMode ∧ t.saf.scanOn = s.saf.scanOn ∧ t.ctr.jtag = s.ctr.jtag ∧ Leaves [] s t)))

/-! ### Rings and links (chapters 4, 12 and 15) -/

/-- R120, R323–R326, R332, R395: a doorbell posts descriptors; a transmit descriptor is completed and its frame
  enters like one from a port, or is dropped by its length; a copy for the host is written to its buffer; an event
  fills the next entry or is counted as lost; the PCIe link in L0 sends the held vectors; a port's link goes down.
  It rests on the model's readings in logs 28, 32 and 47. -/
def Obligations.RingsAndLinksCarry : Prop :=
  (∀ (s : State) (r x tail : Nat), live s = true → r < 128 →
    (ringSize s r ≠ 0 → Completes (.txRingDoorbell (0x40 * r) tail) s (fun t =>
      mget t.host.ringTail r = some (tail % ringSize s r) ∧ Leaves [] s t)) ∧
    (ringSize s r = 0 → Completes (.txRingDoorbell (0x40 * r) tail) s (fun t => t = finish s s)) ∧
    (x % 0x40 ≠ 0 ∨ 128 ≤ x / 0x40 → Completes (.txRingDoorbell x tail) s (fun t => rd t R.hifErrStatUnmapped = 1 ∧
      Leaves [R.hifErrStatUnmapped] s t ∧ rest t = rest s))) ∧
  (∀ (s v : State) (r p : Nat) (desc frame d b : List Byte), live s = true → r < 64 → p = 544 + r / 8 →
    carries s = true → bit (rd s R.pwrParkParked) (portQuad p) = false → txTurn s p = some r →
    rd s (R.hifRingCfgSizeLog2 r) ≤ 15 → rd s (R.hifRingCfgHead r) < ringSize s r → d = slice desc 0 32 →
    (txDescBad d = true → Completes (.txDescriptor r desc frame) s (fun t => rd t R.hifErrStatDescErr = 1 ∧
      rd t (R.hifRingCfgHead r) = (rd s (R.hifRingCfgHead r) + 1) % ringSize s r ∧ t.cel = s.cel ∧
      Leaves [R.hifErrStatDescErr, R.hifRingCfgHead r] s t)) ∧
    (txDescBad d = false → bits (fieldLe d 8 4) 0 14 < 60 → Completes (.txDescriptor r desc frame) s (fun t =>
      t.cel = s.cel ∧ rd t (R.ctrReasonCount 2) = (rd s (R.ctrReasonCount 2) + 1) % 2 ^ 48 ∧
      rd t (R.hifRingCfgHead r) = (rd s (R.hifRingCfgHead r) + 1) % ringSize s r)) ∧
    (txDescBad d = false → 9212 < bits (fieldLe d 8 4) 0 14 → Completes (.txDescriptor r desc frame) s (fun t =>
      t.cel = s.cel ∧ rd t (R.ctrReasonCount 3) = (rd s (R.ctrReasonCount 3) + 1) % 2 ^ 48 ∧
      rd t (R.hifRingCfgHead r) = (rd s (R.hifRingCfgHead r) + 1) % ringSize s r)) ∧
    (txDescBad d = false → 60 ≤ bits (fieldLe d 8 4) 0 14 → bits (fieldLe d 8 4) 0 14 ≤ 9212 →
      b = slice frame 0 (bits (fieldLe d 8 4) 0 14) →
      v = completeDesc { s with host := { s.host with txNext := mset s.host.txNext p ((r + 1) % 8) } } r
        (putBytes d 8 (toLe 4 (setBit (fieldLe d 8 4) 31))) →
      Completes (.txDescriptor r desc frame) s (fun t =>
        t.cel = (wholeFrame v p (portQuad p) (4 * p) (b ++ fcsOf b)).2.cel))) ∧
  (∀ (s : State) (p cp r : Nat) (desc : List Byte) (out : Option (List Byte)) (c : CopyS) (f : FrameS), live s = true →
    544 ≤ p → p < 552 → mget s.cel.tx p = some cp → mget s.cel.copies cp = some c → mget s.cel.frames c.head = some f →
    r = rxRing s p c.queue → ringPosted s r ≠ 0 → c.dropAs = 0 → f.abortUnsent = 0 → f.ended = true → c.port < 552 →
    (rxDescBad desc = false → (f.pool = 1 → (cellsIn s (frameCells s c.head) 0).1 = none) →
      Completes (.rxFrameWrite p 0 desc out) s (fun t =>
        .dma (fieldLe desc 0 8) (sendBody s c out 0 0 0) ∈ t.sent ∧
        mget t.cel.tx p = none ∧ mget t.cel.copies cp = none ∧
        rd t (R.ctrPortCount c.port 2) = (rd s (R.ctrPortCount c.port 2) + 1) % 2 ^ 48)) ∧
    (rxDescBad desc = true → r < 128 → rd s (R.hifRingCfgSizeLog2 r) ≤ 15 →
      Completes (.rxFrameWrite p 0 desc out) s (fun t => rd t R.hifErrStatDescErr = 1 ∧ t.cel = s.cel ∧
        rd t (R.hifRingCfgHead r) = (rd s (R.hifRingCfgHead r) + 1) % ringSize s r ∧
        Leaves [R.hifErrStatDescErr, R.hifRingCfgHead r] s t))) ∧
  (∀ (s : State) (ty q : Nat) (ctl : Bool) (b : List Byte), live s = true → 1 ≤ ty → ty ≤ 5 → b ≠ [] → b.length ≤ 64 →
    ((rd s R.hifEvtStatTail + 2 ^ 17 - rd s R.hifEvtStatHead) % 2 ^ 17 < evSize s →
      Completes (.eventPost ty q ctl b) s (fun t => rd t R.hifEvtStatTail = (rd s R.hifEvtStatTail + 1) % 2 ^ 17 ∧
        .dma (rd s R.hifEvtBaseAddr * 4096 + rd s R.hifEvtStatTail % evSize s * 128)
          ((evEntry s ty (q % 4) ctl b).take 8) ∈ t.sent ∧
        .dma (rd s R.hifEvtBaseAddr * 4096 + rd s R.hifEvtStatTail % evSize s * 128 + 8)
          ((evEntry s ty (q % 4) ctl b).drop 8) ∈ t.sent ∧ t.host.evSeq = (s.host.evSeq + 1) % 2 ^ 32 ∧ Leaves [] s t)) ∧
    (evSize s ≤ (rd s R.hifEvtStatTail + 2 ^ 17 - rd s R.hifEvtStatHead) % 2 ^ 17 →
      Completes (.eventPost ty q ctl b) s (fun t => rd t R.hifEvtStatTail = rd s R.hifEvtStatTail ∧
        rd t (R.hifCntCount 7) = (rd s (R.hifCntCount 7) + 1) % 2 ^ 48 ∧
        ∀ g, eventLost ty q b = some g → rd t g = (rd s g + 1) % 2 ^ 48))) ∧
  (∀ (s : State) (v : Nat), clocked s = true → Completes (.eventRingHead v) s (fun t =>
    rd t R.hifEvtStatHead = v % 2 ^ 17 ∧ Leaves [R.hifEvtStatHead] s t ∧ rest t = rest s)) ∧
  (∀ (s : State) (a b : Nat) (x : Bool) (idle : LinkState) (mask : List (Nat × Nat)), clocked s = true →
    s.host.refclk = true → a < 8 → b < 16 →
    Completes (.pcieLinkL0 a b ⟨x, idle, mask⟩) s (fun t => t.host.link = (if idle = .down then .l0 else idle) ∧
      t.host.vecHeld = [] ∧ t.host.msixMask = mask ∧
      (∀ v ∈ s.host.vecHeld ++ s.host.msixPend,
        if mask.contains v then v ∈ t.host.msixPend else .vector v.1 v.2 ∈ t.sent) ∧
      rd t R.hifLinkSpeed = a ∧ rd t R.hifLinkWidth = b ∧
      rd t R.hifLinkFlit = b2n x ∧ Leaves [R.hifLinkSpeed, R.hifLinkWidth, R.hifLinkFlit] s t)) ∧
  (∀ s : State, Completes .pcieRefclkPresent s (fun t => t.host.refclk = true ∧ Leaves [] s t)) ∧
  (∀ (s : State) (p : Nat), live s = true → p < 512 → rd s (R.pwrPortState p) = 2 →
    (mget s.cel.rx p).bind (·.frame) = none →
    Completes (.portLinkDown p) s (fun t => rd t (R.pwrPortState p) = 3 ∧
      (∀ i ∈ [0, 1], synceHeld t i = true → rdB t (R.timSynceSquelched i) = true) ∧
      Leaves [R.pwrPortState p, R.timSynceSquelched 0, R.timSynceSquelched 1] s t ∧ rest t = rest s))

/-! ### Modes, ports and quadrants (chapters 11, 15 and 16) -/

/-- R173, R311, R388–R392, R420, R422, R438, R439: a stack that trains serves; a cleared record space; the hold-up
energy is judged; a TEST without a failed check ends in SYNC, or SERVE without scheduled classes; SYNC becomes SERVE;
HOLDUP_OVERRIDE; SAFE_EXIT leaves SAFE once no class-S bit is set.
It rests on the model's readings in logs 21 and 32. -/
def Obligations.ModesFollowTestAndSafe : Prop :=
  (∀ (s : State) (q p : Nat) (bad : List Nat), live s = true → q < 4 → q ∈ s.hbm.initial →
    (rdB s (R.hbmRateHeld q) = false →
      Completes (.initTrainingDone q true []) s (fun t => rd t (R.hbmStatState q) = 3 ∧ q ∉ t.hbm.initial ∧
        (mode s = .test → mget t.mod.trained q = some true)) ∧
      (p < 64 → rd s (R.hbmPcRole q p) < 2 → Completes (.initTrainingDone q true [p]) s (fun t =>
        rd t (R.hbmStatState q) = 3 ∧ rd t (R.hbmPcRole q p) = 2)) ∧
      Completes (.initTrainingDone q false bad) s (fun t => rd t (R.hbmStatState q) = 6 ∧
        rd t (R.hbmStatInitErr q) = 4 ∧ q ∉ t.hbm.initial ∧ (mode s = .test → 1 ∈ t.mod.failed))) ∧
    (rdB s (R.hbmRateHeld q) = true → rd s (R.hbmRateTarget q) ≤ 2 →
      Completes (.initTrainingDone q true bad) s (fun t => rd t (R.hbmStatRate q) = rd s (R.hbmRateTarget q) ∧
        rd t (R.hbmRateHeld q) = 0 ∧ t.hbm = s.hbm))) ∧
  (∀ (s : State) (q : Nat), live s = true → q < 4 → mode s = .test → memServes s q = true → q ∉ s.mod.cleared →
    Completes (.recordSpaceClearDone q true) s (fun t => q ∈ t.mod.cleared ∧ t.hbm = (clearRecords s q).hbm ∧
      (MemCanonical s → MemCanonical t) ∧ Leaves [] s t) ∧
    Completes (.recordSpaceClearDone q false) s (fun t => 5 ∈ t.mod.failed ∧ t.hbm = s.hbm)) ∧
  (∀ (s : State) (v c : Nat), live s = true → mode s = .test → s.saf.holdupTest = true → v < 65536 →
    s.saf.modeSince + 10 ^ 6 ≤ uptime s →
    c = holdupCause s (rd s R.safHoldupCfgVminMv) s.saf.v0 v
      (usableEnergy (rd s R.safHoldupCfgLoadMw) (rd s R.safHoldupCfgVminMv) s.saf.v0 v) →
    Completes (.holdupSample v) s (fun t => rd t R.safHoldupV1Mv = v ∧ rd t R.safHoldupCause = c ∧
      .pin "HOLDUP_TEST" false ∈ t.sent ∧ t.saf.holdupTest = false ∧ t.mod.holdup = some (c == 0) ∧
      (c ≠ 0 → 4 ∈ t.mod.failed))) ∧
  (∀ s : State, live s = true → mode s = .test → s.mod.tested = false → testJudged s = true → s.mod.failed = [] →
    kindsHold s = true → classSFaults s = 0 → (∀ d ∈ portDecls (sec s 1 0), d.port < 512) →
    Completes (.testComplete [] []) s (fun t => t.mod.tested = true ∧
      mode t = (if anyScheduled s then .sync else .serve))) ∧
  (∀ (s : State) (pipes grps : List Nat), live s = true → mode s = .test → s.mod.tested = false → testJudged s = true →
    s.mod.failed ≠ [] → Completes (.testComplete pipes grps) s (fun t => t.mod.tested = true ∧ mode t = .test)) ∧
  (∀ s : State, live s = true → mode s = .sync → timeValid s = true →
    (s.tim.oper.all (fun e => e.2.cycle == 0 || rdB s (R.shtPortBaseRun (macQ e.1) (macM e.1)))) = true →
    Completes .serveEntry s (fun t => mode t = .serve ∧ (classSFaults s = 0 → rdB t R.safStatSafeN = false) ∧
      rd t R.modStatPrev = 3)) ∧
  (∀ (s : State) (h : CmdHdr), live s = true → ByCore h → mode s = .test →
    (isS s = false → s.mod.failed = [4] → s.mod.tested = false → Completes (.holdupOverride h) s (fun t =>
      Answers h .ok [] t ∧ rd t R.safStatHoldupOvr = 1 ∧ rd t R.modStatTestFail = 0 ∧ t.mod.failed = [] ∧
      t.mod.holdup = some true ∧ mode t = .test)) ∧
    (isS s = true → Completes (.holdupOverride h) s (fun t => Answers h .invalid [] t ∧ t.mod = s.mod ∧
      Leaves [] s t))) ∧
  (∀ (s : State) (h : CmdHdr), live s = true → ByCore h → mode s = .safe →
    (classSFaults s = 0 → Completes (.safeExit h) s (fun t => Answers h .ok [] t ∧
      mode t = (if s.img.part.isSome then .splice else .serve) ∧ rd t R.modStatSplicePaused = 0)) ∧
    (classSFaults s ≠ 0 → Completes (.safeExit h) s (fun t => Answers h .busy [] t ∧ mode t = .safe ∧
      Leaves [] s t)))

/-- R399, R400: a core powers a port down and up and retrains it; its link comes up when its training ends; a
  quadrant parks when its pools have drained, or the request ends with BUSY; it starts its return when its request
  bit is cleared. It rests on the model's readings in logs 21 and 22. -/
def Obligations.PortsTrainAndQuadrantsPark : Prop :=
  (∀ (s : State) (r p : Nat), live s = true → isCore r = true → p < 512 →
    (portReserved s p = false → rdB s (R.pwrPortPd p) = false → Completes (.portPowerDown r p) s (fun t =>
      rd t (R.pwrPortPd p) = 1 ∧ ((portDecl s p).isSome = true → carries s = true → rd t (R.pwrPortState p) = 0))) ∧
    (portReserved s p = true → Completes (.portPowerDown r p) s (fun t => t.cel = s.cel ∧ Leaves [] s t)) ∧
    (quadParked s (macQ p) = false → rdB s (R.pwrPortPd p) = true → Completes (.portPowerUp r p) s (fun t =>
      rd t (R.pwrPortPd p) = 0 ∧ ((portDecl s p).isSome = true → carries s = true →
        rd t (R.pwrPortState p) = (if !modeIn s [.sync] || syncBe s then 1 else 3)) ∧
      Leaves [R.pwrPortPd p, R.pwrPortState p] s t ∧ rest t = rest (dropLatch s r))) ∧
    (linkMay s p = true →
      Completes (.portRetrain r p) s (fun t => rd t (R.pwrPortState p) = 1 ∧ rd t (R.pwrPortRetrain p) = 1 ∧
        rxOf t p = ⟨none, false, 0, true⟩)) ∧
    (rd s (R.pwrPortState p) = 1 ∨ rd s (R.pwrPortState p) = 3 ∧ linkMay s p = true →
      Completes (.portTrainDone p) s (fun t => rd t (R.pwrPortState p) = 2 ∧
      rd t (R.pwrPortRetrain p) = 0 ∧ Leaves [R.pwrPortState p, R.pwrPortRetrain p] s t ∧ rest t = rest s))) ∧
  (∀ (s : State) (r p q : Nat) (c : Instr), live s = true → isCore r = false → p < 512 → q < 4 →
    c ∈ [.portPowerDown r p, .portPowerUp r p, .portRetrain r p, .quadrantPark r q, .quadrantUnpark r q] →
    Completes c s (fun t => rd t R.hifErrStatProtected = 1 ∧ Leaves [R.hifErrStatProtected] s t ∧
      rest t = rest (dropLatch s r))) ∧
  (∀ (s : State) (r q : Nat), live s = true → isCore r = true → q < 4 → quadParked s q = false →
    mget s.mod.parking q = none →
    (parkRefusal s q = none → Completes (.quadrantPark r q) s (fun t => mget t.mod.parking q = some (uptime s) ∧
      bit (rd t R.pwrParkReq) q = true ∧ Leaves [R.pwrParkReq] s t)) ∧
    (∀ c, parkRefusal s q = some c → Completes (.quadrantPark r q) s (fun t => t.mod = s.mod ∧
      rdStat t R.pwrParkStatus = c ∧ Leaves [R.pwrParkReq] s t))) ∧
  (∀ (s : State) (q a : Nat), live s = true → q < 4 → mget s.mod.parking q = some a →
    (poolsHold s q = false → Completes (.parkComplete q) s (fun t => mget t.mod.parking q = none ∧ quadParked t q = true ∧
      rdStat t R.pwrParkStatus = .ok ∧ (rd s (R.hbmStatState q) = 3 → rd t (R.hbmStatState q) = 4))) ∧
    (poolsHold s q = true → a + 10 ^ 9 ≤ uptime s → Completes (.parkDrainTimeout q) s (fun t =>
      mget t.mod.parking q = none ∧
      rdStat t R.pwrParkStatus = .busy ∧ t.cel = s.cel ∧ Leaves [] s t))) ∧
  (∀ (s : State) (r q : Nat), live s = true → isCore r = true → q < 4 →
    (quadParked s q = true → mget s.mod.unparking q = none → Completes (.quadrantUnpark r q) s (fun t =>
      mget t.mod.unparking q = some false ∧ rd t (R.hbmStatState q) = 2 ∧ q ∈ t.hbm.initial ∧
      bit (rd t R.pwrParkReq) q = false ∧ quadParked t q = true)) ∧
    (quadParked s q = false → Completes (.quadrantUnpark r q) s (fun t =>
      mget t.mod.parking q = none ∧
      bit (rd t R.pwrParkReq) q = false ∧ Leaves [R.pwrParkReq] s t)))

/-! ### Images and firmware (chapters 2 and 15) -/

/-- R59–R66, R388, R408, R409, R496: a full image that passes its checks is staged and its application begins TEST;
  one that fails shows its DETAIL, and its record is awaited before the flash is released; a partial image starts a
  splice; FLASH_IMAGE, BOOT_SET and ROLLBACK_COMMIT; firmware restarts core by core. It rests on the model's
  readings in logs 4, 21, 30, 38 and 39. -/
def Obligations.ImagesAndFirmwareAreChecked : Prop :=
  (∀ (s u : State) (ids : List StackId) (hurt : List Nat) (b : List Byte), live s = true → mode s = .load →
    rd s R.imgStatPhase = 1 → s.img.staged = none → u = (List.range 4).foldl (identify ids) s →
    b = slotImage s s.img.loadSlot →
    (∀ x, checkFull u b hurt = .ok x → Completes (.imageReadDone ids hurt) s (fun t => t.img.staged = some b ∧
      rd t R.imgStatPhase = 4 ∧ mode t = .load)) ∧
    (∀ d x, checkFull u b hurt = .error (d, x) → d < 256 → x < 65536 → rdB s R.imgBootFallbackEn = false →
      64 * (u.saf.jTail.length + 1) ≤ rd u R.jnlCfgTailMax →
      Completes (.imageReadDone ids hurt) s (fun t => rd t R.imgStatPhase = 6 ∧ rd t R.imgStatDetail = d ∧
        rd t R.imgStatSection = x ∧ rdStat t R.imgStatStatus = detailStatus d ∧ t.img.qspiOut = s.img.qspiOut ∧
        t.img.qspiAfter = some (rd u R.jnlStatSeq) ∧
        t.img.staged = none ∧ mode t = .load))) ∧
  (∀ (s : State) (v : Nat) (b : List Byte), live s = true → mode s = .load → s.img.staged = some b →
    rdB s R.keyStatDevkeys = true → v < 65536 →
    Completes (.loadApplyDone v) s (fun t => mode t = .test ∧ t.img.running = imSections s b ∧ t.saf.holdupTest = true ∧ t.saf.v0 = v ∧
      .pin "HOLDUP_TEST" true ∈ t.sent ∧ t.mod.tested = false ∧ t.mod.failed = [])) ∧
  (∀ (s : State) (h : CmdHdr) (b : List Byte), live s = true → ByCore h → modeIn s [.serve, .splice] = true →
    s.img.part = none →
    (∀ l r v, checkPartial s b = .ok l → regionMap b = [(r, v)] → r < 128 → Completes (.imagePartial h b) s (fun t =>
      Answers h .ok [] t ∧ t.img.part = some ⟨l, [(r, v)]⟩ ∧ mode t = .splice ∧
      rd t (R.imgRegionVerPending r) = 1 ∧ rd t R.modSpliceRegion = r ∧ rd t R.imgStatPartial = 1)) ∧
    (∀ d x, checkPartial s b = .error (d, x) → d < 256 → x < 65536 → Completes (.imagePartial h b) s (fun t =>
      Answers h (detailStatus d) [] t ∧ t.img = { s.img with staging := b } ∧ rd t R.imgStatDetail = d ∧ rd t R.imgStatSection = x))) ∧
  (∀ (s : State) (h : CmdHdr) (b : List Byte), live s = true → ByCore h → modeIn s commandModes = true →
    s.img.part = none →
    (∀ x, checkFull s b [] = .ok x →
      Completes (.flashImage h 0 b) s (fun t => Answers h .ok [] t ∧
        t.img = { s.img with slot0 := b, staging := b } ∧ rd t (R.keySlotState 2) = 0 ∧
        (imEncrypted b = false → rd s (R.keySlotState 2) = 0 → Leaves [] s t)) ∧
      Completes (.flashImage h 1 b) s (fun t => Answers h .ok [] t ∧
        t.img = { s.img with slot1 := b, staging := b } ∧ rd t (R.keySlotState 2) = 0)) ∧
    (∀ d x, checkFull s b [] = .error (d, x) → ∀ slot, slot < 2 →
      Completes (.flashImage h slot b) s (fun t =>
      Answers h (detailStatus d) (toLe 2 d ++ toLe 2 x) t ∧ t.img = { s.img with staging := b } ∧ mode t = mode s)) ∧
    (fwRefusal s b = none → Completes (.flashImage h 2 b) s (fun t => Answers h .ok [] t ∧ t.mod.fwA = b ∧
      t.mod.fwB = s.mod.fwB ∧ t.img = s.img ∧ Leaves [] s t)) ∧
    (∀ c, fwRefusal s b = some c → Completes (.flashImage h 3 b) s (fun t => Answers h c [] t ∧ t.mod = s.mod ∧
      t.img = s.img ∧ Leaves [] s t))) ∧
  (∀ (s : State) (h : CmdHdr) (slot fb : Nat), live s = true → ByCore h → slot < 2 → fb < 2 →
    rd s R.modFwSlotNext < 2 →
    Completes (.bootSet h slot fb) s (fun t => Answers h .ok [] t ∧ rd t R.imgBootSlot = slot ∧
      rd t R.imgBootFallbackEn = fb ∧ rd t R.modFwSlotNext = rd s R.modFwSlotNext ∧
      ∃ r, (t.img.bootA = some r ∨ t.img.bootB = some r) ∧ r.imgSlot = slot ∧ r.fallback = (fb == 1) ∧
        r.fwSlot = rd s R.modFwSlotNext)) ∧
  (∀ (s : State) (h : CmdHdr), live s = true → ByCore h → mode s = .serve → rd s R.imgImageVerRollback < 128 →
    (rd s R.imgFuseRollbackFuses < rd s R.imgImageVerRollback →
      Completes (.rollbackCommit h none) s (fun t => Answers h .ok [] t ∧
        rd t R.imgFuseRollbackFuses = rd s R.imgImageVerRollback) ∧
      ∀ n : Nat, Completes (.rollbackCommit h (some n)) s (fun t =>
        rd t R.imgFuseRollbackFuses = min (rd s R.imgImageVerRollback) (rd s R.imgFuseRollbackFuses + n))) ∧
    (rd s R.imgImageVerRollback ≤ rd s R.imgFuseRollbackFuses → Completes (.rollbackCommit h none) s (fun t =>
      Answers h .invalid [] t ∧ Leaves [] s t))) ∧
  (∀ (s : State) (r : Nat) (b : List Byte), live s = true → isCore r = true → modeIn s commandModes = true →
    rd s R.modFwStatPhase = 0 → b = fwImage s (rd s R.modFwSlotNext) →
    (restartRefusal s b = none → Completes (.fwRestart r) s (fun t => rd t R.modFwStatPhase = 2 ∧
      rd t R.modFwStatCore = 3 ∧ rd t R.modFwStatRelease = fwRelease b ∧ rd t (R.safWdtSuspended 3) = 1 ∧
      t.mod.restart.map (fun x => (x.slot, x.old)) = some (rd s R.modFwSlotNext, rd s R.idFwVerRelease))) ∧
    (∀ c, restartRefusal s b = some c → Completes (.fwRestart r) s (fun t => rdStat t R.modFwStatus = c ∧
      t.mod = s.mod ∧ Leaves [] s t))) ∧
  (∀ (s : State) (x : RestartS) (c : Nat), live s = true → s.mod.restart = some x → c = rd s R.modFwStatCore → c < 4 →
    (∀ e ∈ s.host.takenBy, e.2 ≠ 32 + c) → (∀ n ∈ x.moved, n < 32) →
    (c ≠ 0 → Completes .fwCoreRestartDone s (fun t => rd t R.modFwStatCore = c - 1 ∧ rd t (R.safWdtSuspended c) = 0 ∧
      rd t (R.safWdtSuspended (c - 1)) = 1 ∧ bit (rd t R.modFwStatCoreSlot) c = (x.slot == 1))) ∧
    (c = 0 → Completes .fwCoreRestartDone s (fun t => rd t R.modFwStatPhase = 0 ∧ t.mod.restart = none ∧
      rdStat t R.modFwStatus = .ok ∧ rd t R.idFwVerRelease = rd s R.modFwStatRelease % 2 ^ 32)))

/-! ### Resets (chapter 15) -/

/-- R393–R396, R402, R408, R456, R480: power-on, cold and warm resets, the removal of power and a freeze's last steps;
fuses, PLLs and the missing clock; firmware starts from the slot that verifies, or both slots fail.
It rests on the model's readings in logs 7, 21, 22 and 48. -/
def Obligations.ResetSequencesRun : Prop :=
  (∀ (s : State) (a b : Nat) (f : Option FlashS), Completes (.powerGood a b f) s (fun t => t.mod.seq = .fuses ∧
      rd t R.pwrRstCauseCause = 1 ∧ rd t R.pwrRstCauseFromFreeze = 0 ∧ rd t R.pwrRstCauseTailLost = 0 ∧
      t.saf.jTail = [] ∧ t.saf.jFlash = s.saf.jFlash ∧ t.saf.jMirror = [] ∧
      (∀ x, f = some x → t.img.slot0 = x.slot0 ∧ t.img.slot1 = x.slot1 ∧ t.mod.fwA = x.fwA ∧ t.mod.fwB = x.fwB) ∧ t.cel = .reset ∧ t.tim = .reset ∧
      t.keys = .reset ∧ t.tab = .reset ∧ t.flo = .reset ∧ t.eng = .reset ∧ t.hbm = .reset ∧ t.clu = .reset ∧
      t.fuse = s.fuse ∧ t.pending = s.pending) ∧
    Completes .powerRemoval s (fun t => t.mod.seq = .off ∧ t.saf.jTail = [] ∧ t.cel = .reset ∧ t.keys = .reset ∧
      t.hbm = .reset) ∧
    (s.mod.seq ≠ .off → Completes (.pwrRstN a b f) s (fun t => t.mod.seq = .fuses ∧
      rd t R.pwrRstCauseCause = 2 ∧ rd t R.pwrRstCauseFromFreeze = b2n (modeIn s [.freeze]) ∧
      rd t R.pwrRstCauseTailLost = b2n (s.saf.jTail != []) ∧ t.saf.jTail = [] ∧ t.saf.jFlash = s.saf.jFlash ∧
      t.cel = .reset ∧ t.keys = .reset ∧ t.hbm = .reset ∧ t.mod.strapFlash = a % 4))) ∧
  (∀ s : State, live s = true →
    Completes .warmRstN s (fun t => t.mod.seq = .commit ∧ t.mod.cause = 3 ∧ mode t = .reset ∧ t.cel = .reset ∧
      t.saf.jTail = s.saf.jTail) ∧
    (∀ h, ByCore h → Completes (.warmReset h) s (fun t => Answers h .ok [] t ∧ t.mod.warmDue = true ∧
      t.mod.warmAt = none ∧ t.cel = s.cel)) ∧
    (∀ a, s.mod.warmDue = true → s.mod.warmAt = some a → a + 100000 ≤ uptime s → Completes .warmResetStart s (fun t => t.mod.seq = .commit ∧ t.mod.cause = 4 ∧
      mode t = .reset ∧ t.cel = .reset))) ∧
  (∀ s : State, s.mod.seq = .commit → s.mod.cause < 16 → s.saf.pfwN = false →
    Completes .warmResetCommitDone s (fun t => t.mod.seq = .fuses ∧ rd t R.pwrRstCauseCause = s.mod.cause ∧
      rd t R.pwrRstCauseTailLost = 0 ∧ t.saf.jTail = [] ∧ t.saf.jFlash = ringPut s.saf.jFlash s.saf.jTail ∧
      t.hbm.mem = s.hbm.mem ∧ t.hbm.poison = s.hbm.poison ∧ t.keys = .reset ∧ t.tab = .reset ∧
      rd t R.safFaultFault = rd s R.safFaultFault &&& (2 ^ 1 + 2 ^ 17))) ∧
  (∀ s : State, mode s = .freeze → s.ctr.frzStep = 4 →
    (s.ctr.frzWarm = false → Completes .freezeJournalCommitDone s (fun t => t.ctr.frzStep = 7 ∧ mode t = .freeze ∧
      t.saf.jTail = [] ∧ t.saf.jFlash = ringPut s.saf.jFlash s.saf.jTail ∧ t.saf.jMirror = s.saf.jMirror ∧
      t.hbm.mem = s.hbm.mem)) ∧
    (s.ctr.frzWarm = true → Completes .freezeJournalCommitDone s (fun t => t.mod.seq = .fuses ∧
      rd t R.pwrRstCauseFromFreeze = 1 ∧ t.hbm.mem = s.hbm.mem))) ∧
  (∀ (s : State) (x : PartS) (f : FuseS), s.mod.seq = .fuses → s.fuse.sensed = false → x.part < 65536 → x.step < 256 →
    x.variant < 2 →
    Completes (.fuseSense x f) s (fun t => t.mod.seq = .plls ∧ t.fuse = { f with sensed := true } ∧
      rd t R.idPartPart = x.part ∧ rd t R.idPartVariant = x.variant ∧
      rd t R.imgFuseRollbackFuses = min 64 x.rollback ∧ slotLoaded t 0 = true)) ∧
  (∀ s : State, s.mod.seq = .plls →
    (s.mod.clkWait = false → Completes (.pllLock true) s (fun t => t.mod.seq = .verify ∧
      t.mod.fwSlot = rd s R.modFwSlotNext ∧ ∀ l, l < 10 → rd s (R.fabLinkState l) ≠ 2 → rd t (R.fabLinkState l) = 1)) ∧
    Completes (.pllLock false) s (fun t => t.mod.seq = .plls ∧ t.mod.clkWait = true ∧ Leaves [] s t) ∧
    (s.mod.clkWait = true → Completes .refclkAppear s (fun t => t.mod.clkWait = false ∧ t.mod.clkLate = true ∧
      t.mod.seq = .plls ∧ Leaves [] s t))) ∧
  (∀ (s : State) (n : Nat), s.mod.seq = .verify →
    (fwRefusal s (fwImage s s.mod.fwSlot) = none → 4096 ≤ n → Completes (.fwVerifyDone n) s (fun t =>
      t.mod.seq = .running ∧ mode t = .load ∧ rd t R.imgStatPhase = 1 ∧
      rd t R.timBootBoot = (rd s R.timBootBoot + 1) % 2 ^ 32 ∧ rd t R.jnlCfgTailMax = tailMaxOf n ∧
      t.saf.aonFault = false)) ∧
    (∀ c, fwRefusal s (fwImage s s.mod.fwSlot) = some c →
      (s.mod.fwTried = false → Completes (.fwVerifyDone n) s (fun t => t.mod.seq = .verify ∧
        t.mod.fwSlot = 1 - s.mod.fwSlot ∧ t.mod.fwTried = true)) ∧
      (s.mod.fwTried = true → Completes (.fwVerifyDone n) s (fun t => t.mod.seq = .failed ∧ rd t R.modStatFwErr = 1 ∧
        t.mod.failAt = some (uptime s))))) ∧
  (∀ (s : State) (a : Nat), s.mod.seq = .failed → s.mod.failAt = some a →
    (a + 10 ^ 8 ≤ uptime s → Completes .fwFailQspiRelease s (fun t => t.img.qspiOut = true ∧ Leaves [] s t)) ∧
    (uptime s < a + 10 ^ 8 → Completes .fwFailQspiRelease s (fun t => t = finish s s)))

/-- R237, R318, R332, R333, R350, R397, R398, R415: PERST_N takes the link and rings down, or ends a wake; a master
  that is reset owns no lock and its data mailboxes are emptied; a domain reset is refused where R397 says so and
  else restarts its pipe, group, stack or core; a watchdog that expires sets code 15. It rests on the model's
  readings in logs 21, 47 and 48. -/
def Obligations.MastersAndDomainsReset : Prop :=
  (∀ s : State, live s = true →
    (s.host.wakeN = false → Completes (.perstN true) s (fun t => t.host.link = .down ∧ t.host.ringTail = [] ∧
      t.host.batches = [] ∧ t.host.vecHeld = [] ∧ t.host.msixMask = [] ∧ t.host.msixPend = [])) ∧
    (s.host.wakeN = true → Completes (.perstN true) s (fun t => t.host.link = .down ∧ t.host.wakeEnding = true ∧
      Leaves [] s t) ∧
      Completes (.perstN false) s (fun t => t.host.wakeN = false ∧ .pin "WAKE_N" true ∈ t.sent ∧ Leaves [] s t))) ∧
  (∀ (s : State) (r : Nat), live s = true → r ≠ 0 → r < 0x3F →
    (∀ e ∈ s.keys.sess, e.1 ≤ 16 ∧ e.2.1 < 64 ∧ e.2.2 < 64) →
    Completes (.masterReset r) s (fun t => (∀ n, 32 ≤ n → n < 64 → lockOwner t n ≠ r) ∧
      ∀ n, n < 32 → rd s (R.mbxCfgReader n) = r → mbxState s n = 1 →
        mbxState t n = 0 ∧ rd t (R.mbxStatAborted n) = 1) ∧
    (r ≤ 18 → Completes (.flr r) s (fun t => (∀ n, 32 ≤ n → n < 64 → lockOwner t n ≠ r) ∧
      (r = 2 → t.host.ringTail = [] ∧ ∀ i, i < 128 → rd t (R.hifRingCfgSizeLog2 i) = 0)))) ∧
  (∀ (s : State) (r q i : Nat), live s = true → isCore r = true → q < 4 → i < 16 → mode s = .safe →
    (9 ≤ i → Completes (.domainResetPipe r q i) s (fun t => rdStat t R.pwrDomRstStatus = .invalid ∧ t.pipe = s.pipe)) ∧
    (i < 9 → quadParked s q = true → Completes (.domainResetPipe r q i) s (fun t =>
      rdStat t R.pwrDomRstStatus = .refusedMode ∧ t.pipe = s.pipe)) ∧
    (i < 9 → quadParked s q = false → pipeServes s (9 * q + i) = true → Completes (.domainResetPipe r q i) s (fun t =>
      rdStat t R.pwrDomRstStatus = .busy ∧ t.pipe = s.pipe)) ∧
    (i < 9 → quadParked s q = false → pipeServes s (9 * q + i) = false → handNames s q i = false →
      Completes (.domainResetPipe r q i) s (fun t => rdStat t R.pwrDomRstStatus = .ok ∧ t.pipe.prog = s.pipe.prog ∧
        (spareOf s q = i → rd t (R.modSpareSpare q) = 15 ∧ mget t.pipe.testing q = some i))) ∧
    (i < 8 → quadParked s q = false → Completes (.domainResetGroup r q i) s (fun t =>
      rdStat t R.pwrDomRstStatus = .ok ∧
      ∀ e ∈ t.eng.scratch, e.1 < 65536 * (8 * q + i) ∨ 65536 * (8 * q + i) + 65536 ≤ e.1)) ∧
    (quadParked s q = false → memBusy s q = false → Completes (.domainResetStack r q i) s (fun t =>
      rd t (R.hbmStatState q) = 2 ∧ q ∈ t.hbm.initial)) ∧
    (quadParked s q = false → memBusy s q = true → Completes (.domainResetStack r q i) s (fun t =>
      rdStat t R.pwrDomRstStatus = .busy ∧ t.hbm = s.hbm)) ∧
    (i < 4 → (∀ e ∈ s.keys.sess, e.1 ≤ 16 ∧ e.2.1 < 64 ∧ e.2.2 < 64) → Completes (.domainResetCore r q i) s (fun t =>
      ∀ n, 32 ≤ n → n < 64 → lockOwner t n ≠ 32 + i))) ∧
  (∀ (s : State) (c : Nat), live s = true → mode s = .safe → c < 4 →
    (rdB s (R.safWdtSuspended c) = false → mgetD s.saf.wdtAt c 0 + 1000 * rd s (R.safWdtTimeoutUs c) ≤ uptime s → (∀ e ∈ s.keys.sess, e.1 ≤ 16 ∧ e.2.1 < 64 ∧ e.2.2 < 64) →
      Completes (.watchdogExpire c) s (fun t => bit (rd t R.safFaultFault) 15 = true ∧
        ∀ n, 32 ≤ n → n < 64 → lockOwner t n ≠ 32 + c)) ∧
    (rdB s (R.safWdtSuspended c) = true ∨ uptime s < mgetD s.saf.wdtAt c 0 + 1000 * rd s (R.safWdtTimeoutUs c) →
      Completes (.watchdogExpire c) s (fun t => t.saf = s.saf ∧ Leaves [] s t)))

/-! ### The block as a whole -/

/-- One step takes the command in front: it is exec of that command on the state whose queue is the rest. An empty
  queue lets a TIM cycle pass (the model's choice, log 1). -/
def Obligations.StepRunsTheFrontCommand : Prop :=
  (∀ (c : Instr) (cs : List Instr) (s : State), step { s with pending := c :: cs } = exec c { s with pending := cs }) ∧
  (∀ s : State, s.pending = [] → step s = idleStep s)

/-- Every command is carried out: exec answers a next state in every state and for all operands, and leaves the
  queue of waiting commands alone. It rests on the model's readings in log 1. -/
def Obligations.EveryCommandIsAnswered : Prop :=
  ∀ (c : Instr) (s : State), ∃ t, exec c s = .next t ∧ t.pending = s.pending

/-- R420, R421: SAFE_N and FAULT_N are asserted exactly when the rules say so, after every step from a state in which
they are, whatever command the step runs.
It rests on the model's readings in log 24. -/
def Obligations.PinsAlwaysFollow : Prop :=
  ∀ s t : State, step s = .next t → PinsRight s → PinsRight t

/-- R395, R402, R420, R421: right after a power-on reset the mode is RESET, SAFE_N and FAULT_N are asserted and right,
the cause is power-on, and what the reset loses is empty: cells, tasks, key slots, flow records, HBM and the journal's
tail; no command waits.
It rests on the model's readings in logs 8 and 33. -/
def Obligations.ResetLeavesTheBlockEmpty : Prop :=
  mode State.reset = .reset ∧ rdB State.reset R.safStatSafeN = true ∧ rdB State.reset R.safStatFaultN = true ∧
  PinsRight State.reset ∧ MemCanonical State.reset ∧ rd State.reset R.pwrRstCauseCause = 1 ∧
  State.reset.cel.cells = [] ∧ State.reset.cel.frames = [] ∧ State.reset.cel.nodes = [] ∧ State.reset.eng.tasks = [] ∧
  State.reset.keys.slots = [] ∧ State.reset.keys.sess = [] ∧ State.reset.flo.lines = [] ∧ State.reset.hbm.mem = [] ∧
  State.reset.saf.jTail = [] ∧ State.reset.tim.oper = [] ∧ State.reset.tim.rsv = [] ∧ uptime State.reset = 0 ∧
  timeValid State.reset = false ∧ State.reset.pending = []
end

