-- ==== Sys2Proof/Laws/Maps.lean ====
section
/-!
SUPPORT. Laws of sparse maps: what a read gives after a write, a deletion or a change.
-/

namespace Sys2Proof.Laws

open Sys2Proof Sys2Proof.Machine

variable {α : Type}

theorem mget_mins_self (m : NMap α) (k : Nat) (v : α) (h : mget m k = none) : mget (mins m k v) k = some v := by
  induction m with
  | nil => simp [mins, mget]
  | cons e m ih =>
    obtain ⟨k', v'⟩ := e
    simp only [mget] at h
    split at h
    · cases h
    · rename_i hk
      simp only [mins]
      split
      · simp [mget]
      · simp [mget, hk, ih h]

theorem mget_mins_ne (m : NMap α) (k j : Nat) (v : α) (h : k ≠ j) : mget (mins m k v) j = mget m j := by
  induction m with
  | nil => simp [mins, mget, h]
  | cons e m ih =>
    obtain ⟨k', v'⟩ := e
    simp only [mins]
    split
    · simp [mget, h]
    · simp [mget, ih]

@[simp] theorem mget_mdel_self (m : NMap α) (k : Nat) : mget (mdel m k) k = none := by
  induction m with
  | nil => rfl
  | cons e m ih =>
    obtain ⟨k', v'⟩ := e
    simp only [mdel, List.filter_cons]
    split
    · rename_i hk
      simp only [mget]
      rw [if_neg (by simpa using hk)]
      exact ih
    · exact ih

theorem mget_mdel_ne (m : NMap α) (k j : Nat) (h : k ≠ j) : mget (mdel m k) j = mget m j := by
  induction m with
  | nil => rfl
  | cons e m ih =>
    obtain ⟨k', v'⟩ := e
    simp only [mdel, List.filter_cons]
    split
    · simp only [mget]
      split
      · rfl
      · exact ih
    · rename_i hk
      have hk' : k' = k := by simpa using hk
      simp only [mget]
      rw [if_neg (by omega)]
      exact ih

@[simp] theorem mget_mset_self (m : NMap α) (k : Nat) (v : α) : mget (mset m k v) k = some v :=
  mget_mins_self _ _ _ (mget_mdel_self m k)

theorem mget_mset_ne (m : NMap α) (k j : Nat) (v : α) (h : k ≠ j) : mget (mset m k v) j = mget m j := by
  rw [mset, mget_mins_ne _ _ _ _ h, mget_mdel_ne _ _ _ h]

theorem mget_mset (m : NMap α) (k j : Nat) (v : α) :
    mget (mset m k v) j = if k = j then some v else mget m j := by
  split
  · rename_i h; subst h; simp
  · rename_i h; exact mget_mset_ne m k j v h

theorem mget_mdel (m : NMap α) (k j : Nat) :
    mget (mdel m k) j = if k = j then none else mget m j := by
  split
  · rename_i h; subst h; simp
  · rename_i h; exact mget_mdel_ne m k j h

theorem mget_mmod_self (m : NMap α) (k : Nat) (f : α → α) : mget (mmod m k f) k = (mget m k).map f := by
  unfold mmod
  cases h : mget m k <;> simp [h]

theorem mget_mmod_ne (m : NMap α) (k j : Nat) (f : α → α) (h : k ≠ j) : mget (mmod m k f) j = mget m j := by
  unfold mmod
  split
  · exact mget_mset_ne _ _ _ _ h
  · rfl

@[simp] theorem mgetD_mset_self (m : NMap α) (k : Nat) (v d : α) : mgetD (mset m k v) k d = v := by
  simp [mgetD]

theorem mgetD_mset_ne (m : NMap α) (k j : Nat) (v d : α) (h : k ≠ j) : mgetD (mset m k v) j d = mgetD m j d := by
  simp [mgetD, mget_mset_ne _ _ _ _ h]

@[simp] theorem mgetD_mdel_self (m : NMap α) (k : Nat) (d : α) : mgetD (mdel m k) k d = d := by
  simp [mgetD]

theorem mgetD_mdel_ne (m : NMap α) (k j : Nat) (d : α) (h : k ≠ j) : mgetD (mdel m k) j d = mgetD m j d := by
  simp [mgetD, mget_mdel_ne _ _ _ h]

end Sys2Proof.Laws
end

