-- ==== Sys2Proof/Laws/Fields.lean ====
section
/-!
SUPPORT. Laws of register fields: a field read after a write of it, of another field, or of anything else
in the state.
-/

namespace Sys2Proof.Laws

open Sys2Proof Sys2Proof.Machine

/-- A field read in a register map. -/
def rdR (m : NMap Nat) (f : Fld) : Nat := mgetD m (fkey f) f.rst

@[simp] theorem rdR_regs (s : State) (f : Fld) : rdR s.regs f = rd s f := rfl

theorem rdR_put_self (m : NMap Nat) (f : Fld) (v : Nat) : rdR (putField m f v) f = v % 2 ^ f.wid := by
  unfold rdR putField
  split
  · rename_i h; simp [h]
  · simp

theorem rdR_put_ne (m : NMap Nat) (f g : Fld) (v : Nat) (h : fkey f ≠ fkey g) :
    rdR (putField m f v) g = rdR m g := by
  unfold rdR putField
  split
  · exact mgetD_mdel_ne _ _ _ _ h
  · exact mgetD_mset_ne _ _ _ _ _ h

/-- The STATUS fields of a map. -/
def rdC (m : NMap Status) (f : Fld) : Status := mgetD m (fkey f) .ok

@[simp] theorem rdC_stats (s : State) (f : Fld) : rdC s.stats f = rdStat s f := rfl

/-- A field depends on the register map alone. -/
@[simp] theorem rd_mk (r : NMap Nat) (c : NMap Status) (fr : NMap Nat) (ho : HostS) (sa : SafeS) (ct : CtrS) (ce : CelS)
    (ti : TimS) (fu : FuseS) (im : ImgS) (mo : ModS) (pi : PipeS) (ke : KeyS) (ta : TakeS) (tb : TabS) (hb : HbmS)
    (fl : FloS) (en : EngS) (cl : ClusterS) (se : List Sent) (n : Nat) (p : List Instr) (f : Fld) :
    rd ⟨r, c, fr, ho, sa, ct, ce, ti, fu, im, mo, pi, ke, ta, tb, hb, fl, en, cl, se, n, p⟩ f = rdR r f := rfl

@[simp] theorem rdStat_mk (r : NMap Nat) (c : NMap Status) (fr : NMap Nat) (ho : HostS) (sa : SafeS) (ct : CtrS)
    (ce : CelS) (ti : TimS) (fu : FuseS) (im : ImgS) (mo : ModS) (pi : PipeS) (ke : KeyS) (ta : TakeS) (tb : TabS)
    (hb : HbmS) (fl : FloS) (en : EngS) (cl : ClusterS) (se : List Sent) (n : Nat) (p : List Instr) (f : Fld) :
    rdStat ⟨r, c, fr, ho, sa, ct, ce, ti, fu, im, mo, pi, ke, ta, tb, hb, fl, en, cl, se, n, p⟩ f = rdC c f := rfl

theorem rd_wr_self (s : State) (f : Fld) (v : Nat) : rd (wr s f v) f = v % 2 ^ f.wid := rdR_put_self s.regs f v

theorem rd_wr_ne (s : State) (f g : Fld) (v : Nat) (h : fkey f ≠ fkey g) : rd (wr s f v) g = rd s g :=
  rdR_put_ne s.regs f g v h

theorem rd_wr (s : State) (f g : Fld) (v : Nat) :
    rd (wr s f v) g = if fkey f = fkey g then rd (wr s f v) g else rd s g := by
  split
  · rfl
  · rename_i h; exact rd_wr_ne s f g v h

theorem rd_wrB_ne (s : State) (f g : Fld) (b : Bool) (h : fkey f ≠ fkey g) : rd (wrB s f b) g = rd s g :=
  rd_wr_ne s f g _ h

theorem rd_wrFlash_self (s : State) (f : Fld) (v : Nat) : rd (wrFlash s f v) f = v % 2 ^ f.wid :=
  rdR_put_self s.regs f v

theorem rd_wrFlash_ne (s : State) (f g : Fld) (v : Nat) (h : fkey f ≠ fkey g) : rd (wrFlash s f v) g = rd s g :=
  rdR_put_ne s.regs f g v h

theorem b2n_le (b : Bool) : b2n b < 2 := by cases b <;> decide

theorem rd_wrB_self (s : State) (f : Fld) (b : Bool) (h : f.wid = 1) : rd (wrB s f b) f = b2n b := by
  unfold wrB
  rw [rd_wr_self, h]
  exact Nat.mod_eq_of_lt (b2n_le b)

@[simp] theorem rd_emit (s : State) (o : Sent) (f : Fld) : rd (emit s o) f = rd s f := rfl
@[simp] theorem rd_wrStat (s : State) (f g : Fld) (c : Status) : rd (wrStat s f c) g = rd s g := rfl
@[simp] theorem rd_freeVal (s : State) (w : Nat) (f : Fld) : rd (freeVal s w).2 f = rd s f := rfl
@[simp] theorem rd_freeBytes (s : State) (n : Nat) (f : Fld) : rd (freeBytes s n).2 f = rd s f := rfl

@[simp] theorem rdStat_wrStat_self (s : State) (f : Fld) (c : Status) : rdStat (wrStat s f c) f = c := by
  simp [rdStat, wrStat]

theorem rdStat_wrStat_ne (s : State) (f g : Fld) (c : Status) (h : fkey f ≠ fkey g) :
    rdStat (wrStat s f c) g = rdStat s g := by
  unfold rdStat wrStat
  exact mgetD_mset_ne _ _ _ _ _ h

@[simp] theorem wrs_nil (s : State) : wrs s [] = s := rfl
@[simp] theorem wrs_cons (s : State) (f : Fld) (v : Nat) (l : List (Fld × Nat)) :
    wrs s ((f, v) :: l) = wrs (wr s f v) l := rfl

/-- A fold of steps that leave a view of the state alone leaves it alone. -/
theorem foldl_keep {β γ : Type} (view : State → γ) (f : State → β → State) (h : ∀ s b, view (f s b) = view s)
    (l : List β) (s : State) : view (l.foldl f s) = view s := by
  induction l generalizing s with
  | nil => rfl
  | cons b l ih => rw [List.foldl_cons, ih, h]

/-- A field read as a number fits its width if the register map was written by `wr`. -/
theorem rdB_wr_self (s : State) (f : Fld) (v : Nat) : rdB (wr s f v) f = (v % 2 ^ f.wid != 0) := by
  unfold rdB
  rw [rd_wr_self]

end Sys2Proof.Laws
end

