-- ==== Sys2Proof/Laws/State.lean ====
section
/-!
SUPPORT. One lemma per field of State and basic update: what the update writes and what it leaves alone.
-/

namespace Sys2Proof.Laws

open Sys2Proof Sys2Proof.Machine

@[simp] theorem emit_sent (s : State) (o : Sent) : (emit s o).sent = s.sent ++ [o] := rfl
@[simp] theorem freeVal_fresh (s : State) (w : Nat) : (freeVal s w).2.fresh = s.fresh + 1 := rfl
@[simp] theorem freeBytes_fresh (s : State) (n : Nat) : (freeBytes s n).2.fresh = s.fresh + n := rfl
@[simp] theorem holdVec_host_vecHeld (s : State) (a b : Nat) :
    (holdVec s a b).host.vecHeld = s.host.vecHeld ++ [(a, b)] := rfl
@[simp] theorem setWake_host_wakeN (s : State) (b : Bool) : (setWake s b).host.wakeN = b := rfl
@[simp] theorem setEvSeq_host_evSeq (s : State) (n : Nat) : (setEvSeq s n).host.evSeq = n := rfl
@[simp] theorem setTrigger_ctr_frzReq (s : State) (c u : Nat) (h : s.ctr.frzReq = none) :
    (setTrigger s c u).ctr.frzReq = some (c, u) := by simp [setTrigger, h]
@[simp] theorem setJTail_saf_jTail (s : State) (l : List JRec) : (setJTail s l).saf.jTail = l := rfl
@[simp] theorem setJOver_saf_jOver (s : State) (l : List JRec) : (setJOver s l).saf.jOver = l := rfl
@[simp] theorem setJLost_saf_jLost (s : State) (n : Nat) : (setJLost s n).saf.jLost = n := rfl

@[simp] theorem wr_stats (s : State) (f : Fld) (v : Nat) : (wr s f v).stats = s.stats := rfl
@[simp] theorem wr_flashRegs (s : State) (f : Fld) (v : Nat) : (wr s f v).flashRegs = s.flashRegs := rfl
@[simp] theorem wr_host (s : State) (f : Fld) (v : Nat) : (wr s f v).host = s.host := rfl
@[simp] theorem wr_saf (s : State) (f : Fld) (v : Nat) : (wr s f v).saf = s.saf := rfl
@[simp] theorem wr_ctr (s : State) (f : Fld) (v : Nat) : (wr s f v).ctr = s.ctr := rfl
@[simp] theorem wr_cel (s : State) (f : Fld) (v : Nat) : (wr s f v).cel = s.cel := rfl
@[simp] theorem wr_tim (s : State) (f : Fld) (v : Nat) : (wr s f v).tim = s.tim := rfl
@[simp] theorem wr_fuse (s : State) (f : Fld) (v : Nat) : (wr s f v).fuse = s.fuse := rfl
@[simp] theorem wr_img (s : State) (f : Fld) (v : Nat) : (wr s f v).img = s.img := rfl
@[simp] theorem wr_mod (s : State) (f : Fld) (v : Nat) : (wr s f v).mod = s.mod := rfl
@[simp] theorem wr_pipe (s : State) (f : Fld) (v : Nat) : (wr s f v).pipe = s.pipe := rfl
@[simp] theorem wr_keys (s : State) (f : Fld) (v : Nat) : (wr s f v).keys = s.keys := rfl
@[simp] theorem wr_take (s : State) (f : Fld) (v : Nat) : (wr s f v).take = s.take := rfl
@[simp] theorem wr_tab (s : State) (f : Fld) (v : Nat) : (wr s f v).tab = s.tab := rfl
@[simp] theorem wr_hbm (s : State) (f : Fld) (v : Nat) : (wr s f v).hbm = s.hbm := rfl
@[simp] theorem wr_flo (s : State) (f : Fld) (v : Nat) : (wr s f v).flo = s.flo := rfl
@[simp] theorem wr_eng (s : State) (f : Fld) (v : Nat) : (wr s f v).eng = s.eng := rfl
@[simp] theorem wr_clu (s : State) (f : Fld) (v : Nat) : (wr s f v).clu = s.clu := rfl
@[simp] theorem wr_sent (s : State) (f : Fld) (v : Nat) : (wr s f v).sent = s.sent := rfl
@[simp] theorem wr_fresh (s : State) (f : Fld) (v : Nat) : (wr s f v).fresh = s.fresh := rfl
@[simp] theorem wr_pending (s : State) (f : Fld) (v : Nat) : (wr s f v).pending = s.pending := rfl

@[simp] theorem wrB_stats (s : State) (f : Fld) (b : Bool) : (wrB s f b).stats = s.stats := rfl
@[simp] theorem wrB_flashRegs (s : State) (f : Fld) (b : Bool) : (wrB s f b).flashRegs = s.flashRegs := rfl
@[simp] theorem wrB_host (s : State) (f : Fld) (b : Bool) : (wrB s f b).host = s.host := rfl
@[simp] theorem wrB_saf (s : State) (f : Fld) (b : Bool) : (wrB s f b).saf = s.saf := rfl
@[simp] theorem wrB_ctr (s : State) (f : Fld) (b : Bool) : (wrB s f b).ctr = s.ctr := rfl
@[simp] theorem wrB_cel (s : State) (f : Fld) (b : Bool) : (wrB s f b).cel = s.cel := rfl
@[simp] theorem wrB_tim (s : State) (f : Fld) (b : Bool) : (wrB s f b).tim = s.tim := rfl
@[simp] theorem wrB_fuse (s : State) (f : Fld) (b : Bool) : (wrB s f b).fuse = s.fuse := rfl
@[simp] theorem wrB_img (s : State) (f : Fld) (b : Bool) : (wrB s f b).img = s.img := rfl
@[simp] theorem wrB_mod (s : State) (f : Fld) (b : Bool) : (wrB s f b).mod = s.mod := rfl
@[simp] theorem wrB_pipe (s : State) (f : Fld) (b : Bool) : (wrB s f b).pipe = s.pipe := rfl
@[simp] theorem wrB_keys (s : State) (f : Fld) (b : Bool) : (wrB s f b).keys = s.keys := rfl
@[simp] theorem wrB_take (s : State) (f : Fld) (b : Bool) : (wrB s f b).take = s.take := rfl
@[simp] theorem wrB_tab (s : State) (f : Fld) (b : Bool) : (wrB s f b).tab = s.tab := rfl
@[simp] theorem wrB_hbm (s : State) (f : Fld) (b : Bool) : (wrB s f b).hbm = s.hbm := rfl
@[simp] theorem wrB_flo (s : State) (f : Fld) (b : Bool) : (wrB s f b).flo = s.flo := rfl
@[simp] theorem wrB_eng (s : State) (f : Fld) (b : Bool) : (wrB s f b).eng = s.eng := rfl
@[simp] theorem wrB_clu (s : State) (f : Fld) (b : Bool) : (wrB s f b).clu = s.clu := rfl
@[simp] theorem wrB_sent (s : State) (f : Fld) (b : Bool) : (wrB s f b).sent = s.sent := rfl
@[simp] theorem wrB_fresh (s : State) (f : Fld) (b : Bool) : (wrB s f b).fresh = s.fresh := rfl
@[simp] theorem wrB_pending (s : State) (f : Fld) (b : Bool) : (wrB s f b).pending = s.pending := rfl

@[simp] theorem wrFlash_stats (s : State) (f : Fld) (v : Nat) : (wrFlash s f v).stats = s.stats := rfl
@[simp] theorem wrFlash_host (s : State) (f : Fld) (v : Nat) : (wrFlash s f v).host = s.host := rfl
@[simp] theorem wrFlash_saf (s : State) (f : Fld) (v : Nat) : (wrFlash s f v).saf = s.saf := rfl
@[simp] theorem wrFlash_ctr (s : State) (f : Fld) (v : Nat) : (wrFlash s f v).ctr = s.ctr := rfl
@[simp] theorem wrFlash_cel (s : State) (f : Fld) (v : Nat) : (wrFlash s f v).cel = s.cel := rfl
@[simp] theorem wrFlash_tim (s : State) (f : Fld) (v : Nat) : (wrFlash s f v).tim = s.tim := rfl
@[simp] theorem wrFlash_fuse (s : State) (f : Fld) (v : Nat) : (wrFlash s f v).fuse = s.fuse := rfl
@[simp] theorem wrFlash_img (s : State) (f : Fld) (v : Nat) : (wrFlash s f v).img = s.img := rfl
@[simp] theorem wrFlash_mod (s : State) (f : Fld) (v : Nat) : (wrFlash s f v).mod = s.mod := rfl
@[simp] theorem wrFlash_pipe (s : State) (f : Fld) (v : Nat) : (wrFlash s f v).pipe = s.pipe := rfl
@[simp] theorem wrFlash_keys (s : State) (f : Fld) (v : Nat) : (wrFlash s f v).keys = s.keys := rfl
@[simp] theorem wrFlash_take (s : State) (f : Fld) (v : Nat) : (wrFlash s f v).take = s.take := rfl
@[simp] theorem wrFlash_tab (s : State) (f : Fld) (v : Nat) : (wrFlash s f v).tab = s.tab := rfl
@[simp] theorem wrFlash_hbm (s : State) (f : Fld) (v : Nat) : (wrFlash s f v).hbm = s.hbm := rfl
@[simp] theorem wrFlash_flo (s : State) (f : Fld) (v : Nat) : (wrFlash s f v).flo = s.flo := rfl
@[simp] theorem wrFlash_eng (s : State) (f : Fld) (v : Nat) : (wrFlash s f v).eng = s.eng := rfl
@[simp] theorem wrFlash_clu (s : State) (f : Fld) (v : Nat) : (wrFlash s f v).clu = s.clu := rfl
@[simp] theorem wrFlash_sent (s : State) (f : Fld) (v : Nat) : (wrFlash s f v).sent = s.sent := rfl
@[simp] theorem wrFlash_fresh (s : State) (f : Fld) (v : Nat) : (wrFlash s f v).fresh = s.fresh := rfl
@[simp] theorem wrFlash_pending (s : State) (f : Fld) (v : Nat) : (wrFlash s f v).pending = s.pending := rfl

@[simp] theorem wrStat_regs (s : State) (f : Fld) (c : Status) : (wrStat s f c).regs = s.regs := rfl
@[simp] theorem wrStat_flashRegs (s : State) (f : Fld) (c : Status) : (wrStat s f c).flashRegs = s.flashRegs := rfl
@[simp] theorem wrStat_host (s : State) (f : Fld) (c : Status) : (wrStat s f c).host = s.host := rfl
@[simp] theorem wrStat_saf (s : State) (f : Fld) (c : Status) : (wrStat s f c).saf = s.saf := rfl
@[simp] theorem wrStat_ctr (s : State) (f : Fld) (c : Status) : (wrStat s f c).ctr = s.ctr := rfl
@[simp] theorem wrStat_cel (s : State) (f : Fld) (c : Status) : (wrStat s f c).cel = s.cel := rfl
@[simp] theorem wrStat_tim (s : State) (f : Fld) (c : Status) : (wrStat s f c).tim = s.tim := rfl
@[simp] theorem wrStat_fuse (s : State) (f : Fld) (c : Status) : (wrStat s f c).fuse = s.fuse := rfl
@[simp] theorem wrStat_img (s : State) (f : Fld) (c : Status) : (wrStat s f c).img = s.img := rfl
@[simp] theorem wrStat_mod (s : State) (f : Fld) (c : Status) : (wrStat s f c).mod = s.mod := rfl
@[simp] theorem wrStat_pipe (s : State) (f : Fld) (c : Status) : (wrStat s f c).pipe = s.pipe := rfl
@[simp] theorem wrStat_keys (s : State) (f : Fld) (c : Status) : (wrStat s f c).keys = s.keys := rfl
@[simp] theorem wrStat_take (s : State) (f : Fld) (c : Status) : (wrStat s f c).take = s.take := rfl
@[simp] theorem wrStat_tab (s : State) (f : Fld) (c : Status) : (wrStat s f c).tab = s.tab := rfl
@[simp] theorem wrStat_hbm (s : State) (f : Fld) (c : Status) : (wrStat s f c).hbm = s.hbm := rfl
@[simp] theorem wrStat_flo (s : State) (f : Fld) (c : Status) : (wrStat s f c).flo = s.flo := rfl
@[simp] theorem wrStat_eng (s : State) (f : Fld) (c : Status) : (wrStat s f c).eng = s.eng := rfl
@[simp] theorem wrStat_clu (s : State) (f : Fld) (c : Status) : (wrStat s f c).clu = s.clu := rfl
@[simp] theorem wrStat_sent (s : State) (f : Fld) (c : Status) : (wrStat s f c).sent = s.sent := rfl
@[simp] theorem wrStat_fresh (s : State) (f : Fld) (c : Status) : (wrStat s f c).fresh = s.fresh := rfl
@[simp] theorem wrStat_pending (s : State) (f : Fld) (c : Status) : (wrStat s f c).pending = s.pending := rfl

@[simp] theorem emit_regs (s : State) (o : Sent) : (emit s o).regs = s.regs := rfl
@[simp] theorem emit_stats (s : State) (o : Sent) : (emit s o).stats = s.stats := rfl
@[simp] theorem emit_flashRegs (s : State) (o : Sent) : (emit s o).flashRegs = s.flashRegs := rfl
@[simp] theorem emit_host (s : State) (o : Sent) : (emit s o).host = s.host := rfl
@[simp] theorem emit_saf (s : State) (o : Sent) : (emit s o).saf = s.saf := rfl
@[simp] theorem emit_ctr (s : State) (o : Sent) : (emit s o).ctr = s.ctr := rfl
@[simp] theorem emit_cel (s : State) (o : Sent) : (emit s o).cel = s.cel := rfl
@[simp] theorem emit_tim (s : State) (o : Sent) : (emit s o).tim = s.tim := rfl
@[simp] theorem emit_fuse (s : State) (o : Sent) : (emit s o).fuse = s.fuse := rfl
@[simp] theorem emit_img (s : State) (o : Sent) : (emit s o).img = s.img := rfl
@[simp] theorem emit_mod (s : State) (o : Sent) : (emit s o).mod = s.mod := rfl
@[simp] theorem emit_pipe (s : State) (o : Sent) : (emit s o).pipe = s.pipe := rfl
@[simp] theorem emit_keys (s : State) (o : Sent) : (emit s o).keys = s.keys := rfl
@[simp] theorem emit_take (s : State) (o : Sent) : (emit s o).take = s.take := rfl
@[simp] theorem emit_tab (s : State) (o : Sent) : (emit s o).tab = s.tab := rfl
@[simp] theorem emit_hbm (s : State) (o : Sent) : (emit s o).hbm = s.hbm := rfl
@[simp] theorem emit_flo (s : State) (o : Sent) : (emit s o).flo = s.flo := rfl
@[simp] theorem emit_eng (s : State) (o : Sent) : (emit s o).eng = s.eng := rfl
@[simp] theorem emit_clu (s : State) (o : Sent) : (emit s o).clu = s.clu := rfl
@[simp] theorem emit_fresh (s : State) (o : Sent) : (emit s o).fresh = s.fresh := rfl
@[simp] theorem emit_pending (s : State) (o : Sent) : (emit s o).pending = s.pending := rfl

@[simp] theorem freeVal_regs (s : State) (w : Nat) : ((freeVal s w).2).regs = s.regs := rfl
@[simp] theorem freeVal_stats (s : State) (w : Nat) : ((freeVal s w).2).stats = s.stats := rfl
@[simp] theorem freeVal_flashRegs (s : State) (w : Nat) : ((freeVal s w).2).flashRegs = s.flashRegs := rfl
@[simp] theorem freeVal_host (s : State) (w : Nat) : ((freeVal s w).2).host = s.host := rfl
@[simp] theorem freeVal_saf (s : State) (w : Nat) : ((freeVal s w).2).saf = s.saf := rfl
@[simp] theorem freeVal_ctr (s : State) (w : Nat) : ((freeVal s w).2).ctr = s.ctr := rfl
@[simp] theorem freeVal_cel (s : State) (w : Nat) : ((freeVal s w).2).cel = s.cel := rfl
@[simp] theorem freeVal_tim (s : State) (w : Nat) : ((freeVal s w).2).tim = s.tim := rfl
@[simp] theorem freeVal_fuse (s : State) (w : Nat) : ((freeVal s w).2).fuse = s.fuse := rfl
@[simp] theorem freeVal_img (s : State) (w : Nat) : ((freeVal s w).2).img = s.img := rfl
@[simp] theorem freeVal_mod (s : State) (w : Nat) : ((freeVal s w).2).mod = s.mod := rfl
@[simp] theorem freeVal_pipe (s : State) (w : Nat) : ((freeVal s w).2).pipe = s.pipe := rfl
@[simp] theorem freeVal_keys (s : State) (w : Nat) : ((freeVal s w).2).keys = s.keys := rfl
@[simp] theorem freeVal_take (s : State) (w : Nat) : ((freeVal s w).2).take = s.take := rfl
@[simp] theorem freeVal_tab (s : State) (w : Nat) : ((freeVal s w).2).tab = s.tab := rfl
@[simp] theorem freeVal_hbm (s : State) (w : Nat) : ((freeVal s w).2).hbm = s.hbm := rfl
@[simp] theorem freeVal_flo (s : State) (w : Nat) : ((freeVal s w).2).flo = s.flo := rfl
@[simp] theorem freeVal_eng (s : State) (w : Nat) : ((freeVal s w).2).eng = s.eng := rfl
@[simp] theorem freeVal_clu (s : State) (w : Nat) : ((freeVal s w).2).clu = s.clu := rfl
@[simp] theorem freeVal_sent (s : State) (w : Nat) : ((freeVal s w).2).sent = s.sent := rfl
@[simp] theorem freeVal_pending (s : State) (w : Nat) : ((freeVal s w).2).pending = s.pending := rfl

@[simp] theorem freeBytes_regs (s : State) (n : Nat) : ((freeBytes s n).2).regs = s.regs := rfl
@[simp] theorem freeBytes_stats (s : State) (n : Nat) : ((freeBytes s n).2).stats = s.stats := rfl
@[simp] theorem freeBytes_flashRegs (s : State) (n : Nat) : ((freeBytes s n).2).flashRegs = s.flashRegs := rfl
@[simp] theorem freeBytes_host (s : State) (n : Nat) : ((freeBytes s n).2).host = s.host := rfl
@[simp] theorem freeBytes_saf (s : State) (n : Nat) : ((freeBytes s n).2).saf = s.saf := rfl
@[simp] theorem freeBytes_ctr (s : State) (n : Nat) : ((freeBytes s n).2).ctr = s.ctr := rfl
@[simp] theorem freeBytes_cel (s : State) (n : Nat) : ((freeBytes s n).2).cel = s.cel := rfl
@[simp] theorem freeBytes_tim (s : State) (n : Nat) : ((freeBytes s n).2).tim = s.tim := rfl
@[simp] theorem freeBytes_fuse (s : State) (n : Nat) : ((freeBytes s n).2).fuse = s.fuse := rfl
@[simp] theorem freeBytes_img (s : State) (n : Nat) : ((freeBytes s n).2).img = s.img := rfl
@[simp] theorem freeBytes_mod (s : State) (n : Nat) : ((freeBytes s n).2).mod = s.mod := rfl
@[simp] theorem freeBytes_pipe (s : State) (n : Nat) : ((freeBytes s n).2).pipe = s.pipe := rfl
@[simp] theorem freeBytes_keys (s : State) (n : Nat) : ((freeBytes s n).2).keys = s.keys := rfl
@[simp] theorem freeBytes_take (s : State) (n : Nat) : ((freeBytes s n).2).take = s.take := rfl
@[simp] theorem freeBytes_tab (s : State) (n : Nat) : ((freeBytes s n).2).tab = s.tab := rfl
@[simp] theorem freeBytes_hbm (s : State) (n : Nat) : ((freeBytes s n).2).hbm = s.hbm := rfl
@[simp] theorem freeBytes_flo (s : State) (n : Nat) : ((freeBytes s n).2).flo = s.flo := rfl
@[simp] theorem freeBytes_eng (s : State) (n : Nat) : ((freeBytes s n).2).eng = s.eng := rfl
@[simp] theorem freeBytes_clu (s : State) (n : Nat) : ((freeBytes s n).2).clu = s.clu := rfl
@[simp] theorem freeBytes_sent (s : State) (n : Nat) : ((freeBytes s n).2).sent = s.sent := rfl
@[simp] theorem freeBytes_pending (s : State) (n : Nat) : ((freeBytes s n).2).pending = s.pending := rfl

@[simp] theorem holdVec_regs (s : State) (a b : Nat) : (holdVec s a b).regs = s.regs := rfl
@[simp] theorem holdVec_stats (s : State) (a b : Nat) : (holdVec s a b).stats = s.stats := rfl
@[simp] theorem holdVec_flashRegs (s : State) (a b : Nat) : (holdVec s a b).flashRegs = s.flashRegs := rfl
@[simp] theorem holdVec_host_latches (s : State) (a b : Nat) : (holdVec s a b).host.latches = s.host.latches := rfl
@[simp] theorem holdVec_host_takenBy (s : State) (a b : Nat) : (holdVec s a b).host.takenBy = s.host.takenBy := rfl
@[simp] theorem holdVec_host_responseDue (s : State) (a b : Nat) : (holdVec s a b).host.responseDue = s.host.responseDue := rfl
@[simp] theorem holdVec_host_nonces (s : State) (a b : Nat) : (holdVec s a b).host.nonces = s.host.nonces := rfl
@[simp] theorem holdVec_host_ringTail (s : State) (a b : Nat) : (holdVec s a b).host.ringTail = s.host.ringTail := rfl
@[simp] theorem holdVec_host_batches (s : State) (a b : Nat) : (holdVec s a b).host.batches = s.host.batches := rfl
@[simp] theorem holdVec_host_evSeq (s : State) (a b : Nat) : (holdVec s a b).host.evSeq = s.host.evSeq := rfl
@[simp] theorem holdVec_host_outRing (s : State) (a b : Nat) : (holdVec s a b).host.outRing = s.host.outRing := rfl
@[simp] theorem holdVec_host_held (s : State) (a b : Nat) : (holdVec s a b).host.held = s.host.held := rfl
@[simp] theorem holdVec_host_link (s : State) (a b : Nat) : (holdVec s a b).host.link = s.host.link := rfl
@[simp] theorem holdVec_host_wakeN (s : State) (a b : Nat) : (holdVec s a b).host.wakeN = s.host.wakeN := rfl
@[simp] theorem holdVec_host_wakeEnding (s : State) (a b : Nat) : (holdVec s a b).host.wakeEnding = s.host.wakeEnding := rfl
@[simp] theorem holdVec_host_txNext (s : State) (a b : Nat) : (holdVec s a b).host.txNext = s.host.txNext := rfl
@[simp] theorem holdVec_host_authAt (s : State) (a b : Nat) : (holdVec s a b).host.authAt = s.host.authAt := rfl
@[simp] theorem holdVec_host_refclk (s : State) (a b : Nat) : (holdVec s a b).host.refclk = s.host.refclk := rfl
@[simp] theorem holdVec_host_msixMask (s : State) (a b : Nat) : (holdVec s a b).host.msixMask = s.host.msixMask := rfl
@[simp] theorem holdVec_host_msixPend (s : State) (a b : Nat) : (holdVec s a b).host.msixPend = s.host.msixPend := rfl
@[simp] theorem holdVec_host_aerUr (s : State) (a b : Nat) : (holdVec s a b).host.aerUr = s.host.aerUr := rfl
@[simp] theorem holdVec_saf (s : State) (a b : Nat) : (holdVec s a b).saf = s.saf := rfl
@[simp] theorem holdVec_ctr (s : State) (a b : Nat) : (holdVec s a b).ctr = s.ctr := rfl
@[simp] theorem holdVec_cel (s : State) (a b : Nat) : (holdVec s a b).cel = s.cel := rfl
@[simp] theorem holdVec_tim (s : State) (a b : Nat) : (holdVec s a b).tim = s.tim := rfl
@[simp] theorem holdVec_fuse (s : State) (a b : Nat) : (holdVec s a b).fuse = s.fuse := rfl
@[simp] theorem holdVec_img (s : State) (a b : Nat) : (holdVec s a b).img = s.img := rfl
@[simp] theorem holdVec_mod (s : State) (a b : Nat) : (holdVec s a b).mod = s.mod := rfl
@[simp] theorem holdVec_pipe (s : State) (a b : Nat) : (holdVec s a b).pipe = s.pipe := rfl
@[simp] theorem holdVec_keys (s : State) (a b : Nat) : (holdVec s a b).keys = s.keys := rfl
@[simp] theorem holdVec_take (s : State) (a b : Nat) : (holdVec s a b).take = s.take := rfl
@[simp] theorem holdVec_tab (s : State) (a b : Nat) : (holdVec s a b).tab = s.tab := rfl
@[simp] theorem holdVec_hbm (s : State) (a b : Nat) : (holdVec s a b).hbm = s.hbm := rfl
@[simp] theorem holdVec_flo (s : State) (a b : Nat) : (holdVec s a b).flo = s.flo := rfl
@[simp] theorem holdVec_eng (s : State) (a b : Nat) : (holdVec s a b).eng = s.eng := rfl
@[simp] theorem holdVec_clu (s : State) (a b : Nat) : (holdVec s a b).clu = s.clu := rfl
@[simp] theorem holdVec_sent (s : State) (a b : Nat) : (holdVec s a b).sent = s.sent := rfl
@[simp] theorem holdVec_fresh (s : State) (a b : Nat) : (holdVec s a b).fresh = s.fresh := rfl
@[simp] theorem holdVec_pending (s : State) (a b : Nat) : (holdVec s a b).pending = s.pending := rfl

@[simp] theorem pendVec_regs (s : State) (a b : Nat) : (pendVec s a b).regs = s.regs := rfl
@[simp] theorem pendVec_stats (s : State) (a b : Nat) : (pendVec s a b).stats = s.stats := rfl
@[simp] theorem pendVec_flashRegs (s : State) (a b : Nat) : (pendVec s a b).flashRegs = s.flashRegs := rfl
@[simp] theorem pendVec_host_latches (s : State) (a b : Nat) : (pendVec s a b).host.latches = s.host.latches := rfl
@[simp] theorem pendVec_host_takenBy (s : State) (a b : Nat) : (pendVec s a b).host.takenBy = s.host.takenBy := rfl
@[simp] theorem pendVec_host_responseDue (s : State) (a b : Nat) : (pendVec s a b).host.responseDue = s.host.responseDue := rfl
@[simp] theorem pendVec_host_nonces (s : State) (a b : Nat) : (pendVec s a b).host.nonces = s.host.nonces := rfl
@[simp] theorem pendVec_host_ringTail (s : State) (a b : Nat) : (pendVec s a b).host.ringTail = s.host.ringTail := rfl
@[simp] theorem pendVec_host_batches (s : State) (a b : Nat) : (pendVec s a b).host.batches = s.host.batches := rfl
@[simp] theorem pendVec_host_evSeq (s : State) (a b : Nat) : (pendVec s a b).host.evSeq = s.host.evSeq := rfl
@[simp] theorem pendVec_host_outRing (s : State) (a b : Nat) : (pendVec s a b).host.outRing = s.host.outRing := rfl
@[simp] theorem pendVec_host_held (s : State) (a b : Nat) : (pendVec s a b).host.held = s.host.held := rfl
@[simp] theorem pendVec_host_link (s : State) (a b : Nat) : (pendVec s a b).host.link = s.host.link := rfl
@[simp] theorem pendVec_host_wakeN (s : State) (a b : Nat) : (pendVec s a b).host.wakeN = s.host.wakeN := rfl
@[simp] theorem pendVec_host_wakeEnding (s : State) (a b : Nat) : (pendVec s a b).host.wakeEnding = s.host.wakeEnding := rfl
@[simp] theorem pendVec_host_vecHeld (s : State) (a b : Nat) : (pendVec s a b).host.vecHeld = s.host.vecHeld := rfl
@[simp] theorem pendVec_host_txNext (s : State) (a b : Nat) : (pendVec s a b).host.txNext = s.host.txNext := rfl
@[simp] theorem pendVec_host_authAt (s : State) (a b : Nat) : (pendVec s a b).host.authAt = s.host.authAt := rfl
@[simp] theorem pendVec_host_refclk (s : State) (a b : Nat) : (pendVec s a b).host.refclk = s.host.refclk := rfl
@[simp] theorem pendVec_host_msixMask (s : State) (a b : Nat) : (pendVec s a b).host.msixMask = s.host.msixMask := rfl
@[simp] theorem pendVec_host_aerUr (s : State) (a b : Nat) : (pendVec s a b).host.aerUr = s.host.aerUr := rfl
@[simp] theorem pendVec_saf (s : State) (a b : Nat) : (pendVec s a b).saf = s.saf := rfl
@[simp] theorem pendVec_ctr (s : State) (a b : Nat) : (pendVec s a b).ctr = s.ctr := rfl
@[simp] theorem pendVec_cel (s : State) (a b : Nat) : (pendVec s a b).cel = s.cel := rfl
@[simp] theorem pendVec_tim (s : State) (a b : Nat) : (pendVec s a b).tim = s.tim := rfl
@[simp] theorem pendVec_fuse (s : State) (a b : Nat) : (pendVec s a b).fuse = s.fuse := rfl
@[simp] theorem pendVec_img (s : State) (a b : Nat) : (pendVec s a b).img = s.img := rfl
@[simp] theorem pendVec_mod (s : State) (a b : Nat) : (pendVec s a b).mod = s.mod := rfl
@[simp] theorem pendVec_pipe (s : State) (a b : Nat) : (pendVec s a b).pipe = s.pipe := rfl
@[simp] theorem pendVec_keys (s : State) (a b : Nat) : (pendVec s a b).keys = s.keys := rfl
@[simp] theorem pendVec_take (s : State) (a b : Nat) : (pendVec s a b).take = s.take := rfl
@[simp] theorem pendVec_tab (s : State) (a b : Nat) : (pendVec s a b).tab = s.tab := rfl
@[simp] theorem pendVec_hbm (s : State) (a b : Nat) : (pendVec s a b).hbm = s.hbm := rfl
@[simp] theorem pendVec_flo (s : State) (a b : Nat) : (pendVec s a b).flo = s.flo := rfl
@[simp] theorem pendVec_eng (s : State) (a b : Nat) : (pendVec s a b).eng = s.eng := rfl
@[simp] theorem pendVec_clu (s : State) (a b : Nat) : (pendVec s a b).clu = s.clu := rfl
@[simp] theorem pendVec_sent (s : State) (a b : Nat) : (pendVec s a b).sent = s.sent := rfl
@[simp] theorem pendVec_fresh (s : State) (a b : Nat) : (pendVec s a b).fresh = s.fresh := rfl
@[simp] theorem pendVec_pending (s : State) (a b : Nat) : (pendVec s a b).pending = s.pending := rfl

@[simp] theorem setWake_regs (s : State) (b : Bool) : (setWake s b).regs = s.regs := rfl
@[simp] theorem setWake_stats (s : State) (b : Bool) : (setWake s b).stats = s.stats := rfl
@[simp] theorem setWake_flashRegs (s : State) (b : Bool) : (setWake s b).flashRegs = s.flashRegs := rfl
@[simp] theorem setWake_host_latches (s : State) (b : Bool) : (setWake s b).host.latches = s.host.latches := rfl
@[simp] theorem setWake_host_takenBy (s : State) (b : Bool) : (setWake s b).host.takenBy = s.host.takenBy := rfl
@[simp] theorem setWake_host_responseDue (s : State) (b : Bool) : (setWake s b).host.responseDue = s.host.responseDue := rfl
@[simp] theorem setWake_host_nonces (s : State) (b : Bool) : (setWake s b).host.nonces = s.host.nonces := rfl
@[simp] theorem setWake_host_ringTail (s : State) (b : Bool) : (setWake s b).host.ringTail = s.host.ringTail := rfl
@[simp] theorem setWake_host_batches (s : State) (b : Bool) : (setWake s b).host.batches = s.host.batches := rfl
@[simp] theorem setWake_host_evSeq (s : State) (b : Bool) : (setWake s b).host.evSeq = s.host.evSeq := rfl
@[simp] theorem setWake_host_outRing (s : State) (b : Bool) : (setWake s b).host.outRing = s.host.outRing := rfl
@[simp] theorem setWake_host_held (s : State) (b : Bool) : (setWake s b).host.held = s.host.held := rfl
@[simp] theorem setWake_host_link (s : State) (b : Bool) : (setWake s b).host.link = s.host.link := rfl
@[simp] theorem setWake_host_wakeEnding (s : State) (b : Bool) : (setWake s b).host.wakeEnding = s.host.wakeEnding := rfl
@[simp] theorem setWake_host_vecHeld (s : State) (b : Bool) : (setWake s b).host.vecHeld = s.host.vecHeld := rfl
@[simp] theorem setWake_host_txNext (s : State) (b : Bool) : (setWake s b).host.txNext = s.host.txNext := rfl
@[simp] theorem setWake_host_authAt (s : State) (b : Bool) : (setWake s b).host.authAt = s.host.authAt := rfl
@[simp] theorem setWake_host_refclk (s : State) (b : Bool) : (setWake s b).host.refclk = s.host.refclk := rfl
@[simp] theorem setWake_host_msixMask (s : State) (b : Bool) : (setWake s b).host.msixMask = s.host.msixMask := rfl
@[simp] theorem setWake_host_msixPend (s : State) (b : Bool) : (setWake s b).host.msixPend = s.host.msixPend := rfl
@[simp] theorem setWake_host_aerUr (s : State) (b : Bool) : (setWake s b).host.aerUr = s.host.aerUr := rfl
@[simp] theorem setWake_saf (s : State) (b : Bool) : (setWake s b).saf = s.saf := rfl
@[simp] theorem setWake_ctr (s : State) (b : Bool) : (setWake s b).ctr = s.ctr := rfl
@[simp] theorem setWake_cel (s : State) (b : Bool) : (setWake s b).cel = s.cel := rfl
@[simp] theorem setWake_tim (s : State) (b : Bool) : (setWake s b).tim = s.tim := rfl
@[simp] theorem setWake_fuse (s : State) (b : Bool) : (setWake s b).fuse = s.fuse := rfl
@[simp] theorem setWake_img (s : State) (b : Bool) : (setWake s b).img = s.img := rfl
@[simp] theorem setWake_mod (s : State) (b : Bool) : (setWake s b).mod = s.mod := rfl
@[simp] theorem setWake_pipe (s : State) (b : Bool) : (setWake s b).pipe = s.pipe := rfl
@[simp] theorem setWake_keys (s : State) (b : Bool) : (setWake s b).keys = s.keys := rfl
@[simp] theorem setWake_take (s : State) (b : Bool) : (setWake s b).take = s.take := rfl
@[simp] theorem setWake_tab (s : State) (b : Bool) : (setWake s b).tab = s.tab := rfl
@[simp] theorem setWake_hbm (s : State) (b : Bool) : (setWake s b).hbm = s.hbm := rfl
@[simp] theorem setWake_flo (s : State) (b : Bool) : (setWake s b).flo = s.flo := rfl
@[simp] theorem setWake_eng (s : State) (b : Bool) : (setWake s b).eng = s.eng := rfl
@[simp] theorem setWake_clu (s : State) (b : Bool) : (setWake s b).clu = s.clu := rfl
@[simp] theorem setWake_sent (s : State) (b : Bool) : (setWake s b).sent = s.sent := rfl
@[simp] theorem setWake_fresh (s : State) (b : Bool) : (setWake s b).fresh = s.fresh := rfl
@[simp] theorem setWake_pending (s : State) (b : Bool) : (setWake s b).pending = s.pending := rfl

@[simp] theorem setEvSeq_regs (s : State) (n : Nat) : (setEvSeq s n).regs = s.regs := rfl
@[simp] theorem setEvSeq_stats (s : State) (n : Nat) : (setEvSeq s n).stats = s.stats := rfl
@[simp] theorem setEvSeq_flashRegs (s : State) (n : Nat) : (setEvSeq s n).flashRegs = s.flashRegs := rfl
@[simp] theorem setEvSeq_host_latches (s : State) (n : Nat) : (setEvSeq s n).host.latches = s.host.latches := rfl
@[simp] theorem setEvSeq_host_takenBy (s : State) (n : Nat) : (setEvSeq s n).host.takenBy = s.host.takenBy := rfl
@[simp] theorem setEvSeq_host_responseDue (s : State) (n : Nat) : (setEvSeq s n).host.responseDue = s.host.responseDue := rfl
@[simp] theorem setEvSeq_host_nonces (s : State) (n : Nat) : (setEvSeq s n).host.nonces = s.host.nonces := rfl
@[simp] theorem setEvSeq_host_ringTail (s : State) (n : Nat) : (setEvSeq s n).host.ringTail = s.host.ringTail := rfl
@[simp] theorem setEvSeq_host_batches (s : State) (n : Nat) : (setEvSeq s n).host.batches = s.host.batches := rfl
@[simp] theorem setEvSeq_host_outRing (s : State) (n : Nat) : (setEvSeq s n).host.outRing = s.host.outRing := rfl
@[simp] theorem setEvSeq_host_held (s : State) (n : Nat) : (setEvSeq s n).host.held = s.host.held := rfl
@[simp] theorem setEvSeq_host_link (s : State) (n : Nat) : (setEvSeq s n).host.link = s.host.link := rfl
@[simp] theorem setEvSeq_host_wakeN (s : State) (n : Nat) : (setEvSeq s n).host.wakeN = s.host.wakeN := rfl
@[simp] theorem setEvSeq_host_wakeEnding (s : State) (n : Nat) : (setEvSeq s n).host.wakeEnding = s.host.wakeEnding := rfl
@[simp] theorem setEvSeq_host_vecHeld (s : State) (n : Nat) : (setEvSeq s n).host.vecHeld = s.host.vecHeld := rfl
@[simp] theorem setEvSeq_host_txNext (s : State) (n : Nat) : (setEvSeq s n).host.txNext = s.host.txNext := rfl
@[simp] theorem setEvSeq_host_authAt (s : State) (n : Nat) : (setEvSeq s n).host.authAt = s.host.authAt := rfl
@[simp] theorem setEvSeq_host_refclk (s : State) (n : Nat) : (setEvSeq s n).host.refclk = s.host.refclk := rfl
@[simp] theorem setEvSeq_host_msixMask (s : State) (n : Nat) : (setEvSeq s n).host.msixMask = s.host.msixMask := rfl
@[simp] theorem setEvSeq_host_msixPend (s : State) (n : Nat) : (setEvSeq s n).host.msixPend = s.host.msixPend := rfl
@[simp] theorem setEvSeq_host_aerUr (s : State) (n : Nat) : (setEvSeq s n).host.aerUr = s.host.aerUr := rfl
@[simp] theorem setEvSeq_saf (s : State) (n : Nat) : (setEvSeq s n).saf = s.saf := rfl
@[simp] theorem setEvSeq_ctr (s : State) (n : Nat) : (setEvSeq s n).ctr = s.ctr := rfl
@[simp] theorem setEvSeq_cel (s : State) (n : Nat) : (setEvSeq s n).cel = s.cel := rfl
@[simp] theorem setEvSeq_tim (s : State) (n : Nat) : (setEvSeq s n).tim = s.tim := rfl
@[simp] theorem setEvSeq_fuse (s : State) (n : Nat) : (setEvSeq s n).fuse = s.fuse := rfl
@[simp] theorem setEvSeq_img (s : State) (n : Nat) : (setEvSeq s n).img = s.img := rfl
@[simp] theorem setEvSeq_mod (s : State) (n : Nat) : (setEvSeq s n).mod = s.mod := rfl
@[simp] theorem setEvSeq_pipe (s : State) (n : Nat) : (setEvSeq s n).pipe = s.pipe := rfl
@[simp] theorem setEvSeq_keys (s : State) (n : Nat) : (setEvSeq s n).keys = s.keys := rfl
@[simp] theorem setEvSeq_take (s : State) (n : Nat) : (setEvSeq s n).take = s.take := rfl
@[simp] theorem setEvSeq_tab (s : State) (n : Nat) : (setEvSeq s n).tab = s.tab := rfl
@[simp] theorem setEvSeq_hbm (s : State) (n : Nat) : (setEvSeq s n).hbm = s.hbm := rfl
@[simp] theorem setEvSeq_flo (s : State) (n : Nat) : (setEvSeq s n).flo = s.flo := rfl
@[simp] theorem setEvSeq_eng (s : State) (n : Nat) : (setEvSeq s n).eng = s.eng := rfl
@[simp] theorem setEvSeq_clu (s : State) (n : Nat) : (setEvSeq s n).clu = s.clu := rfl
@[simp] theorem setEvSeq_sent (s : State) (n : Nat) : (setEvSeq s n).sent = s.sent := rfl
@[simp] theorem setEvSeq_fresh (s : State) (n : Nat) : (setEvSeq s n).fresh = s.fresh := rfl
@[simp] theorem setEvSeq_pending (s : State) (n : Nat) : (setEvSeq s n).pending = s.pending := rfl

@[simp] theorem setTrigger_regs (s : State) (c u : Nat) : (setTrigger s c u).regs = s.regs := rfl
@[simp] theorem setTrigger_stats (s : State) (c u : Nat) : (setTrigger s c u).stats = s.stats := rfl
@[simp] theorem setTrigger_flashRegs (s : State) (c u : Nat) : (setTrigger s c u).flashRegs = s.flashRegs := rfl
@[simp] theorem setTrigger_host (s : State) (c u : Nat) : (setTrigger s c u).host = s.host := rfl
@[simp] theorem setTrigger_saf (s : State) (c u : Nat) : (setTrigger s c u).saf = s.saf := rfl
@[simp] theorem setTrigger_ctr_watch (s : State) (c u : Nat) : (setTrigger s c u).ctr.watch = s.ctr.watch := rfl
@[simp] theorem setTrigger_ctr_smpBuf (s : State) (c u : Nat) : (setTrigger s c u).ctr.smpBuf = s.ctr.smpBuf := rfl
@[simp] theorem setTrigger_ctr_smpFifo (s : State) (c u : Nat) : (setTrigger s c u).ctr.smpFifo = s.ctr.smpFifo := rfl
@[simp] theorem setTrigger_ctr_smpSel (s : State) (c u : Nat) : (setTrigger s c u).ctr.smpSel = s.ctr.smpSel := rfl
@[simp] theorem setTrigger_ctr_smpSeq (s : State) (c u : Nat) : (setTrigger s c u).ctr.smpSeq = s.ctr.smpSeq := rfl
@[simp] theorem setTrigger_ctr_frzCmd (s : State) (c u : Nat) : (setTrigger s c u).ctr.frzCmd = s.ctr.frzCmd := rfl
@[simp] theorem setTrigger_ctr_frzStep (s : State) (c u : Nat) : (setTrigger s c u).ctr.frzStep = s.ctr.frzStep := rfl
@[simp] theorem setTrigger_ctr_frzDataRo (s : State) (c u : Nat) : (setTrigger s c u).ctr.frzDataRo = s.ctr.frzDataRo := rfl
@[simp] theorem setTrigger_ctr_frzDump (s : State) (c u : Nat) : (setTrigger s c u).ctr.frzDump = s.ctr.frzDump := rfl
@[simp] theorem setTrigger_ctr_rushesTo (s : State) (c u : Nat) : (setTrigger s c u).ctr.rushesTo = s.ctr.rushesTo := rfl
@[simp] theorem setTrigger_ctr_frzWarm (s : State) (c u : Nat) : (setTrigger s c u).ctr.frzWarm = s.ctr.frzWarm := rfl
@[simp] theorem setTrigger_ctr_jtag (s : State) (c u : Nat) : (setTrigger s c u).ctr.jtag = s.ctr.jtag := rfl
@[simp] theorem setTrigger_ctr_preload (s : State) (c u : Nat) : (setTrigger s c u).ctr.preload = s.ctr.preload := rfl
@[simp] theorem setTrigger_ctr_frzAt (s : State) (c u : Nat) : (setTrigger s c u).ctr.frzAt = s.ctr.frzAt := rfl
@[simp] theorem setTrigger_cel (s : State) (c u : Nat) : (setTrigger s c u).cel = s.cel := rfl
@[simp] theorem setTrigger_tim (s : State) (c u : Nat) : (setTrigger s c u).tim = s.tim := rfl
@[simp] theorem setTrigger_fuse (s : State) (c u : Nat) : (setTrigger s c u).fuse = s.fuse := rfl
@[simp] theorem setTrigger_img (s : State) (c u : Nat) : (setTrigger s c u).img = s.img := rfl
@[simp] theorem setTrigger_mod (s : State) (c u : Nat) : (setTrigger s c u).mod = s.mod := rfl
@[simp] theorem setTrigger_pipe (s : State) (c u : Nat) : (setTrigger s c u).pipe = s.pipe := rfl
@[simp] theorem setTrigger_keys (s : State) (c u : Nat) : (setTrigger s c u).keys = s.keys := rfl
@[simp] theorem setTrigger_take (s : State) (c u : Nat) : (setTrigger s c u).take = s.take := rfl
@[simp] theorem setTrigger_tab (s : State) (c u : Nat) : (setTrigger s c u).tab = s.tab := rfl
@[simp] theorem setTrigger_hbm (s : State) (c u : Nat) : (setTrigger s c u).hbm = s.hbm := rfl
@[simp] theorem setTrigger_flo (s : State) (c u : Nat) : (setTrigger s c u).flo = s.flo := rfl
@[simp] theorem setTrigger_eng (s : State) (c u : Nat) : (setTrigger s c u).eng = s.eng := rfl
@[simp] theorem setTrigger_clu (s : State) (c u : Nat) : (setTrigger s c u).clu = s.clu := rfl
@[simp] theorem setTrigger_sent (s : State) (c u : Nat) : (setTrigger s c u).sent = s.sent := rfl
@[simp] theorem setTrigger_fresh (s : State) (c u : Nat) : (setTrigger s c u).fresh = s.fresh := rfl
@[simp] theorem setTrigger_pending (s : State) (c u : Nat) : (setTrigger s c u).pending = s.pending := rfl

@[simp] theorem setJTail_regs (s : State) (l : List JRec) : (setJTail s l).regs = s.regs := rfl
@[simp] theorem setJTail_stats (s : State) (l : List JRec) : (setJTail s l).stats = s.stats := rfl
@[simp] theorem setJTail_flashRegs (s : State) (l : List JRec) : (setJTail s l).flashRegs = s.flashRegs := rfl
@[simp] theorem setJTail_host (s : State) (l : List JRec) : (setJTail s l).host = s.host := rfl
@[simp] theorem setJTail_saf_standing (s : State) (l : List JRec) : (setJTail s l).saf.standing = s.saf.standing := rfl
@[simp] theorem setJTail_saf_uncRead (s : State) (l : List JRec) : (setJTail s l).saf.uncRead = s.saf.uncRead := rfl
@[simp] theorem setJTail_saf_pipePass (s : State) (l : List JRec) : (setJTail s l).saf.pipePass = s.saf.pipePass := rfl
@[simp] theorem setJTail_saf_engPass (s : State) (l : List JRec) : (setJTail s l).saf.engPass = s.saf.engPass := rfl
@[simp] theorem setJTail_saf_unposted (s : State) (l : List JRec) : (setJTail s l).saf.unposted = s.saf.unposted := rfl
@[simp] theorem setJTail_saf_pfwN (s : State) (l : List JRec) : (setJTail s l).saf.pfwN = s.saf.pfwN := rfl
@[simp] theorem setJTail_saf_modeSince (s : State) (l : List JRec) : (setJTail s l).saf.modeSince = s.saf.modeSince := rfl
@[simp] theorem setJTail_saf_aonFault (s : State) (l : List JRec) : (setJTail s l).saf.aonFault = s.saf.aonFault := rfl
@[simp] theorem setJTail_saf_holdupTest (s : State) (l : List JRec) : (setJTail s l).saf.holdupTest = s.saf.holdupTest := rfl
@[simp] theorem setJTail_saf_v0 (s : State) (l : List JRec) : (setJTail s l).saf.v0 = s.saf.v0 := rfl
@[simp] theorem setJTail_saf_boardRecord (s : State) (l : List JRec) : (setJTail s l).saf.boardRecord = s.saf.boardRecord := rfl
@[simp] theorem setJTail_saf_scanOn (s : State) (l : List JRec) : (setJTail s l).saf.scanOn = s.saf.scanOn := rfl
@[simp] theorem setJTail_saf_jOver (s : State) (l : List JRec) : (setJTail s l).saf.jOver = s.saf.jOver := rfl
@[simp] theorem setJTail_saf_jFlash (s : State) (l : List JRec) : (setJTail s l).saf.jFlash = s.saf.jFlash := rfl
@[simp] theorem setJTail_saf_jMirror (s : State) (l : List JRec) : (setJTail s l).saf.jMirror = s.saf.jMirror := rfl
@[simp] theorem setJTail_saf_jLost (s : State) (l : List JRec) : (setJTail s l).saf.jLost = s.saf.jLost := rfl
@[simp] theorem setJTail_saf_jRetry (s : State) (l : List JRec) : (setJTail s l).saf.jRetry = s.saf.jRetry := rfl
@[simp] theorem setJTail_saf_temps (s : State) (l : List JRec) : (setJTail s l).saf.temps = s.saf.temps := rfl
@[simp] theorem setJTail_saf_wdtAt (s : State) (l : List JRec) : (setJTail s l).saf.wdtAt = s.saf.wdtAt := rfl
@[simp] theorem setJTail_ctr (s : State) (l : List JRec) : (setJTail s l).ctr = s.ctr := rfl
@[simp] theorem setJTail_cel (s : State) (l : List JRec) : (setJTail s l).cel = s.cel := rfl
@[simp] theorem setJTail_tim (s : State) (l : List JRec) : (setJTail s l).tim = s.tim := rfl
@[simp] theorem setJTail_fuse (s : State) (l : List JRec) : (setJTail s l).fuse = s.fuse := rfl
@[simp] theorem setJTail_img (s : State) (l : List JRec) : (setJTail s l).img = s.img := rfl
@[simp] theorem setJTail_mod (s : State) (l : List JRec) : (setJTail s l).mod = s.mod := rfl
@[simp] theorem setJTail_pipe (s : State) (l : List JRec) : (setJTail s l).pipe = s.pipe := rfl
@[simp] theorem setJTail_keys (s : State) (l : List JRec) : (setJTail s l).keys = s.keys := rfl
@[simp] theorem setJTail_take (s : State) (l : List JRec) : (setJTail s l).take = s.take := rfl
@[simp] theorem setJTail_tab (s : State) (l : List JRec) : (setJTail s l).tab = s.tab := rfl
@[simp] theorem setJTail_hbm (s : State) (l : List JRec) : (setJTail s l).hbm = s.hbm := rfl
@[simp] theorem setJTail_flo (s : State) (l : List JRec) : (setJTail s l).flo = s.flo := rfl
@[simp] theorem setJTail_eng (s : State) (l : List JRec) : (setJTail s l).eng = s.eng := rfl
@[simp] theorem setJTail_clu (s : State) (l : List JRec) : (setJTail s l).clu = s.clu := rfl
@[simp] theorem setJTail_sent (s : State) (l : List JRec) : (setJTail s l).sent = s.sent := rfl
@[simp] theorem setJTail_fresh (s : State) (l : List JRec) : (setJTail s l).fresh = s.fresh := rfl
@[simp] theorem setJTail_pending (s : State) (l : List JRec) : (setJTail s l).pending = s.pending := rfl

@[simp] theorem setJOver_regs (s : State) (l : List JRec) : (setJOver s l).regs = s.regs := rfl
@[simp] theorem setJOver_stats (s : State) (l : List JRec) : (setJOver s l).stats = s.stats := rfl
@[simp] theorem setJOver_flashRegs (s : State) (l : List JRec) : (setJOver s l).flashRegs = s.flashRegs := rfl
@[simp] theorem setJOver_host (s : State) (l : List JRec) : (setJOver s l).host = s.host := rfl
@[simp] theorem setJOver_saf_standing (s : State) (l : List JRec) : (setJOver s l).saf.standing = s.saf.standing := rfl
@[simp] theorem setJOver_saf_uncRead (s : State) (l : List JRec) : (setJOver s l).saf.uncRead = s.saf.uncRead := rfl
@[simp] theorem setJOver_saf_pipePass (s : State) (l : List JRec) : (setJOver s l).saf.pipePass = s.saf.pipePass := rfl
@[simp] theorem setJOver_saf_engPass (s : State) (l : List JRec) : (setJOver s l).saf.engPass = s.saf.engPass := rfl
@[simp] theorem setJOver_saf_unposted (s : State) (l : List JRec) : (setJOver s l).saf.unposted = s.saf.unposted := rfl
@[simp] theorem setJOver_saf_pfwN (s : State) (l : List JRec) : (setJOver s l).saf.pfwN = s.saf.pfwN := rfl
@[simp] theorem setJOver_saf_modeSince (s : State) (l : List JRec) : (setJOver s l).saf.modeSince = s.saf.modeSince := rfl
@[simp] theorem setJOver_saf_aonFault (s : State) (l : List JRec) : (setJOver s l).saf.aonFault = s.saf.aonFault := rfl
@[simp] theorem setJOver_saf_holdupTest (s : State) (l : List JRec) : (setJOver s l).saf.holdupTest = s.saf.holdupTest := rfl
@[simp] theorem setJOver_saf_v0 (s : State) (l : List JRec) : (setJOver s l).saf.v0 = s.saf.v0 := rfl
@[simp] theorem setJOver_saf_boardRecord (s : State) (l : List JRec) : (setJOver s l).saf.boardRecord = s.saf.boardRecord := rfl
@[simp] theorem setJOver_saf_scanOn (s : State) (l : List JRec) : (setJOver s l).saf.scanOn = s.saf.scanOn := rfl
@[simp] theorem setJOver_saf_jTail (s : State) (l : List JRec) : (setJOver s l).saf.jTail = s.saf.jTail := rfl
@[simp] theorem setJOver_saf_jFlash (s : State) (l : List JRec) : (setJOver s l).saf.jFlash = s.saf.jFlash := rfl
@[simp] theorem setJOver_saf_jMirror (s : State) (l : List JRec) : (setJOver s l).saf.jMirror = s.saf.jMirror := rfl
@[simp] theorem setJOver_saf_jLost (s : State) (l : List JRec) : (setJOver s l).saf.jLost = s.saf.jLost := rfl
@[simp] theorem setJOver_saf_jRetry (s : State) (l : List JRec) : (setJOver s l).saf.jRetry = s.saf.jRetry := rfl
@[simp] theorem setJOver_saf_temps (s : State) (l : List JRec) : (setJOver s l).saf.temps = s.saf.temps := rfl
@[simp] theorem setJOver_saf_wdtAt (s : State) (l : List JRec) : (setJOver s l).saf.wdtAt = s.saf.wdtAt := rfl
@[simp] theorem setJOver_ctr (s : State) (l : List JRec) : (setJOver s l).ctr = s.ctr := rfl
@[simp] theorem setJOver_cel (s : State) (l : List JRec) : (setJOver s l).cel = s.cel := rfl
@[simp] theorem setJOver_tim (s : State) (l : List JRec) : (setJOver s l).tim = s.tim := rfl
@[simp] theorem setJOver_fuse (s : State) (l : List JRec) : (setJOver s l).fuse = s.fuse := rfl
@[simp] theorem setJOver_img (s : State) (l : List JRec) : (setJOver s l).img = s.img := rfl
@[simp] theorem setJOver_mod (s : State) (l : List JRec) : (setJOver s l).mod = s.mod := rfl
@[simp] theorem setJOver_pipe (s : State) (l : List JRec) : (setJOver s l).pipe = s.pipe := rfl
@[simp] theorem setJOver_keys (s : State) (l : List JRec) : (setJOver s l).keys = s.keys := rfl
@[simp] theorem setJOver_take (s : State) (l : List JRec) : (setJOver s l).take = s.take := rfl
@[simp] theorem setJOver_tab (s : State) (l : List JRec) : (setJOver s l).tab = s.tab := rfl
@[simp] theorem setJOver_hbm (s : State) (l : List JRec) : (setJOver s l).hbm = s.hbm := rfl
@[simp] theorem setJOver_flo (s : State) (l : List JRec) : (setJOver s l).flo = s.flo := rfl
@[simp] theorem setJOver_eng (s : State) (l : List JRec) : (setJOver s l).eng = s.eng := rfl
@[simp] theorem setJOver_clu (s : State) (l : List JRec) : (setJOver s l).clu = s.clu := rfl
@[simp] theorem setJOver_sent (s : State) (l : List JRec) : (setJOver s l).sent = s.sent := rfl
@[simp] theorem setJOver_fresh (s : State) (l : List JRec) : (setJOver s l).fresh = s.fresh := rfl
@[simp] theorem setJOver_pending (s : State) (l : List JRec) : (setJOver s l).pending = s.pending := rfl

@[simp] theorem setJLost_regs (s : State) (n : Nat) : (setJLost s n).regs = s.regs := rfl
@[simp] theorem setJLost_stats (s : State) (n : Nat) : (setJLost s n).stats = s.stats := rfl
@[simp] theorem setJLost_flashRegs (s : State) (n : Nat) : (setJLost s n).flashRegs = s.flashRegs := rfl
@[simp] theorem setJLost_host (s : State) (n : Nat) : (setJLost s n).host = s.host := rfl
@[simp] theorem setJLost_saf_standing (s : State) (n : Nat) : (setJLost s n).saf.standing = s.saf.standing := rfl
@[simp] theorem setJLost_saf_uncRead (s : State) (n : Nat) : (setJLost s n).saf.uncRead = s.saf.uncRead := rfl
@[simp] theorem setJLost_saf_pipePass (s : State) (n : Nat) : (setJLost s n).saf.pipePass = s.saf.pipePass := rfl
@[simp] theorem setJLost_saf_engPass (s : State) (n : Nat) : (setJLost s n).saf.engPass = s.saf.engPass := rfl
@[simp] theorem setJLost_saf_unposted (s : State) (n : Nat) : (setJLost s n).saf.unposted = s.saf.unposted := rfl
@[simp] theorem setJLost_saf_pfwN (s : State) (n : Nat) : (setJLost s n).saf.pfwN = s.saf.pfwN := rfl
@[simp] theorem setJLost_saf_modeSince (s : State) (n : Nat) : (setJLost s n).saf.modeSince = s.saf.modeSince := rfl
@[simp] theorem setJLost_saf_aonFault (s : State) (n : Nat) : (setJLost s n).saf.aonFault = s.saf.aonFault := rfl
@[simp] theorem setJLost_saf_holdupTest (s : State) (n : Nat) : (setJLost s n).saf.holdupTest = s.saf.holdupTest := rfl
@[simp] theorem setJLost_saf_v0 (s : State) (n : Nat) : (setJLost s n).saf.v0 = s.saf.v0 := rfl
@[simp] theorem setJLost_saf_boardRecord (s : State) (n : Nat) : (setJLost s n).saf.boardRecord = s.saf.boardRecord := rfl
@[simp] theorem setJLost_saf_scanOn (s : State) (n : Nat) : (setJLost s n).saf.scanOn = s.saf.scanOn := rfl
@[simp] theorem setJLost_saf_jTail (s : State) (n : Nat) : (setJLost s n).saf.jTail = s.saf.jTail := rfl
@[simp] theorem setJLost_saf_jOver (s : State) (n : Nat) : (setJLost s n).saf.jOver = s.saf.jOver := rfl
@[simp] theorem setJLost_saf_jFlash (s : State) (n : Nat) : (setJLost s n).saf.jFlash = s.saf.jFlash := rfl
@[simp] theorem setJLost_saf_jMirror (s : State) (n : Nat) : (setJLost s n).saf.jMirror = s.saf.jMirror := rfl
@[simp] theorem setJLost_saf_jRetry (s : State) (n : Nat) : (setJLost s n).saf.jRetry = s.saf.jRetry := rfl
@[simp] theorem setJLost_saf_temps (s : State) (n : Nat) : (setJLost s n).saf.temps = s.saf.temps := rfl
@[simp] theorem setJLost_saf_wdtAt (s : State) (n : Nat) : (setJLost s n).saf.wdtAt = s.saf.wdtAt := rfl
@[simp] theorem setJLost_ctr (s : State) (n : Nat) : (setJLost s n).ctr = s.ctr := rfl
@[simp] theorem setJLost_cel (s : State) (n : Nat) : (setJLost s n).cel = s.cel := rfl
@[simp] theorem setJLost_tim (s : State) (n : Nat) : (setJLost s n).tim = s.tim := rfl
@[simp] theorem setJLost_fuse (s : State) (n : Nat) : (setJLost s n).fuse = s.fuse := rfl
@[simp] theorem setJLost_img (s : State) (n : Nat) : (setJLost s n).img = s.img := rfl
@[simp] theorem setJLost_mod (s : State) (n : Nat) : (setJLost s n).mod = s.mod := rfl
@[simp] theorem setJLost_pipe (s : State) (n : Nat) : (setJLost s n).pipe = s.pipe := rfl
@[simp] theorem setJLost_keys (s : State) (n : Nat) : (setJLost s n).keys = s.keys := rfl
@[simp] theorem setJLost_take (s : State) (n : Nat) : (setJLost s n).take = s.take := rfl
@[simp] theorem setJLost_tab (s : State) (n : Nat) : (setJLost s n).tab = s.tab := rfl
@[simp] theorem setJLost_hbm (s : State) (n : Nat) : (setJLost s n).hbm = s.hbm := rfl
@[simp] theorem setJLost_flo (s : State) (n : Nat) : (setJLost s n).flo = s.flo := rfl
@[simp] theorem setJLost_eng (s : State) (n : Nat) : (setJLost s n).eng = s.eng := rfl
@[simp] theorem setJLost_clu (s : State) (n : Nat) : (setJLost s n).clu = s.clu := rfl
@[simp] theorem setJLost_sent (s : State) (n : Nat) : (setJLost s n).sent = s.sent := rfl
@[simp] theorem setJLost_fresh (s : State) (n : Nat) : (setJLost s n).fresh = s.fresh := rfl
@[simp] theorem setJLost_pending (s : State) (n : Nat) : (setJLost s n).pending = s.pending := rfl

end Sys2Proof.Laws
end

