-- ==== Sys2Proof/Laws/Notify.lean ====
section
/-!
SUPPORT. What counting, signalling, posting an event and journalling can change: every such operation
keeps `rest` of the state; a field they do not own keeps its value.
-/

namespace Sys2Proof.Laws

open Sys2Proof Sys2Proof.Machine

@[simp] theorem rest_wr (s : State) (f : Fld) (v : Nat) : rest (wr s f v) = rest s := (rfl)
@[simp] theorem rest_wrB (s : State) (f : Fld) (b : Bool) : rest (wrB s f b) = rest s := (rfl)
@[simp] theorem rest_emit (s : State) (o : Sent) : rest (emit s o) = rest s := (rfl)
@[simp] theorem rest_freeVal (s : State) (w : Nat) : rest (freeVal s w).2 = rest s := (rfl)

@[simp] theorem rest_holdVec (s : State) (a b : Nat) : rest (holdVec s a b) = rest s := (rfl)
@[simp] theorem rest_pendVec (s : State) (a b : Nat) : rest (pendVec s a b) = rest s := (rfl)
@[simp] theorem rest_setWake (s : State) (b : Bool) : rest (setWake s b) = rest s := (rfl)
@[simp] theorem rest_setEvSeq (s : State) (n : Nat) : rest (setEvSeq s n) = rest s := (rfl)
@[simp] theorem rest_setTrigger (s : State) (c u : Nat) : rest (setTrigger s c u) = rest s := (rfl)
@[simp] theorem rest_setJTail (s : State) (l : List JRec) : rest (setJTail s l) = rest s := (rfl)
@[simp] theorem rest_setJOver (s : State) (l : List JRec) : rest (setJOver s l) = rest s := (rfl)
@[simp] theorem rest_setJLost (s : State) (n : Nat) : rest (setJLost s n) = rest s := (rfl)

/-- A fold of operations that keep the rest of the state keeps it. -/
theorem rest_foldl {β : Type} (f : State → β → State) (h : ∀ s b, rest (f s b) = rest s)
    (l : List β) (s : State) : rest (l.foldl f s) = rest s := foldl_keep rest f h l s

@[simp] theorem rest_wrs (s : State) (l : List (Fld × Nat)) : rest (wrs s l) = rest s :=
  rest_foldl (fun (s : State) (p : Fld × Nat) => wr s p.1 p.2) (fun _ _ => rfl) l s

@[simp] theorem rest_raiseVec (s : State) (fn vec : Nat) : rest (raiseVec s fn vec) = rest s := by
  unfold raiseVec; split
  · simp
  · split <;> simp

@[simp] theorem rest_hifErr (s : State) (f : Fld) : rest (hifErr s f) = rest s := by simp [hifErr]

@[simp] theorem rest_matchStep (n a b : Nat) (s : State) (j : Nat) : rest (matchStep n a b s j) = rest s := by
  unfold matchStep
  simp only []
  split
  · split <;> split <;> simp
  · rfl

@[simp] theorem rest_countOne (s : State) (n inc : Nat) : rest (countOne s n inc) = rest s := by
  unfold countOne
  simp only []
  split
  · rw [rest_foldl _ (fun t j => rest_matchStep n _ _ t j), rest_wr]
  · split <;> simp

@[simp] theorem rest_countProg (s : State) (n inc : Nat) : rest (countProg s n inc) = rest s := by
  unfold countProg
  simp only []
  split <;> simp

@[simp] theorem rest_bumpBy (s : State) (f : Fld) (inc : Nat) : rest (bumpBy s f inc) = rest s := by
  unfold bumpBy
  simp only []
  rw [rest_foldl _ (fun t p => by split <;> simp), rest_wr]

@[simp] theorem rest_bump (s : State) (f : Fld) : rest (bump s f) = rest s := rest_bumpBy s f 1

@[simp] theorem rest_postEvent (s : State) (typ quad : Nat) (ctl : Bool) (p : List Byte) (l : Option Fld) :
    rest (postEvent s typ quad ctl p l) = rest s := by
  unfold postEvent
  simp only []
  split
  · split <;> simp
  · simp

@[simp] theorem rest_drivePin (s : State) (f : Fld) (l : List String) (on : Bool) :
    rest (drivePin s f l on) = rest s := by
  unfold drivePin
  split
  · rfl
  · rw [rest_foldl _ (fun _ _ => rest_emit _ _), rest_wrB]

@[simp] theorem rest_syncPins (s : State) : rest (syncPins s) = rest s := by simp [syncPins]

@[simp] theorem rest_pinsFollow (s : State) : rest (pinsFollow s) = rest s := by
  unfold pinsFollow; split <;> simp

@[simp] theorem rest_jSync (s : State) : rest (jSync s) = rest s := by simp [jSync]

@[simp] theorem rest_jDiscard (s : State) : rest (jDiscard s) = rest s := by
  unfold jDiscard
  simp only [rest_syncPins, rest_bump, rest_wr]
  split <;> simp only [rest_wrs, rest_bump, rest_setJLost]

@[simp] theorem rest_jPlace (s : State) (r : JRec) : rest (jPlace s r) = rest s := by
  unfold jPlace
  simp only []
  repeat' split
  all_goals simp only [rest_jDiscard, rest_setJTail, rest_setJOver]

@[simp] theorem rest_journalFull (s : State) (typ sev req unit : Nat) (st : JStatus) (a b c : Nat) :
    rest (journalFull s typ sev req unit st a b c) = rest s := by
  simp only [journalFull, rest_jSync, rest_jPlace, rest_bump, rest_wr]

@[simp] theorem rest_journal (s : State) (typ sev unit : Nat) (st : JStatus) (a b : Nat) :
    rest (journal s typ sev unit st a b) = rest s := by simp [journal]

@[simp] theorem rest_notice (s : State) (r : List Byte) : rest (notice s r) = rest s := by simp [notice]

/-! ### Fields -/

/-- A fold of operations that keep a field keeps it. -/
theorem rd_foldl {β : Type} (f : State → β → State) (g : Fld) (h : ∀ s b, rd (f s b) g = rd s g)
    (l : List β) (s : State) : rd (l.foldl f s) g = rd s g := foldl_keep (fun t => rd t g) f h l s

@[simp] theorem rd_holdVec (s : State) (a b : Nat) (g : Fld) : rd (holdVec s a b) g = rd s g := rfl
@[simp] theorem rd_setWake (s : State) (b : Bool) (g : Fld) : rd (setWake s b) g = rd s g := rfl
@[simp] theorem rd_setEvSeq (s : State) (n : Nat) (g : Fld) : rd (setEvSeq s n) g = rd s g := rfl
@[simp] theorem rd_setTrigger (s : State) (c u : Nat) (g : Fld) : rd (setTrigger s c u) g = rd s g := rfl
@[simp] theorem rd_setJTail (s : State) (l : List JRec) (g : Fld) : rd (setJTail s l) g = rd s g := rfl
@[simp] theorem rd_setJOver (s : State) (l : List JRec) (g : Fld) : rd (setJOver s l) g = rd s g := rfl
@[simp] theorem rd_setJLost (s : State) (n : Nat) (g : Fld) : rd (setJLost s n) g = rd s g := rfl

@[simp] theorem rd_raiseVec (s : State) (fn vec : Nat) (g : Fld) : rd (raiseVec s fn vec) g = rd s g := by
  unfold raiseVec; split
  · rfl
  · split <;> rfl

theorem rd_hifErr_ne (s : State) (f g : Fld) (h : fkey f ≠ fkey g) : rd (hifErr s f) g = rd s g := by
  simp [hifErr, rd_wr_ne _ _ _ _ h]

@[simp] theorem rd_hifErr_self (s : State) (f : Fld) (h : f.wid = 1) : rd (hifErr s f) f = 1 := by
  simp [hifErr, rd_wr_self, h]

/-- `k` is outside the programmable counters' results. -/
def offCtr (k : Nat) : Bool := !(64 * 0x81000 ≤ k && k < 64 * 0x82200)

theorem offCtr_of_quiet {k : Nat} (h : quiet k = true) : offCtr k = true := by
  simp only [quiet, offCtr, Bool.not_or, Bool.and_eq_true] at *
  exact h.1

theorem rd_matchStep (n a b j : Nat) (s : State) (g : Fld) (hj : j < 4) (h : offCtr (fkey g) = true) :
    rd (matchStep n a b s j) g = rd s g := by
  have hk : fkey (R.ctrMatchHit j) ≠ fkey g := by
    intro e; rw [← e] at h
    simp only [offCtr, fkey, R.ctrMatchHit, Bool.not_eq_true', Bool.and_eq_false_iff] at h
    rcases h with h | h <;> (have h := of_decide_eq_false h; omega)
  unfold matchStep
  simp only []
  split
  · split <;> split <;> simp only [rd_setTrigger, rd_raiseVec, rd_wr_ne _ _ _ _ hk]
  · rfl

theorem rd_countOne (s : State) (n inc : Nat) (g : Fld) (hn : n < 513) (h : offCtr (fkey g) = true) :
    rd (countOne s n inc) g = rd s g := by
  have hk : fkey (R.ctrValCount n) ≠ fkey g := by
    intro e; rw [← e] at h; simp [offCtr, fkey, R.ctrValCount] at h; omega
  have ho : fkey (R.ctrOvfOvf (n / 64)) ≠ fkey g := by
    intro e; rw [← e] at h; simp [offCtr, fkey, R.ctrOvfOvf] at h; omega
  unfold countOne
  simp only []
  split
  · have hf : ∀ (l : List Nat) (t : State), (∀ j ∈ l, j < 4) →
        rd (l.foldl (matchStep n (rd s (R.ctrValCount n)) (rd s (R.ctrValCount n) + inc)) t) g = rd t g := by
      intro l
      induction l with
      | nil => intro t _; rfl
      | cons j l ih =>
        intro t hl
        rw [List.foldl_cons, ih _ (fun i hi => hl i (List.mem_cons_of_mem _ hi)),
          rd_matchStep _ _ _ _ _ _ (hl j (List.mem_cons_self ..)) h]
    rw [hf _ _ (fun j hj => List.mem_range.mp hj), rd_wr_ne _ _ _ _ hk]
  · split <;> simp [rd_wr_ne _ _ _ _ ho, rd_wr_ne _ _ _ _ hk]

theorem rd_countProg (s : State) (n inc : Nat) (g : Fld) (hn : n < 512) (h : offCtr (fkey g) = true) :
    rd (countProg s n inc) g = rd s g := by
  unfold countProg
  simp only []
  split
  · rw [rd_countOne _ _ _ _ (by omega) h, rd_countOne _ _ _ _ (by omega) h]
  · rw [rd_countOne _ _ _ _ (by omega) h]

theorem rd_watch (f g : Fld) (inc : Nat) (h : offCtr (fkey g) = true) (l : List (Nat × Nat)) (t : State) :
    rd (l.foldl (fun s p => if p.2 = f.addr then countProg s (p.1 % 512) inc else s) t) g = rd t g :=
  rd_foldl _ g (fun u p => by
    split
    · exact rd_countProg _ _ _ _ (Nat.mod_lt _ (by decide)) h
    · rfl) l t

/-- A fixed counter advances by `inc`, modulo 2 to its width. -/
theorem rd_bumpBy_self (s : State) (f : Fld) (inc : Nat) (h : offCtr (fkey f) = true) :
    rd (bumpBy s f inc) f = (rd s f + inc) % 2 ^ f.wid := by
  unfold bumpBy
  simp only []
  rw [rd_watch _ _ _ h, rd_wr_self]

theorem rd_bump_self (s : State) (f : Fld) (h : offCtr (fkey f) = true) :
    rd (bump s f) f = (rd s f + 1) % 2 ^ f.wid := rd_bumpBy_self s f 1 h

theorem rd_bumpBy_ne (s : State) (f g : Fld) (inc : Nat) (hk : fkey f ≠ fkey g) (h : offCtr (fkey g) = true) :
    rd (bumpBy s f inc) g = rd s g := by
  unfold bumpBy
  simp only []
  rw [rd_watch _ _ _ h, rd_wr_ne _ _ _ _ hk]

theorem rd_bump_ne (s : State) (f g : Fld) (hk : fkey f ≠ fkey g) (h : offCtr (fkey g) = true) :
    rd (bump s f) g = rd s g := rd_bumpBy_ne s f g 1 hk h

theorem quiet_ne {f g : Fld} (h : quiet (fkey g) = true) (hf : quiet (fkey f) = false) : fkey f ≠ fkey g := by
  intro e; rw [e, h] at hf; cases hf

theorem rd_wr_quiet (s : State) (f g : Fld) (v : Nat) (hf : quiet (fkey f) = false) (h : quiet (fkey g) = true) :
    rd (wr s f v) g = rd s g := rd_wr_ne _ _ _ _ (quiet_ne h hf)

theorem rd_bump_quiet (s : State) (f g : Fld) (hf : quiet (fkey f) = false) (h : quiet (fkey g) = true) :
    rd (bump s f) g = rd s g := rd_bump_ne _ _ _ (quiet_ne h hf) (offCtr_of_quiet h)

theorem rd_postEvent (s : State) (typ quad : Nat) (ctl : Bool) (p : List Byte) (l : Option Fld) (g : Fld)
    (h : quiet (fkey g) = true) (hl : ∀ f, l = some f → fkey f ≠ fkey g) :
    rd (postEvent s typ quad ctl p l) g = rd s g := by
  unfold postEvent
  simp only []
  split
  · split
    · rename_i f
      rw [rd_bump_ne _ _ _ (hl f rfl) (offCtr_of_quiet h), rd_bump_quiet _ _ _ (by rfl) h]
    · rw [rd_bump_quiet _ _ _ (by rfl) h]
  · rw [rd_raiseVec]
    exact rd_wr_quiet _ _ _ _ (by rfl) h

theorem rd_drivePin (s : State) (f g : Fld) (l : List String) (on : Bool) (h : fkey f ≠ fkey g) :
    rd (drivePin s f l on) g = rd s g := by
  unfold drivePin
  split
  · rfl
  · rw [rd_foldl _ _ (fun _ _ => rd_emit _ _ _), rd_wrB_ne _ _ _ _ h]

theorem rd_syncPins (s : State) (g : Fld) (h1 : fkey g ≠ 64 * 0x60000) (h2 : fkey g ≠ 64 * 0x60000 + 1) :
    rd (syncPins s) g = rd s g := by
  have e1 : fkey R.safStatSafeN ≠ fkey g := fun e => h1 e.symm
  have e2 : fkey R.safStatFaultN ≠ fkey g := fun e => h2 e.symm
  simp only [syncPins]
  rw [rd_drivePin _ _ _ _ _ e2, rd_drivePin _ _ _ _ _ e1]

theorem rd_pinsFollow (s : State) (g : Fld) (h1 : fkey g ≠ 64 * 0x60000) (h2 : fkey g ≠ 64 * 0x60000 + 1) :
    rd (pinsFollow s) g = rd s g := by
  unfold pinsFollow
  split
  · rfl
  · exact rd_syncPins s g h1 h2

theorem quiet_pins {k : Nat} (h : quiet k = true) : k ≠ 64 * 0x60000 ∧ k ≠ 64 * 0x60000 + 1 := by
  constructor <;> (intro e; rw [e] at h; exact absurd h (by decide))

theorem rd_syncPins_quiet (s : State) (g : Fld) (h : quiet (fkey g) = true) : rd (syncPins s) g = rd s g :=
  rd_syncPins s g (quiet_pins h).1 (quiet_pins h).2

theorem rd_pinsFollow_quiet (s : State) (g : Fld) (h : quiet (fkey g) = true) : rd (pinsFollow s) g = rd s g :=
  rd_pinsFollow s g (quiet_pins h).1 (quiet_pins h).2

theorem rd_jDiscard (s : State) (g : Fld) (h : quiet (fkey g) = true) : rd (jDiscard s) g = rd s g := by
  unfold jDiscard
  simp only []
  rw [rd_syncPins_quiet _ _ h, rd_bump_quiet _ _ _ (by rfl) h, rd_wr_quiet _ _ _ _ (by rfl) h]
  split
  · simp only [wrs_cons, wrs_nil]
    rw [rd_wr_quiet _ _ _ _ (by rfl) h, rd_wr_quiet _ _ _ _ (by rfl) h, rd_wr_quiet _ _ _ _ (by rfl) h,
      rd_bump_quiet _ _ _ (by rfl) h, rd_setJLost]
  · rw [rd_bump_quiet _ _ _ (by rfl) h, rd_setJLost]

theorem rd_jPlace (s : State) (r : JRec) (g : Fld) (h : quiet (fkey g) = true) : rd (jPlace s r) g = rd s g := by
  unfold jPlace
  simp only []
  repeat' split
  all_goals simp only [rd_jDiscard _ _ h, rd_setJTail, rd_setJOver]

theorem rd_journalFull (s : State) (typ sev req unit : Nat) (st : JStatus) (a b c : Nat) (g : Fld)
    (h : quiet (fkey g) = true) : rd (journalFull s typ sev req unit st a b c) g = rd s g := by
  unfold journalFull
  simp only [jSync]
  rw [rd_wr_quiet _ _ _ _ (by rfl) h, rd_jPlace _ _ _ h, rd_bump_quiet _ _ _ (by rfl) h,
    rd_wr_quiet _ _ _ _ (by rfl) h]

theorem rd_journal (s : State) (typ sev unit : Nat) (st : JStatus) (a b : Nat) (g : Fld)
    (h : quiet (fkey g) = true) : rd (journal s typ sev unit st a b) g = rd s g := rd_journalFull _ _ _ _ _ _ _ _ _ _ h

theorem rd_notice (s : State) (r : List Byte) (g : Fld) (h : quiet (fkey g) = true) : rd (notice s r) g = rd s g := by
  unfold notice
  simp only []
  rw [rd_postEvent _ _ _ _ _ _ _ h (fun _ e => by cases e), rd_freeVal]

end Sys2Proof.Laws
end

