-- ==== Sys2Proof/Laws/Notified.lean ====
section
/-!
SUPPORT. One lemma per field of State and notification: counting, signalling, events and the journal leave it alone.
-/

namespace Sys2Proof.Laws

open Sys2Proof Sys2Proof.Machine

@[simp] theorem raiseVec_stats (s : State) (a b : Nat) : (raiseVec s a b).stats = s.stats := congrArg (·.stats) (rest_raiseVec s a b)
@[simp] theorem raiseVec_flashRegs (s : State) (a b : Nat) : (raiseVec s a b).flashRegs = s.flashRegs := congrArg (·.flashRegs) (rest_raiseVec s a b)
@[simp] theorem raiseVec_host_latches (s : State) (a b : Nat) : (raiseVec s a b).host.latches = s.host.latches :=
  congrArg (·.host.latches) (rest_raiseVec s a b)
@[simp] theorem raiseVec_host_takenBy (s : State) (a b : Nat) : (raiseVec s a b).host.takenBy = s.host.takenBy :=
  congrArg (·.host.takenBy) (rest_raiseVec s a b)
@[simp] theorem raiseVec_host_responseDue (s : State) (a b : Nat) : (raiseVec s a b).host.responseDue = s.host.responseDue :=
  congrArg (·.host.responseDue) (rest_raiseVec s a b)
@[simp] theorem raiseVec_host_nonces (s : State) (a b : Nat) : (raiseVec s a b).host.nonces = s.host.nonces :=
  congrArg (·.host.nonces) (rest_raiseVec s a b)
@[simp] theorem raiseVec_host_ringTail (s : State) (a b : Nat) : (raiseVec s a b).host.ringTail = s.host.ringTail :=
  congrArg (·.host.ringTail) (rest_raiseVec s a b)
@[simp] theorem raiseVec_host_batches (s : State) (a b : Nat) : (raiseVec s a b).host.batches = s.host.batches :=
  congrArg (·.host.batches) (rest_raiseVec s a b)
@[simp] theorem raiseVec_host_outRing (s : State) (a b : Nat) : (raiseVec s a b).host.outRing = s.host.outRing :=
  congrArg (·.host.outRing) (rest_raiseVec s a b)
@[simp] theorem raiseVec_host_held (s : State) (a b : Nat) : (raiseVec s a b).host.held = s.host.held :=
  congrArg (·.host.held) (rest_raiseVec s a b)
@[simp] theorem raiseVec_host_link (s : State) (a b : Nat) : (raiseVec s a b).host.link = s.host.link :=
  congrArg (·.host.link) (rest_raiseVec s a b)
@[simp] theorem raiseVec_host_wakeEnding (s : State) (a b : Nat) : (raiseVec s a b).host.wakeEnding = s.host.wakeEnding :=
  congrArg (·.host.wakeEnding) (rest_raiseVec s a b)
@[simp] theorem raiseVec_host_txNext (s : State) (a b : Nat) : (raiseVec s a b).host.txNext = s.host.txNext :=
  congrArg (·.host.txNext) (rest_raiseVec s a b)
@[simp] theorem raiseVec_host_authAt (s : State) (a b : Nat) : (raiseVec s a b).host.authAt = s.host.authAt :=
  congrArg (·.host.authAt) (rest_raiseVec s a b)
@[simp] theorem raiseVec_host_refclk (s : State) (a b : Nat) : (raiseVec s a b).host.refclk = s.host.refclk :=
  congrArg (·.host.refclk) (rest_raiseVec s a b)
@[simp] theorem raiseVec_host_msixMask (s : State) (a b : Nat) : (raiseVec s a b).host.msixMask = s.host.msixMask :=
  congrArg (·.host.msixMask) (rest_raiseVec s a b)
@[simp] theorem raiseVec_host_aerUr (s : State) (a b : Nat) : (raiseVec s a b).host.aerUr = s.host.aerUr :=
  congrArg (·.host.aerUr) (rest_raiseVec s a b)
@[simp] theorem raiseVec_saf_standing (s : State) (a b : Nat) : (raiseVec s a b).saf.standing = s.saf.standing :=
  congrArg (·.saf.standing) (rest_raiseVec s a b)
@[simp] theorem raiseVec_saf_uncRead (s : State) (a b : Nat) : (raiseVec s a b).saf.uncRead = s.saf.uncRead :=
  congrArg (·.saf.uncRead) (rest_raiseVec s a b)
@[simp] theorem raiseVec_saf_pipePass (s : State) (a b : Nat) : (raiseVec s a b).saf.pipePass = s.saf.pipePass :=
  congrArg (·.saf.pipePass) (rest_raiseVec s a b)
@[simp] theorem raiseVec_saf_engPass (s : State) (a b : Nat) : (raiseVec s a b).saf.engPass = s.saf.engPass :=
  congrArg (·.saf.engPass) (rest_raiseVec s a b)
@[simp] theorem raiseVec_saf_unposted (s : State) (a b : Nat) : (raiseVec s a b).saf.unposted = s.saf.unposted :=
  congrArg (·.saf.unposted) (rest_raiseVec s a b)
@[simp] theorem raiseVec_saf_pfwN (s : State) (a b : Nat) : (raiseVec s a b).saf.pfwN = s.saf.pfwN :=
  congrArg (·.saf.pfwN) (rest_raiseVec s a b)
@[simp] theorem raiseVec_saf_modeSince (s : State) (a b : Nat) : (raiseVec s a b).saf.modeSince = s.saf.modeSince :=
  congrArg (·.saf.modeSince) (rest_raiseVec s a b)
@[simp] theorem raiseVec_saf_aonFault (s : State) (a b : Nat) : (raiseVec s a b).saf.aonFault = s.saf.aonFault :=
  congrArg (·.saf.aonFault) (rest_raiseVec s a b)
@[simp] theorem raiseVec_saf_holdupTest (s : State) (a b : Nat) : (raiseVec s a b).saf.holdupTest = s.saf.holdupTest :=
  congrArg (·.saf.holdupTest) (rest_raiseVec s a b)
@[simp] theorem raiseVec_saf_v0 (s : State) (a b : Nat) : (raiseVec s a b).saf.v0 = s.saf.v0 :=
  congrArg (·.saf.v0) (rest_raiseVec s a b)
@[simp] theorem raiseVec_saf_boardRecord (s : State) (a b : Nat) : (raiseVec s a b).saf.boardRecord = s.saf.boardRecord :=
  congrArg (·.saf.boardRecord) (rest_raiseVec s a b)
@[simp] theorem raiseVec_saf_scanOn (s : State) (a b : Nat) : (raiseVec s a b).saf.scanOn = s.saf.scanOn :=
  congrArg (·.saf.scanOn) (rest_raiseVec s a b)
@[simp] theorem raiseVec_saf_jFlash (s : State) (a b : Nat) : (raiseVec s a b).saf.jFlash = s.saf.jFlash :=
  congrArg (·.saf.jFlash) (rest_raiseVec s a b)
@[simp] theorem raiseVec_saf_jMirror (s : State) (a b : Nat) : (raiseVec s a b).saf.jMirror = s.saf.jMirror :=
  congrArg (·.saf.jMirror) (rest_raiseVec s a b)
@[simp] theorem raiseVec_saf_jRetry (s : State) (a b : Nat) : (raiseVec s a b).saf.jRetry = s.saf.jRetry :=
  congrArg (·.saf.jRetry) (rest_raiseVec s a b)
@[simp] theorem raiseVec_saf_temps (s : State) (a b : Nat) : (raiseVec s a b).saf.temps = s.saf.temps :=
  congrArg (·.saf.temps) (rest_raiseVec s a b)
@[simp] theorem raiseVec_saf_wdtAt (s : State) (a b : Nat) : (raiseVec s a b).saf.wdtAt = s.saf.wdtAt :=
  congrArg (·.saf.wdtAt) (rest_raiseVec s a b)
@[simp] theorem raiseVec_ctr_watch (s : State) (a b : Nat) : (raiseVec s a b).ctr.watch = s.ctr.watch :=
  congrArg (·.ctr.watch) (rest_raiseVec s a b)
@[simp] theorem raiseVec_ctr_smpBuf (s : State) (a b : Nat) : (raiseVec s a b).ctr.smpBuf = s.ctr.smpBuf :=
  congrArg (·.ctr.smpBuf) (rest_raiseVec s a b)
@[simp] theorem raiseVec_ctr_smpFifo (s : State) (a b : Nat) : (raiseVec s a b).ctr.smpFifo = s.ctr.smpFifo :=
  congrArg (·.ctr.smpFifo) (rest_raiseVec s a b)
@[simp] theorem raiseVec_ctr_smpSel (s : State) (a b : Nat) : (raiseVec s a b).ctr.smpSel = s.ctr.smpSel :=
  congrArg (·.ctr.smpSel) (rest_raiseVec s a b)
@[simp] theorem raiseVec_ctr_smpSeq (s : State) (a b : Nat) : (raiseVec s a b).ctr.smpSeq = s.ctr.smpSeq :=
  congrArg (·.ctr.smpSeq) (rest_raiseVec s a b)
@[simp] theorem raiseVec_ctr_frzCmd (s : State) (a b : Nat) : (raiseVec s a b).ctr.frzCmd = s.ctr.frzCmd :=
  congrArg (·.ctr.frzCmd) (rest_raiseVec s a b)
@[simp] theorem raiseVec_ctr_frzStep (s : State) (a b : Nat) : (raiseVec s a b).ctr.frzStep = s.ctr.frzStep :=
  congrArg (·.ctr.frzStep) (rest_raiseVec s a b)
@[simp] theorem raiseVec_ctr_frzDataRo (s : State) (a b : Nat) : (raiseVec s a b).ctr.frzDataRo = s.ctr.frzDataRo :=
  congrArg (·.ctr.frzDataRo) (rest_raiseVec s a b)
@[simp] theorem raiseVec_ctr_frzDump (s : State) (a b : Nat) : (raiseVec s a b).ctr.frzDump = s.ctr.frzDump :=
  congrArg (·.ctr.frzDump) (rest_raiseVec s a b)
@[simp] theorem raiseVec_ctr_rushesTo (s : State) (a b : Nat) : (raiseVec s a b).ctr.rushesTo = s.ctr.rushesTo :=
  congrArg (·.ctr.rushesTo) (rest_raiseVec s a b)
@[simp] theorem raiseVec_ctr_frzWarm (s : State) (a b : Nat) : (raiseVec s a b).ctr.frzWarm = s.ctr.frzWarm :=
  congrArg (·.ctr.frzWarm) (rest_raiseVec s a b)
@[simp] theorem raiseVec_ctr_jtag (s : State) (a b : Nat) : (raiseVec s a b).ctr.jtag = s.ctr.jtag :=
  congrArg (·.ctr.jtag) (rest_raiseVec s a b)
@[simp] theorem raiseVec_ctr_preload (s : State) (a b : Nat) : (raiseVec s a b).ctr.preload = s.ctr.preload :=
  congrArg (·.ctr.preload) (rest_raiseVec s a b)
@[simp] theorem raiseVec_ctr_frzAt (s : State) (a b : Nat) : (raiseVec s a b).ctr.frzAt = s.ctr.frzAt :=
  congrArg (·.ctr.frzAt) (rest_raiseVec s a b)
@[simp] theorem raiseVec_cel (s : State) (a b : Nat) : (raiseVec s a b).cel = s.cel := congrArg (·.cel) (rest_raiseVec s a b)
@[simp] theorem raiseVec_tim (s : State) (a b : Nat) : (raiseVec s a b).tim = s.tim := congrArg (·.tim) (rest_raiseVec s a b)
@[simp] theorem raiseVec_fuse (s : State) (a b : Nat) : (raiseVec s a b).fuse = s.fuse := congrArg (·.fuse) (rest_raiseVec s a b)
@[simp] theorem raiseVec_img (s : State) (a b : Nat) : (raiseVec s a b).img = s.img := congrArg (·.img) (rest_raiseVec s a b)
@[simp] theorem raiseVec_mod (s : State) (a b : Nat) : (raiseVec s a b).mod = s.mod := congrArg (·.mod) (rest_raiseVec s a b)
@[simp] theorem raiseVec_pipe (s : State) (a b : Nat) : (raiseVec s a b).pipe = s.pipe := congrArg (·.pipe) (rest_raiseVec s a b)
@[simp] theorem raiseVec_keys (s : State) (a b : Nat) : (raiseVec s a b).keys = s.keys := congrArg (·.keys) (rest_raiseVec s a b)
@[simp] theorem raiseVec_take (s : State) (a b : Nat) : (raiseVec s a b).take = s.take := congrArg (·.take) (rest_raiseVec s a b)
@[simp] theorem raiseVec_tab (s : State) (a b : Nat) : (raiseVec s a b).tab = s.tab := congrArg (·.tab) (rest_raiseVec s a b)
@[simp] theorem raiseVec_hbm (s : State) (a b : Nat) : (raiseVec s a b).hbm = s.hbm := congrArg (·.hbm) (rest_raiseVec s a b)
@[simp] theorem raiseVec_flo (s : State) (a b : Nat) : (raiseVec s a b).flo = s.flo := congrArg (·.flo) (rest_raiseVec s a b)
@[simp] theorem raiseVec_eng (s : State) (a b : Nat) : (raiseVec s a b).eng = s.eng := congrArg (·.eng) (rest_raiseVec s a b)
@[simp] theorem raiseVec_clu (s : State) (a b : Nat) : (raiseVec s a b).clu = s.clu := congrArg (·.clu) (rest_raiseVec s a b)
@[simp] theorem raiseVec_pending (s : State) (a b : Nat) : (raiseVec s a b).pending = s.pending := congrArg (·.pending) (rest_raiseVec s a b)

@[simp] theorem hifErr_stats (s : State) (f : Fld) : (hifErr s f).stats = s.stats := congrArg (·.stats) (rest_hifErr s f)
@[simp] theorem hifErr_flashRegs (s : State) (f : Fld) : (hifErr s f).flashRegs = s.flashRegs := congrArg (·.flashRegs) (rest_hifErr s f)
@[simp] theorem hifErr_host_latches (s : State) (f : Fld) : (hifErr s f).host.latches = s.host.latches :=
  congrArg (·.host.latches) (rest_hifErr s f)
@[simp] theorem hifErr_host_takenBy (s : State) (f : Fld) : (hifErr s f).host.takenBy = s.host.takenBy :=
  congrArg (·.host.takenBy) (rest_hifErr s f)
@[simp] theorem hifErr_host_responseDue (s : State) (f : Fld) : (hifErr s f).host.responseDue = s.host.responseDue :=
  congrArg (·.host.responseDue) (rest_hifErr s f)
@[simp] theorem hifErr_host_nonces (s : State) (f : Fld) : (hifErr s f).host.nonces = s.host.nonces :=
  congrArg (·.host.nonces) (rest_hifErr s f)
@[simp] theorem hifErr_host_ringTail (s : State) (f : Fld) : (hifErr s f).host.ringTail = s.host.ringTail :=
  congrArg (·.host.ringTail) (rest_hifErr s f)
@[simp] theorem hifErr_host_batches (s : State) (f : Fld) : (hifErr s f).host.batches = s.host.batches :=
  congrArg (·.host.batches) (rest_hifErr s f)
@[simp] theorem hifErr_host_outRing (s : State) (f : Fld) : (hifErr s f).host.outRing = s.host.outRing :=
  congrArg (·.host.outRing) (rest_hifErr s f)
@[simp] theorem hifErr_host_held (s : State) (f : Fld) : (hifErr s f).host.held = s.host.held :=
  congrArg (·.host.held) (rest_hifErr s f)
@[simp] theorem hifErr_host_link (s : State) (f : Fld) : (hifErr s f).host.link = s.host.link :=
  congrArg (·.host.link) (rest_hifErr s f)
@[simp] theorem hifErr_host_wakeEnding (s : State) (f : Fld) : (hifErr s f).host.wakeEnding = s.host.wakeEnding :=
  congrArg (·.host.wakeEnding) (rest_hifErr s f)
@[simp] theorem hifErr_host_txNext (s : State) (f : Fld) : (hifErr s f).host.txNext = s.host.txNext :=
  congrArg (·.host.txNext) (rest_hifErr s f)
@[simp] theorem hifErr_host_authAt (s : State) (f : Fld) : (hifErr s f).host.authAt = s.host.authAt :=
  congrArg (·.host.authAt) (rest_hifErr s f)
@[simp] theorem hifErr_host_refclk (s : State) (f : Fld) : (hifErr s f).host.refclk = s.host.refclk :=
  congrArg (·.host.refclk) (rest_hifErr s f)
@[simp] theorem hifErr_host_msixMask (s : State) (f : Fld) : (hifErr s f).host.msixMask = s.host.msixMask :=
  congrArg (·.host.msixMask) (rest_hifErr s f)
@[simp] theorem hifErr_host_aerUr (s : State) (f : Fld) : (hifErr s f).host.aerUr = s.host.aerUr :=
  congrArg (·.host.aerUr) (rest_hifErr s f)
@[simp] theorem hifErr_saf_standing (s : State) (f : Fld) : (hifErr s f).saf.standing = s.saf.standing :=
  congrArg (·.saf.standing) (rest_hifErr s f)
@[simp] theorem hifErr_saf_uncRead (s : State) (f : Fld) : (hifErr s f).saf.uncRead = s.saf.uncRead :=
  congrArg (·.saf.uncRead) (rest_hifErr s f)
@[simp] theorem hifErr_saf_pipePass (s : State) (f : Fld) : (hifErr s f).saf.pipePass = s.saf.pipePass :=
  congrArg (·.saf.pipePass) (rest_hifErr s f)
@[simp] theorem hifErr_saf_engPass (s : State) (f : Fld) : (hifErr s f).saf.engPass = s.saf.engPass :=
  congrArg (·.saf.engPass) (rest_hifErr s f)
@[simp] theorem hifErr_saf_unposted (s : State) (f : Fld) : (hifErr s f).saf.unposted = s.saf.unposted :=
  congrArg (·.saf.unposted) (rest_hifErr s f)
@[simp] theorem hifErr_saf_pfwN (s : State) (f : Fld) : (hifErr s f).saf.pfwN = s.saf.pfwN :=
  congrArg (·.saf.pfwN) (rest_hifErr s f)
@[simp] theorem hifErr_saf_modeSince (s : State) (f : Fld) : (hifErr s f).saf.modeSince = s.saf.modeSince :=
  congrArg (·.saf.modeSince) (rest_hifErr s f)
@[simp] theorem hifErr_saf_aonFault (s : State) (f : Fld) : (hifErr s f).saf.aonFault = s.saf.aonFault :=
  congrArg (·.saf.aonFault) (rest_hifErr s f)
@[simp] theorem hifErr_saf_holdupTest (s : State) (f : Fld) : (hifErr s f).saf.holdupTest = s.saf.holdupTest :=
  congrArg (·.saf.holdupTest) (rest_hifErr s f)
@[simp] theorem hifErr_saf_v0 (s : State) (f : Fld) : (hifErr s f).saf.v0 = s.saf.v0 :=
  congrArg (·.saf.v0) (rest_hifErr s f)
@[simp] theorem hifErr_saf_boardRecord (s : State) (f : Fld) : (hifErr s f).saf.boardRecord = s.saf.boardRecord :=
  congrArg (·.saf.boardRecord) (rest_hifErr s f)
@[simp] theorem hifErr_saf_scanOn (s : State) (f : Fld) : (hifErr s f).saf.scanOn = s.saf.scanOn :=
  congrArg (·.saf.scanOn) (rest_hifErr s f)
@[simp] theorem hifErr_saf_jFlash (s : State) (f : Fld) : (hifErr s f).saf.jFlash = s.saf.jFlash :=
  congrArg (·.saf.jFlash) (rest_hifErr s f)
@[simp] theorem hifErr_saf_jMirror (s : State) (f : Fld) : (hifErr s f).saf.jMirror = s.saf.jMirror :=
  congrArg (·.saf.jMirror) (rest_hifErr s f)
@[simp] theorem hifErr_saf_jRetry (s : State) (f : Fld) : (hifErr s f).saf.jRetry = s.saf.jRetry :=
  congrArg (·.saf.jRetry) (rest_hifErr s f)
@[simp] theorem hifErr_saf_temps (s : State) (f : Fld) : (hifErr s f).saf.temps = s.saf.temps :=
  congrArg (·.saf.temps) (rest_hifErr s f)
@[simp] theorem hifErr_saf_wdtAt (s : State) (f : Fld) : (hifErr s f).saf.wdtAt = s.saf.wdtAt :=
  congrArg (·.saf.wdtAt) (rest_hifErr s f)
@[simp] theorem hifErr_ctr_watch (s : State) (f : Fld) : (hifErr s f).ctr.watch = s.ctr.watch :=
  congrArg (·.ctr.watch) (rest_hifErr s f)
@[simp] theorem hifErr_ctr_smpBuf (s : State) (f : Fld) : (hifErr s f).ctr.smpBuf = s.ctr.smpBuf :=
  congrArg (·.ctr.smpBuf) (rest_hifErr s f)
@[simp] theorem hifErr_ctr_smpFifo (s : State) (f : Fld) : (hifErr s f).ctr.smpFifo = s.ctr.smpFifo :=
  congrArg (·.ctr.smpFifo) (rest_hifErr s f)
@[simp] theorem hifErr_ctr_smpSel (s : State) (f : Fld) : (hifErr s f).ctr.smpSel = s.ctr.smpSel :=
  congrArg (·.ctr.smpSel) (rest_hifErr s f)
@[simp] theorem hifErr_ctr_smpSeq (s : State) (f : Fld) : (hifErr s f).ctr.smpSeq = s.ctr.smpSeq :=
  congrArg (·.ctr.smpSeq) (rest_hifErr s f)
@[simp] theorem hifErr_ctr_frzCmd (s : State) (f : Fld) : (hifErr s f).ctr.frzCmd = s.ctr.frzCmd :=
  congrArg (·.ctr.frzCmd) (rest_hifErr s f)
@[simp] theorem hifErr_ctr_frzStep (s : State) (f : Fld) : (hifErr s f).ctr.frzStep = s.ctr.frzStep :=
  congrArg (·.ctr.frzStep) (rest_hifErr s f)
@[simp] theorem hifErr_ctr_frzDataRo (s : State) (f : Fld) : (hifErr s f).ctr.frzDataRo = s.ctr.frzDataRo :=
  congrArg (·.ctr.frzDataRo) (rest_hifErr s f)
@[simp] theorem hifErr_ctr_frzDump (s : State) (f : Fld) : (hifErr s f).ctr.frzDump = s.ctr.frzDump :=
  congrArg (·.ctr.frzDump) (rest_hifErr s f)
@[simp] theorem hifErr_ctr_rushesTo (s : State) (f : Fld) : (hifErr s f).ctr.rushesTo = s.ctr.rushesTo :=
  congrArg (·.ctr.rushesTo) (rest_hifErr s f)
@[simp] theorem hifErr_ctr_frzWarm (s : State) (f : Fld) : (hifErr s f).ctr.frzWarm = s.ctr.frzWarm :=
  congrArg (·.ctr.frzWarm) (rest_hifErr s f)
@[simp] theorem hifErr_ctr_jtag (s : State) (f : Fld) : (hifErr s f).ctr.jtag = s.ctr.jtag :=
  congrArg (·.ctr.jtag) (rest_hifErr s f)
@[simp] theorem hifErr_ctr_preload (s : State) (f : Fld) : (hifErr s f).ctr.preload = s.ctr.preload :=
  congrArg (·.ctr.preload) (rest_hifErr s f)
@[simp] theorem hifErr_ctr_frzAt (s : State) (f : Fld) : (hifErr s f).ctr.frzAt = s.ctr.frzAt :=
  congrArg (·.ctr.frzAt) (rest_hifErr s f)
@[simp] theorem hifErr_cel (s : State) (f : Fld) : (hifErr s f).cel = s.cel := congrArg (·.cel) (rest_hifErr s f)
@[simp] theorem hifErr_tim (s : State) (f : Fld) : (hifErr s f).tim = s.tim := congrArg (·.tim) (rest_hifErr s f)
@[simp] theorem hifErr_fuse (s : State) (f : Fld) : (hifErr s f).fuse = s.fuse := congrArg (·.fuse) (rest_hifErr s f)
@[simp] theorem hifErr_img (s : State) (f : Fld) : (hifErr s f).img = s.img := congrArg (·.img) (rest_hifErr s f)
@[simp] theorem hifErr_mod (s : State) (f : Fld) : (hifErr s f).mod = s.mod := congrArg (·.mod) (rest_hifErr s f)
@[simp] theorem hifErr_pipe (s : State) (f : Fld) : (hifErr s f).pipe = s.pipe := congrArg (·.pipe) (rest_hifErr s f)
@[simp] theorem hifErr_keys (s : State) (f : Fld) : (hifErr s f).keys = s.keys := congrArg (·.keys) (rest_hifErr s f)
@[simp] theorem hifErr_take (s : State) (f : Fld) : (hifErr s f).take = s.take := congrArg (·.take) (rest_hifErr s f)
@[simp] theorem hifErr_tab (s : State) (f : Fld) : (hifErr s f).tab = s.tab := congrArg (·.tab) (rest_hifErr s f)
@[simp] theorem hifErr_hbm (s : State) (f : Fld) : (hifErr s f).hbm = s.hbm := congrArg (·.hbm) (rest_hifErr s f)
@[simp] theorem hifErr_flo (s : State) (f : Fld) : (hifErr s f).flo = s.flo := congrArg (·.flo) (rest_hifErr s f)
@[simp] theorem hifErr_eng (s : State) (f : Fld) : (hifErr s f).eng = s.eng := congrArg (·.eng) (rest_hifErr s f)
@[simp] theorem hifErr_clu (s : State) (f : Fld) : (hifErr s f).clu = s.clu := congrArg (·.clu) (rest_hifErr s f)
@[simp] theorem hifErr_pending (s : State) (f : Fld) : (hifErr s f).pending = s.pending := congrArg (·.pending) (rest_hifErr s f)

@[simp] theorem wrs_stats (s : State) (l : List (Fld × Nat)) : (wrs s l).stats = s.stats := congrArg (·.stats) (rest_wrs s l)
@[simp] theorem wrs_flashRegs (s : State) (l : List (Fld × Nat)) : (wrs s l).flashRegs = s.flashRegs := congrArg (·.flashRegs) (rest_wrs s l)
@[simp] theorem wrs_host_latches (s : State) (l : List (Fld × Nat)) : (wrs s l).host.latches = s.host.latches :=
  congrArg (·.host.latches) (rest_wrs s l)
@[simp] theorem wrs_host_takenBy (s : State) (l : List (Fld × Nat)) : (wrs s l).host.takenBy = s.host.takenBy :=
  congrArg (·.host.takenBy) (rest_wrs s l)
@[simp] theorem wrs_host_responseDue (s : State) (l : List (Fld × Nat)) : (wrs s l).host.responseDue = s.host.responseDue :=
  congrArg (·.host.responseDue) (rest_wrs s l)
@[simp] theorem wrs_host_nonces (s : State) (l : List (Fld × Nat)) : (wrs s l).host.nonces = s.host.nonces :=
  congrArg (·.host.nonces) (rest_wrs s l)
@[simp] theorem wrs_host_ringTail (s : State) (l : List (Fld × Nat)) : (wrs s l).host.ringTail = s.host.ringTail :=
  congrArg (·.host.ringTail) (rest_wrs s l)
@[simp] theorem wrs_host_batches (s : State) (l : List (Fld × Nat)) : (wrs s l).host.batches = s.host.batches :=
  congrArg (·.host.batches) (rest_wrs s l)
@[simp] theorem wrs_host_outRing (s : State) (l : List (Fld × Nat)) : (wrs s l).host.outRing = s.host.outRing :=
  congrArg (·.host.outRing) (rest_wrs s l)
@[simp] theorem wrs_host_held (s : State) (l : List (Fld × Nat)) : (wrs s l).host.held = s.host.held :=
  congrArg (·.host.held) (rest_wrs s l)
@[simp] theorem wrs_host_link (s : State) (l : List (Fld × Nat)) : (wrs s l).host.link = s.host.link :=
  congrArg (·.host.link) (rest_wrs s l)
@[simp] theorem wrs_host_wakeEnding (s : State) (l : List (Fld × Nat)) : (wrs s l).host.wakeEnding = s.host.wakeEnding :=
  congrArg (·.host.wakeEnding) (rest_wrs s l)
@[simp] theorem wrs_host_txNext (s : State) (l : List (Fld × Nat)) : (wrs s l).host.txNext = s.host.txNext :=
  congrArg (·.host.txNext) (rest_wrs s l)
@[simp] theorem wrs_host_authAt (s : State) (l : List (Fld × Nat)) : (wrs s l).host.authAt = s.host.authAt :=
  congrArg (·.host.authAt) (rest_wrs s l)
@[simp] theorem wrs_host_refclk (s : State) (l : List (Fld × Nat)) : (wrs s l).host.refclk = s.host.refclk :=
  congrArg (·.host.refclk) (rest_wrs s l)
@[simp] theorem wrs_host_msixMask (s : State) (l : List (Fld × Nat)) : (wrs s l).host.msixMask = s.host.msixMask :=
  congrArg (·.host.msixMask) (rest_wrs s l)
@[simp] theorem wrs_host_aerUr (s : State) (l : List (Fld × Nat)) : (wrs s l).host.aerUr = s.host.aerUr :=
  congrArg (·.host.aerUr) (rest_wrs s l)
@[simp] theorem wrs_saf_standing (s : State) (l : List (Fld × Nat)) : (wrs s l).saf.standing = s.saf.standing :=
  congrArg (·.saf.standing) (rest_wrs s l)
@[simp] theorem wrs_saf_uncRead (s : State) (l : List (Fld × Nat)) : (wrs s l).saf.uncRead = s.saf.uncRead :=
  congrArg (·.saf.uncRead) (rest_wrs s l)
@[simp] theorem wrs_saf_pipePass (s : State) (l : List (Fld × Nat)) : (wrs s l).saf.pipePass = s.saf.pipePass :=
  congrArg (·.saf.pipePass) (rest_wrs s l)
@[simp] theorem wrs_saf_engPass (s : State) (l : List (Fld × Nat)) : (wrs s l).saf.engPass = s.saf.engPass :=
  congrArg (·.saf.engPass) (rest_wrs s l)
@[simp] theorem wrs_saf_unposted (s : State) (l : List (Fld × Nat)) : (wrs s l).saf.unposted = s.saf.unposted :=
  congrArg (·.saf.unposted) (rest_wrs s l)
@[simp] theorem wrs_saf_pfwN (s : State) (l : List (Fld × Nat)) : (wrs s l).saf.pfwN = s.saf.pfwN :=
  congrArg (·.saf.pfwN) (rest_wrs s l)
@[simp] theorem wrs_saf_modeSince (s : State) (l : List (Fld × Nat)) : (wrs s l).saf.modeSince = s.saf.modeSince :=
  congrArg (·.saf.modeSince) (rest_wrs s l)
@[simp] theorem wrs_saf_aonFault (s : State) (l : List (Fld × Nat)) : (wrs s l).saf.aonFault = s.saf.aonFault :=
  congrArg (·.saf.aonFault) (rest_wrs s l)
@[simp] theorem wrs_saf_holdupTest (s : State) (l : List (Fld × Nat)) : (wrs s l).saf.holdupTest = s.saf.holdupTest :=
  congrArg (·.saf.holdupTest) (rest_wrs s l)
@[simp] theorem wrs_saf_v0 (s : State) (l : List (Fld × Nat)) : (wrs s l).saf.v0 = s.saf.v0 :=
  congrArg (·.saf.v0) (rest_wrs s l)
@[simp] theorem wrs_saf_boardRecord (s : State) (l : List (Fld × Nat)) : (wrs s l).saf.boardRecord = s.saf.boardRecord :=
  congrArg (·.saf.boardRecord) (rest_wrs s l)
@[simp] theorem wrs_saf_scanOn (s : State) (l : List (Fld × Nat)) : (wrs s l).saf.scanOn = s.saf.scanOn :=
  congrArg (·.saf.scanOn) (rest_wrs s l)
@[simp] theorem wrs_saf_jFlash (s : State) (l : List (Fld × Nat)) : (wrs s l).saf.jFlash = s.saf.jFlash :=
  congrArg (·.saf.jFlash) (rest_wrs s l)
@[simp] theorem wrs_saf_jMirror (s : State) (l : List (Fld × Nat)) : (wrs s l).saf.jMirror = s.saf.jMirror :=
  congrArg (·.saf.jMirror) (rest_wrs s l)
@[simp] theorem wrs_saf_jRetry (s : State) (l : List (Fld × Nat)) : (wrs s l).saf.jRetry = s.saf.jRetry :=
  congrArg (·.saf.jRetry) (rest_wrs s l)
@[simp] theorem wrs_saf_temps (s : State) (l : List (Fld × Nat)) : (wrs s l).saf.temps = s.saf.temps :=
  congrArg (·.saf.temps) (rest_wrs s l)
@[simp] theorem wrs_saf_wdtAt (s : State) (l : List (Fld × Nat)) : (wrs s l).saf.wdtAt = s.saf.wdtAt :=
  congrArg (·.saf.wdtAt) (rest_wrs s l)
@[simp] theorem wrs_ctr_watch (s : State) (l : List (Fld × Nat)) : (wrs s l).ctr.watch = s.ctr.watch :=
  congrArg (·.ctr.watch) (rest_wrs s l)
@[simp] theorem wrs_ctr_smpBuf (s : State) (l : List (Fld × Nat)) : (wrs s l).ctr.smpBuf = s.ctr.smpBuf :=
  congrArg (·.ctr.smpBuf) (rest_wrs s l)
@[simp] theorem wrs_ctr_smpFifo (s : State) (l : List (Fld × Nat)) : (wrs s l).ctr.smpFifo = s.ctr.smpFifo :=
  congrArg (·.ctr.smpFifo) (rest_wrs s l)
@[simp] theorem wrs_ctr_smpSel (s : State) (l : List (Fld × Nat)) : (wrs s l).ctr.smpSel = s.ctr.smpSel :=
  congrArg (·.ctr.smpSel) (rest_wrs s l)
@[simp] theorem wrs_ctr_smpSeq (s : State) (l : List (Fld × Nat)) : (wrs s l).ctr.smpSeq = s.ctr.smpSeq :=
  congrArg (·.ctr.smpSeq) (rest_wrs s l)
@[simp] theorem wrs_ctr_frzCmd (s : State) (l : List (Fld × Nat)) : (wrs s l).ctr.frzCmd = s.ctr.frzCmd :=
  congrArg (·.ctr.frzCmd) (rest_wrs s l)
@[simp] theorem wrs_ctr_frzStep (s : State) (l : List (Fld × Nat)) : (wrs s l).ctr.frzStep = s.ctr.frzStep :=
  congrArg (·.ctr.frzStep) (rest_wrs s l)
@[simp] theorem wrs_ctr_frzDataRo (s : State) (l : List (Fld × Nat)) : (wrs s l).ctr.frzDataRo = s.ctr.frzDataRo :=
  congrArg (·.ctr.frzDataRo) (rest_wrs s l)
@[simp] theorem wrs_ctr_frzDump (s : State) (l : List (Fld × Nat)) : (wrs s l).ctr.frzDump = s.ctr.frzDump :=
  congrArg (·.ctr.frzDump) (rest_wrs s l)
@[simp] theorem wrs_ctr_rushesTo (s : State) (l : List (Fld × Nat)) : (wrs s l).ctr.rushesTo = s.ctr.rushesTo :=
  congrArg (·.ctr.rushesTo) (rest_wrs s l)
@[simp] theorem wrs_ctr_frzWarm (s : State) (l : List (Fld × Nat)) : (wrs s l).ctr.frzWarm = s.ctr.frzWarm :=
  congrArg (·.ctr.frzWarm) (rest_wrs s l)
@[simp] theorem wrs_ctr_jtag (s : State) (l : List (Fld × Nat)) : (wrs s l).ctr.jtag = s.ctr.jtag :=
  congrArg (·.ctr.jtag) (rest_wrs s l)
@[simp] theorem wrs_ctr_preload (s : State) (l : List (Fld × Nat)) : (wrs s l).ctr.preload = s.ctr.preload :=
  congrArg (·.ctr.preload) (rest_wrs s l)
@[simp] theorem wrs_ctr_frzAt (s : State) (l : List (Fld × Nat)) : (wrs s l).ctr.frzAt = s.ctr.frzAt :=
  congrArg (·.ctr.frzAt) (rest_wrs s l)
@[simp] theorem wrs_cel (s : State) (l : List (Fld × Nat)) : (wrs s l).cel = s.cel := congrArg (·.cel) (rest_wrs s l)
@[simp] theorem wrs_tim (s : State) (l : List (Fld × Nat)) : (wrs s l).tim = s.tim := congrArg (·.tim) (rest_wrs s l)
@[simp] theorem wrs_fuse (s : State) (l : List (Fld × Nat)) : (wrs s l).fuse = s.fuse := congrArg (·.fuse) (rest_wrs s l)
@[simp] theorem wrs_img (s : State) (l : List (Fld × Nat)) : (wrs s l).img = s.img := congrArg (·.img) (rest_wrs s l)
@[simp] theorem wrs_mod (s : State) (l : List (Fld × Nat)) : (wrs s l).mod = s.mod := congrArg (·.mod) (rest_wrs s l)
@[simp] theorem wrs_pipe (s : State) (l : List (Fld × Nat)) : (wrs s l).pipe = s.pipe := congrArg (·.pipe) (rest_wrs s l)
@[simp] theorem wrs_keys (s : State) (l : List (Fld × Nat)) : (wrs s l).keys = s.keys := congrArg (·.keys) (rest_wrs s l)
@[simp] theorem wrs_take (s : State) (l : List (Fld × Nat)) : (wrs s l).take = s.take := congrArg (·.take) (rest_wrs s l)
@[simp] theorem wrs_tab (s : State) (l : List (Fld × Nat)) : (wrs s l).tab = s.tab := congrArg (·.tab) (rest_wrs s l)
@[simp] theorem wrs_hbm (s : State) (l : List (Fld × Nat)) : (wrs s l).hbm = s.hbm := congrArg (·.hbm) (rest_wrs s l)
@[simp] theorem wrs_flo (s : State) (l : List (Fld × Nat)) : (wrs s l).flo = s.flo := congrArg (·.flo) (rest_wrs s l)
@[simp] theorem wrs_eng (s : State) (l : List (Fld × Nat)) : (wrs s l).eng = s.eng := congrArg (·.eng) (rest_wrs s l)
@[simp] theorem wrs_clu (s : State) (l : List (Fld × Nat)) : (wrs s l).clu = s.clu := congrArg (·.clu) (rest_wrs s l)
@[simp] theorem wrs_pending (s : State) (l : List (Fld × Nat)) : (wrs s l).pending = s.pending := congrArg (·.pending) (rest_wrs s l)

@[simp] theorem bumpBy_stats (s : State) (f : Fld) (n : Nat) : (bumpBy s f n).stats = s.stats := congrArg (·.stats) (rest_bumpBy s f n)
@[simp] theorem bumpBy_flashRegs (s : State) (f : Fld) (n : Nat) : (bumpBy s f n).flashRegs = s.flashRegs := congrArg (·.flashRegs) (rest_bumpBy s f n)
@[simp] theorem bumpBy_host_latches (s : State) (f : Fld) (n : Nat) : (bumpBy s f n).host.latches = s.host.latches :=
  congrArg (·.host.latches) (rest_bumpBy s f n)
@[simp] theorem bumpBy_host_takenBy (s : State) (f : Fld) (n : Nat) : (bumpBy s f n).host.takenBy = s.host.takenBy :=
  congrArg (·.host.takenBy) (rest_bumpBy s f n)
@[simp] theorem bumpBy_host_responseDue (s : State) (f : Fld) (n : Nat) : (bumpBy s f n).host.responseDue = s.host.responseDue :=
  congrArg (·.host.responseDue) (rest_bumpBy s f n)
@[simp] theorem bumpBy_host_nonces (s : State) (f : Fld) (n : Nat) : (bumpBy s f n).host.nonces = s.host.nonces :=
  congrArg (·.host.nonces) (rest_bumpBy s f n)
@[simp] theorem bumpBy_host_ringTail (s : State) (f : Fld) (n : Nat) : (bumpBy s f n).host.ringTail = s.host.ringTail :=
  congrArg (·.host.ringTail) (rest_bumpBy s f n)
@[simp] theorem bumpBy_host_batches (s : State) (f : Fld) (n : Nat) : (bumpBy s f n).host.batches = s.host.batches :=
  congrArg (·.host.batches) (rest_bumpBy s f n)
@[simp] theorem bumpBy_host_outRing (s : State) (f : Fld) (n : Nat) : (bumpBy s f n).host.outRing = s.host.outRing :=
  congrArg (·.host.outRing) (rest_bumpBy s f n)
@[simp] theorem bumpBy_host_held (s : State) (f : Fld) (n : Nat) : (bumpBy s f n).host.held = s.host.held :=
  congrArg (·.host.held) (rest_bumpBy s f n)
@[simp] theorem bumpBy_host_link (s : State) (f : Fld) (n : Nat) : (bumpBy s f n).host.link = s.host.link :=
  congrArg (·.host.link) (rest_bumpBy s f n)
@[simp] theorem bumpBy_host_wakeEnding (s : State) (f : Fld) (n : Nat) : (bumpBy s f n).host.wakeEnding = s.host.wakeEnding :=
  congrArg (·.host.wakeEnding) (rest_bumpBy s f n)
@[simp] theorem bumpBy_host_txNext (s : State) (f : Fld) (n : Nat) : (bumpBy s f n).host.txNext = s.host.txNext :=
  congrArg (·.host.txNext) (rest_bumpBy s f n)
@[simp] theorem bumpBy_host_authAt (s : State) (f : Fld) (n : Nat) : (bumpBy s f n).host.authAt = s.host.authAt :=
  congrArg (·.host.authAt) (rest_bumpBy s f n)
@[simp] theorem bumpBy_host_refclk (s : State) (f : Fld) (n : Nat) : (bumpBy s f n).host.refclk = s.host.refclk :=
  congrArg (·.host.refclk) (rest_bumpBy s f n)
@[simp] theorem bumpBy_host_msixMask (s : State) (f : Fld) (n : Nat) : (bumpBy s f n).host.msixMask = s.host.msixMask :=
  congrArg (·.host.msixMask) (rest_bumpBy s f n)
@[simp] theorem bumpBy_host_aerUr (s : State) (f : Fld) (n : Nat) : (bumpBy s f n).host.aerUr = s.host.aerUr :=
  congrArg (·.host.aerUr) (rest_bumpBy s f n)
@[simp] theorem bumpBy_saf_standing (s : State) (f : Fld) (n : Nat) : (bumpBy s f n).saf.standing = s.saf.standing :=
  congrArg (·.saf.standing) (rest_bumpBy s f n)
@[simp] theorem bumpBy_saf_uncRead (s : State) (f : Fld) (n : Nat) : (bumpBy s f n).saf.uncRead = s.saf.uncRead :=
  congrArg (·.saf.uncRead) (rest_bumpBy s f n)
@[simp] theorem bumpBy_saf_pipePass (s : State) (f : Fld) (n : Nat) : (bumpBy s f n).saf.pipePass = s.saf.pipePass :=
  congrArg (·.saf.pipePass) (rest_bumpBy s f n)
@[simp] theorem bumpBy_saf_engPass (s : State) (f : Fld) (n : Nat) : (bumpBy s f n).saf.engPass = s.saf.engPass :=
  congrArg (·.saf.engPass) (rest_bumpBy s f n)
@[simp] theorem bumpBy_saf_unposted (s : State) (f : Fld) (n : Nat) : (bumpBy s f n).saf.unposted = s.saf.unposted :=
  congrArg (·.saf.unposted) (rest_bumpBy s f n)
@[simp] theorem bumpBy_saf_pfwN (s : State) (f : Fld) (n : Nat) : (bumpBy s f n).saf.pfwN = s.saf.pfwN :=
  congrArg (·.saf.pfwN) (rest_bumpBy s f n)
@[simp] theorem bumpBy_saf_modeSince (s : State) (f : Fld) (n : Nat) : (bumpBy s f n).saf.modeSince = s.saf.modeSince :=
  congrArg (·.saf.modeSince) (rest_bumpBy s f n)
@[simp] theorem bumpBy_saf_aonFault (s : State) (f : Fld) (n : Nat) : (bumpBy s f n).saf.aonFault = s.saf.aonFault :=
  congrArg (·.saf.aonFault) (rest_bumpBy s f n)
@[simp] theorem bumpBy_saf_holdupTest (s : State) (f : Fld) (n : Nat) : (bumpBy s f n).saf.holdupTest = s.saf.holdupTest :=
  congrArg (·.saf.holdupTest) (rest_bumpBy s f n)
@[simp] theorem bumpBy_saf_v0 (s : State) (f : Fld) (n : Nat) : (bumpBy s f n).saf.v0 = s.saf.v0 :=
  congrArg (·.saf.v0) (rest_bumpBy s f n)
@[simp] theorem bumpBy_saf_boardRecord (s : State) (f : Fld) (n : Nat) : (bumpBy s f n).saf.boardRecord = s.saf.boardRecord :=
  congrArg (·.saf.boardRecord) (rest_bumpBy s f n)
@[simp] theorem bumpBy_saf_scanOn (s : State) (f : Fld) (n : Nat) : (bumpBy s f n).saf.scanOn = s.saf.scanOn :=
  congrArg (·.saf.scanOn) (rest_bumpBy s f n)
@[simp] theorem bumpBy_saf_jFlash (s : State) (f : Fld) (n : Nat) : (bumpBy s f n).saf.jFlash = s.saf.jFlash :=
  congrArg (·.saf.jFlash) (rest_bumpBy s f n)
@[simp] theorem bumpBy_saf_jMirror (s : State) (f : Fld) (n : Nat) : (bumpBy s f n).saf.jMirror = s.saf.jMirror :=
  congrArg (·.saf.jMirror) (rest_bumpBy s f n)
@[simp] theorem bumpBy_saf_jRetry (s : State) (f : Fld) (n : Nat) : (bumpBy s f n).saf.jRetry = s.saf.jRetry :=
  congrArg (·.saf.jRetry) (rest_bumpBy s f n)
@[simp] theorem bumpBy_saf_temps (s : State) (f : Fld) (n : Nat) : (bumpBy s f n).saf.temps = s.saf.temps :=
  congrArg (·.saf.temps) (rest_bumpBy s f n)
@[simp] theorem bumpBy_saf_wdtAt (s : State) (f : Fld) (n : Nat) : (bumpBy s f n).saf.wdtAt = s.saf.wdtAt :=
  congrArg (·.saf.wdtAt) (rest_bumpBy s f n)
@[simp] theorem bumpBy_ctr_watch (s : State) (f : Fld) (n : Nat) : (bumpBy s f n).ctr.watch = s.ctr.watch :=
  congrArg (·.ctr.watch) (rest_bumpBy s f n)
@[simp] theorem bumpBy_ctr_smpBuf (s : State) (f : Fld) (n : Nat) : (bumpBy s f n).ctr.smpBuf = s.ctr.smpBuf :=
  congrArg (·.ctr.smpBuf) (rest_bumpBy s f n)
@[simp] theorem bumpBy_ctr_smpFifo (s : State) (f : Fld) (n : Nat) : (bumpBy s f n).ctr.smpFifo = s.ctr.smpFifo :=
  congrArg (·.ctr.smpFifo) (rest_bumpBy s f n)
@[simp] theorem bumpBy_ctr_smpSel (s : State) (f : Fld) (n : Nat) : (bumpBy s f n).ctr.smpSel = s.ctr.smpSel :=
  congrArg (·.ctr.smpSel) (rest_bumpBy s f n)
@[simp] theorem bumpBy_ctr_smpSeq (s : State) (f : Fld) (n : Nat) : (bumpBy s f n).ctr.smpSeq = s.ctr.smpSeq :=
  congrArg (·.ctr.smpSeq) (rest_bumpBy s f n)
@[simp] theorem bumpBy_ctr_frzCmd (s : State) (f : Fld) (n : Nat) : (bumpBy s f n).ctr.frzCmd = s.ctr.frzCmd :=
  congrArg (·.ctr.frzCmd) (rest_bumpBy s f n)
@[simp] theorem bumpBy_ctr_frzStep (s : State) (f : Fld) (n : Nat) : (bumpBy s f n).ctr.frzStep = s.ctr.frzStep :=
  congrArg (·.ctr.frzStep) (rest_bumpBy s f n)
@[simp] theorem bumpBy_ctr_frzDataRo (s : State) (f : Fld) (n : Nat) : (bumpBy s f n).ctr.frzDataRo = s.ctr.frzDataRo :=
  congrArg (·.ctr.frzDataRo) (rest_bumpBy s f n)
@[simp] theorem bumpBy_ctr_frzDump (s : State) (f : Fld) (n : Nat) : (bumpBy s f n).ctr.frzDump = s.ctr.frzDump :=
  congrArg (·.ctr.frzDump) (rest_bumpBy s f n)
@[simp] theorem bumpBy_ctr_rushesTo (s : State) (f : Fld) (n : Nat) : (bumpBy s f n).ctr.rushesTo = s.ctr.rushesTo :=
  congrArg (·.ctr.rushesTo) (rest_bumpBy s f n)
@[simp] theorem bumpBy_ctr_frzWarm (s : State) (f : Fld) (n : Nat) : (bumpBy s f n).ctr.frzWarm = s.ctr.frzWarm :=
  congrArg (·.ctr.frzWarm) (rest_bumpBy s f n)
@[simp] theorem bumpBy_ctr_jtag (s : State) (f : Fld) (n : Nat) : (bumpBy s f n).ctr.jtag = s.ctr.jtag :=
  congrArg (·.ctr.jtag) (rest_bumpBy s f n)
@[simp] theorem bumpBy_ctr_preload (s : State) (f : Fld) (n : Nat) : (bumpBy s f n).ctr.preload = s.ctr.preload :=
  congrArg (·.ctr.preload) (rest_bumpBy s f n)
@[simp] theorem bumpBy_ctr_frzAt (s : State) (f : Fld) (n : Nat) : (bumpBy s f n).ctr.frzAt = s.ctr.frzAt :=
  congrArg (·.ctr.frzAt) (rest_bumpBy s f n)
@[simp] theorem bumpBy_cel (s : State) (f : Fld) (n : Nat) : (bumpBy s f n).cel = s.cel := congrArg (·.cel) (rest_bumpBy s f n)
@[simp] theorem bumpBy_tim (s : State) (f : Fld) (n : Nat) : (bumpBy s f n).tim = s.tim := congrArg (·.tim) (rest_bumpBy s f n)
@[simp] theorem bumpBy_fuse (s : State) (f : Fld) (n : Nat) : (bumpBy s f n).fuse = s.fuse := congrArg (·.fuse) (rest_bumpBy s f n)
@[simp] theorem bumpBy_img (s : State) (f : Fld) (n : Nat) : (bumpBy s f n).img = s.img := congrArg (·.img) (rest_bumpBy s f n)
@[simp] theorem bumpBy_mod (s : State) (f : Fld) (n : Nat) : (bumpBy s f n).mod = s.mod := congrArg (·.mod) (rest_bumpBy s f n)
@[simp] theorem bumpBy_pipe (s : State) (f : Fld) (n : Nat) : (bumpBy s f n).pipe = s.pipe := congrArg (·.pipe) (rest_bumpBy s f n)
@[simp] theorem bumpBy_keys (s : State) (f : Fld) (n : Nat) : (bumpBy s f n).keys = s.keys := congrArg (·.keys) (rest_bumpBy s f n)
@[simp] theorem bumpBy_take (s : State) (f : Fld) (n : Nat) : (bumpBy s f n).take = s.take := congrArg (·.take) (rest_bumpBy s f n)
@[simp] theorem bumpBy_tab (s : State) (f : Fld) (n : Nat) : (bumpBy s f n).tab = s.tab := congrArg (·.tab) (rest_bumpBy s f n)
@[simp] theorem bumpBy_hbm (s : State) (f : Fld) (n : Nat) : (bumpBy s f n).hbm = s.hbm := congrArg (·.hbm) (rest_bumpBy s f n)
@[simp] theorem bumpBy_flo (s : State) (f : Fld) (n : Nat) : (bumpBy s f n).flo = s.flo := congrArg (·.flo) (rest_bumpBy s f n)
@[simp] theorem bumpBy_eng (s : State) (f : Fld) (n : Nat) : (bumpBy s f n).eng = s.eng := congrArg (·.eng) (rest_bumpBy s f n)
@[simp] theorem bumpBy_clu (s : State) (f : Fld) (n : Nat) : (bumpBy s f n).clu = s.clu := congrArg (·.clu) (rest_bumpBy s f n)
@[simp] theorem bumpBy_pending (s : State) (f : Fld) (n : Nat) : (bumpBy s f n).pending = s.pending := congrArg (·.pending) (rest_bumpBy s f n)

@[simp] theorem bump_stats (s : State) (f : Fld) : (bump s f).stats = s.stats := congrArg (·.stats) (rest_bump s f)
@[simp] theorem bump_flashRegs (s : State) (f : Fld) : (bump s f).flashRegs = s.flashRegs := congrArg (·.flashRegs) (rest_bump s f)
@[simp] theorem bump_host_latches (s : State) (f : Fld) : (bump s f).host.latches = s.host.latches :=
  congrArg (·.host.latches) (rest_bump s f)
@[simp] theorem bump_host_takenBy (s : State) (f : Fld) : (bump s f).host.takenBy = s.host.takenBy :=
  congrArg (·.host.takenBy) (rest_bump s f)
@[simp] theorem bump_host_responseDue (s : State) (f : Fld) : (bump s f).host.responseDue = s.host.responseDue :=
  congrArg (·.host.responseDue) (rest_bump s f)
@[simp] theorem bump_host_nonces (s : State) (f : Fld) : (bump s f).host.nonces = s.host.nonces :=
  congrArg (·.host.nonces) (rest_bump s f)
@[simp] theorem bump_host_ringTail (s : State) (f : Fld) : (bump s f).host.ringTail = s.host.ringTail :=
  congrArg (·.host.ringTail) (rest_bump s f)
@[simp] theorem bump_host_batches (s : State) (f : Fld) : (bump s f).host.batches = s.host.batches :=
  congrArg (·.host.batches) (rest_bump s f)
@[simp] theorem bump_host_outRing (s : State) (f : Fld) : (bump s f).host.outRing = s.host.outRing :=
  congrArg (·.host.outRing) (rest_bump s f)
@[simp] theorem bump_host_held (s : State) (f : Fld) : (bump s f).host.held = s.host.held :=
  congrArg (·.host.held) (rest_bump s f)
@[simp] theorem bump_host_link (s : State) (f : Fld) : (bump s f).host.link = s.host.link :=
  congrArg (·.host.link) (rest_bump s f)
@[simp] theorem bump_host_wakeEnding (s : State) (f : Fld) : (bump s f).host.wakeEnding = s.host.wakeEnding :=
  congrArg (·.host.wakeEnding) (rest_bump s f)
@[simp] theorem bump_host_txNext (s : State) (f : Fld) : (bump s f).host.txNext = s.host.txNext :=
  congrArg (·.host.txNext) (rest_bump s f)
@[simp] theorem bump_host_authAt (s : State) (f : Fld) : (bump s f).host.authAt = s.host.authAt :=
  congrArg (·.host.authAt) (rest_bump s f)
@[simp] theorem bump_host_refclk (s : State) (f : Fld) : (bump s f).host.refclk = s.host.refclk :=
  congrArg (·.host.refclk) (rest_bump s f)
@[simp] theorem bump_host_msixMask (s : State) (f : Fld) : (bump s f).host.msixMask = s.host.msixMask :=
  congrArg (·.host.msixMask) (rest_bump s f)
@[simp] theorem bump_host_aerUr (s : State) (f : Fld) : (bump s f).host.aerUr = s.host.aerUr :=
  congrArg (·.host.aerUr) (rest_bump s f)
@[simp] theorem bump_saf_standing (s : State) (f : Fld) : (bump s f).saf.standing = s.saf.standing :=
  congrArg (·.saf.standing) (rest_bump s f)
@[simp] theorem bump_saf_uncRead (s : State) (f : Fld) : (bump s f).saf.uncRead = s.saf.uncRead :=
  congrArg (·.saf.uncRead) (rest_bump s f)
@[simp] theorem bump_saf_pipePass (s : State) (f : Fld) : (bump s f).saf.pipePass = s.saf.pipePass :=
  congrArg (·.saf.pipePass) (rest_bump s f)
@[simp] theorem bump_saf_engPass (s : State) (f : Fld) : (bump s f).saf.engPass = s.saf.engPass :=
  congrArg (·.saf.engPass) (rest_bump s f)
@[simp] theorem bump_saf_unposted (s : State) (f : Fld) : (bump s f).saf.unposted = s.saf.unposted :=
  congrArg (·.saf.unposted) (rest_bump s f)
@[simp] theorem bump_saf_pfwN (s : State) (f : Fld) : (bump s f).saf.pfwN = s.saf.pfwN :=
  congrArg (·.saf.pfwN) (rest_bump s f)
@[simp] theorem bump_saf_modeSince (s : State) (f : Fld) : (bump s f).saf.modeSince = s.saf.modeSince :=
  congrArg (·.saf.modeSince) (rest_bump s f)
@[simp] theorem bump_saf_aonFault (s : State) (f : Fld) : (bump s f).saf.aonFault = s.saf.aonFault :=
  congrArg (·.saf.aonFault) (rest_bump s f)
@[simp] theorem bump_saf_holdupTest (s : State) (f : Fld) : (bump s f).saf.holdupTest = s.saf.holdupTest :=
  congrArg (·.saf.holdupTest) (rest_bump s f)
@[simp] theorem bump_saf_v0 (s : State) (f : Fld) : (bump s f).saf.v0 = s.saf.v0 :=
  congrArg (·.saf.v0) (rest_bump s f)
@[simp] theorem bump_saf_boardRecord (s : State) (f : Fld) : (bump s f).saf.boardRecord = s.saf.boardRecord :=
  congrArg (·.saf.boardRecord) (rest_bump s f)
@[simp] theorem bump_saf_scanOn (s : State) (f : Fld) : (bump s f).saf.scanOn = s.saf.scanOn :=
  congrArg (·.saf.scanOn) (rest_bump s f)
@[simp] theorem bump_saf_jFlash (s : State) (f : Fld) : (bump s f).saf.jFlash = s.saf.jFlash :=
  congrArg (·.saf.jFlash) (rest_bump s f)
@[simp] theorem bump_saf_jMirror (s : State) (f : Fld) : (bump s f).saf.jMirror = s.saf.jMirror :=
  congrArg (·.saf.jMirror) (rest_bump s f)
@[simp] theorem bump_saf_jRetry (s : State) (f : Fld) : (bump s f).saf.jRetry = s.saf.jRetry :=
  congrArg (·.saf.jRetry) (rest_bump s f)
@[simp] theorem bump_saf_temps (s : State) (f : Fld) : (bump s f).saf.temps = s.saf.temps :=
  congrArg (·.saf.temps) (rest_bump s f)
@[simp] theorem bump_saf_wdtAt (s : State) (f : Fld) : (bump s f).saf.wdtAt = s.saf.wdtAt :=
  congrArg (·.saf.wdtAt) (rest_bump s f)
@[simp] theorem bump_ctr_watch (s : State) (f : Fld) : (bump s f).ctr.watch = s.ctr.watch :=
  congrArg (·.ctr.watch) (rest_bump s f)
@[simp] theorem bump_ctr_smpBuf (s : State) (f : Fld) : (bump s f).ctr.smpBuf = s.ctr.smpBuf :=
  congrArg (·.ctr.smpBuf) (rest_bump s f)
@[simp] theorem bump_ctr_smpFifo (s : State) (f : Fld) : (bump s f).ctr.smpFifo = s.ctr.smpFifo :=
  congrArg (·.ctr.smpFifo) (rest_bump s f)
@[simp] theorem bump_ctr_smpSel (s : State) (f : Fld) : (bump s f).ctr.smpSel = s.ctr.smpSel :=
  congrArg (·.ctr.smpSel) (rest_bump s f)
@[simp] theorem bump_ctr_smpSeq (s : State) (f : Fld) : (bump s f).ctr.smpSeq = s.ctr.smpSeq :=
  congrArg (·.ctr.smpSeq) (rest_bump s f)
@[simp] theorem bump_ctr_frzCmd (s : State) (f : Fld) : (bump s f).ctr.frzCmd = s.ctr.frzCmd :=
  congrArg (·.ctr.frzCmd) (rest_bump s f)
@[simp] theorem bump_ctr_frzStep (s : State) (f : Fld) : (bump s f).ctr.frzStep = s.ctr.frzStep :=
  congrArg (·.ctr.frzStep) (rest_bump s f)
@[simp] theorem bump_ctr_frzDataRo (s : State) (f : Fld) : (bump s f).ctr.frzDataRo = s.ctr.frzDataRo :=
  congrArg (·.ctr.frzDataRo) (rest_bump s f)
@[simp] theorem bump_ctr_frzDump (s : State) (f : Fld) : (bump s f).ctr.frzDump = s.ctr.frzDump :=
  congrArg (·.ctr.frzDump) (rest_bump s f)
@[simp] theorem bump_ctr_rushesTo (s : State) (f : Fld) : (bump s f).ctr.rushesTo = s.ctr.rushesTo :=
  congrArg (·.ctr.rushesTo) (rest_bump s f)
@[simp] theorem bump_ctr_frzWarm (s : State) (f : Fld) : (bump s f).ctr.frzWarm = s.ctr.frzWarm :=
  congrArg (·.ctr.frzWarm) (rest_bump s f)
@[simp] theorem bump_ctr_jtag (s : State) (f : Fld) : (bump s f).ctr.jtag = s.ctr.jtag :=
  congrArg (·.ctr.jtag) (rest_bump s f)
@[simp] theorem bump_ctr_preload (s : State) (f : Fld) : (bump s f).ctr.preload = s.ctr.preload :=
  congrArg (·.ctr.preload) (rest_bump s f)
@[simp] theorem bump_ctr_frzAt (s : State) (f : Fld) : (bump s f).ctr.frzAt = s.ctr.frzAt :=
  congrArg (·.ctr.frzAt) (rest_bump s f)
@[simp] theorem bump_cel (s : State) (f : Fld) : (bump s f).cel = s.cel := congrArg (·.cel) (rest_bump s f)
@[simp] theorem bump_tim (s : State) (f : Fld) : (bump s f).tim = s.tim := congrArg (·.tim) (rest_bump s f)
@[simp] theorem bump_fuse (s : State) (f : Fld) : (bump s f).fuse = s.fuse := congrArg (·.fuse) (rest_bump s f)
@[simp] theorem bump_img (s : State) (f : Fld) : (bump s f).img = s.img := congrArg (·.img) (rest_bump s f)
@[simp] theorem bump_mod (s : State) (f : Fld) : (bump s f).mod = s.mod := congrArg (·.mod) (rest_bump s f)
@[simp] theorem bump_pipe (s : State) (f : Fld) : (bump s f).pipe = s.pipe := congrArg (·.pipe) (rest_bump s f)
@[simp] theorem bump_keys (s : State) (f : Fld) : (bump s f).keys = s.keys := congrArg (·.keys) (rest_bump s f)
@[simp] theorem bump_take (s : State) (f : Fld) : (bump s f).take = s.take := congrArg (·.take) (rest_bump s f)
@[simp] theorem bump_tab (s : State) (f : Fld) : (bump s f).tab = s.tab := congrArg (·.tab) (rest_bump s f)
@[simp] theorem bump_hbm (s : State) (f : Fld) : (bump s f).hbm = s.hbm := congrArg (·.hbm) (rest_bump s f)
@[simp] theorem bump_flo (s : State) (f : Fld) : (bump s f).flo = s.flo := congrArg (·.flo) (rest_bump s f)
@[simp] theorem bump_eng (s : State) (f : Fld) : (bump s f).eng = s.eng := congrArg (·.eng) (rest_bump s f)
@[simp] theorem bump_clu (s : State) (f : Fld) : (bump s f).clu = s.clu := congrArg (·.clu) (rest_bump s f)
@[simp] theorem bump_pending (s : State) (f : Fld) : (bump s f).pending = s.pending := congrArg (·.pending) (rest_bump s f)

@[simp] theorem postEvent_stats (s : State) (t q : Nat) (c : Bool) (p : List Byte) (l : Option Fld) : (postEvent s t q c p l).stats = s.stats := congrArg (·.stats) (rest_postEvent s t q c p l)
@[simp] theorem postEvent_flashRegs (s : State) (t q : Nat) (c : Bool) (p : List Byte) (l : Option Fld) : (postEvent s t q c p l).flashRegs = s.flashRegs := congrArg (·.flashRegs) (rest_postEvent s t q c p l)
@[simp] theorem postEvent_host_latches (s : State) (t q : Nat) (c : Bool) (p : List Byte) (l : Option Fld) : (postEvent s t q c p l).host.latches = s.host.latches :=
  congrArg (·.host.latches) (rest_postEvent s t q c p l)
@[simp] theorem postEvent_host_takenBy (s : State) (t q : Nat) (c : Bool) (p : List Byte) (l : Option Fld) : (postEvent s t q c p l).host.takenBy = s.host.takenBy :=
  congrArg (·.host.takenBy) (rest_postEvent s t q c p l)
@[simp] theorem postEvent_host_responseDue (s : State) (t q : Nat) (c : Bool) (p : List Byte) (l : Option Fld) : (postEvent s t q c p l).host.responseDue = s.host.responseDue :=
  congrArg (·.host.responseDue) (rest_postEvent s t q c p l)
@[simp] theorem postEvent_host_nonces (s : State) (t q : Nat) (c : Bool) (p : List Byte) (l : Option Fld) : (postEvent s t q c p l).host.nonces = s.host.nonces :=
  congrArg (·.host.nonces) (rest_postEvent s t q c p l)
@[simp] theorem postEvent_host_ringTail (s : State) (t q : Nat) (c : Bool) (p : List Byte) (l : Option Fld) : (postEvent s t q c p l).host.ringTail = s.host.ringTail :=
  congrArg (·.host.ringTail) (rest_postEvent s t q c p l)
@[simp] theorem postEvent_host_batches (s : State) (t q : Nat) (c : Bool) (p : List Byte) (l : Option Fld) : (postEvent s t q c p l).host.batches = s.host.batches :=
  congrArg (·.host.batches) (rest_postEvent s t q c p l)
@[simp] theorem postEvent_host_outRing (s : State) (t q : Nat) (c : Bool) (p : List Byte) (l : Option Fld) : (postEvent s t q c p l).host.outRing = s.host.outRing :=
  congrArg (·.host.outRing) (rest_postEvent s t q c p l)
@[simp] theorem postEvent_host_held (s : State) (t q : Nat) (c : Bool) (p : List Byte) (l : Option Fld) : (postEvent s t q c p l).host.held = s.host.held :=
  congrArg (·.host.held) (rest_postEvent s t q c p l)
@[simp] theorem postEvent_host_link (s : State) (t q : Nat) (c : Bool) (p : List Byte) (l : Option Fld) : (postEvent s t q c p l).host.link = s.host.link :=
  congrArg (·.host.link) (rest_postEvent s t q c p l)
@[simp] theorem postEvent_host_wakeEnding (s : State) (t q : Nat) (c : Bool) (p : List Byte) (l : Option Fld) : (postEvent s t q c p l).host.wakeEnding = s.host.wakeEnding :=
  congrArg (·.host.wakeEnding) (rest_postEvent s t q c p l)
@[simp] theorem postEvent_host_txNext (s : State) (t q : Nat) (c : Bool) (p : List Byte) (l : Option Fld) : (postEvent s t q c p l).host.txNext = s.host.txNext :=
  congrArg (·.host.txNext) (rest_postEvent s t q c p l)
@[simp] theorem postEvent_host_authAt (s : State) (t q : Nat) (c : Bool) (p : List Byte) (l : Option Fld) : (postEvent s t q c p l).host.authAt = s.host.authAt :=
  congrArg (·.host.authAt) (rest_postEvent s t q c p l)
@[simp] theorem postEvent_host_refclk (s : State) (t q : Nat) (c : Bool) (p : List Byte) (l : Option Fld) : (postEvent s t q c p l).host.refclk = s.host.refclk :=
  congrArg (·.host.refclk) (rest_postEvent s t q c p l)
@[simp] theorem postEvent_host_msixMask (s : State) (t q : Nat) (c : Bool) (p : List Byte) (l : Option Fld) : (postEvent s t q c p l).host.msixMask = s.host.msixMask :=
  congrArg (·.host.msixMask) (rest_postEvent s t q c p l)
@[simp] theorem postEvent_host_aerUr (s : State) (t q : Nat) (c : Bool) (p : List Byte) (l : Option Fld) : (postEvent s t q c p l).host.aerUr = s.host.aerUr :=
  congrArg (·.host.aerUr) (rest_postEvent s t q c p l)
@[simp] theorem postEvent_saf_standing (s : State) (t q : Nat) (c : Bool) (p : List Byte) (l : Option Fld) : (postEvent s t q c p l).saf.standing = s.saf.standing :=
  congrArg (·.saf.standing) (rest_postEvent s t q c p l)
@[simp] theorem postEvent_saf_uncRead (s : State) (t q : Nat) (c : Bool) (p : List Byte) (l : Option Fld) : (postEvent s t q c p l).saf.uncRead = s.saf.uncRead :=
  congrArg (·.saf.uncRead) (rest_postEvent s t q c p l)
@[simp] theorem postEvent_saf_pipePass (s : State) (t q : Nat) (c : Bool) (p : List Byte) (l : Option Fld) : (postEvent s t q c p l).saf.pipePass = s.saf.pipePass :=
  congrArg (·.saf.pipePass) (rest_postEvent s t q c p l)
@[simp] theorem postEvent_saf_engPass (s : State) (t q : Nat) (c : Bool) (p : List Byte) (l : Option Fld) : (postEvent s t q c p l).saf.engPass = s.saf.engPass :=
  congrArg (·.saf.engPass) (rest_postEvent s t q c p l)
@[simp] theorem postEvent_saf_unposted (s : State) (t q : Nat) (c : Bool) (p : List Byte) (l : Option Fld) : (postEvent s t q c p l).saf.unposted = s.saf.unposted :=
  congrArg (·.saf.unposted) (rest_postEvent s t q c p l)
@[simp] theorem postEvent_saf_pfwN (s : State) (t q : Nat) (c : Bool) (p : List Byte) (l : Option Fld) : (postEvent s t q c p l).saf.pfwN = s.saf.pfwN :=
  congrArg (·.saf.pfwN) (rest_postEvent s t q c p l)
@[simp] theorem postEvent_saf_modeSince (s : State) (t q : Nat) (c : Bool) (p : List Byte) (l : Option Fld) : (postEvent s t q c p l).saf.modeSince = s.saf.modeSince :=
  congrArg (·.saf.modeSince) (rest_postEvent s t q c p l)
@[simp] theorem postEvent_saf_aonFault (s : State) (t q : Nat) (c : Bool) (p : List Byte) (l : Option Fld) : (postEvent s t q c p l).saf.aonFault = s.saf.aonFault :=
  congrArg (·.saf.aonFault) (rest_postEvent s t q c p l)
@[simp] theorem postEvent_saf_holdupTest (s : State) (t q : Nat) (c : Bool) (p : List Byte) (l : Option Fld) : (postEvent s t q c p l).saf.holdupTest = s.saf.holdupTest :=
  congrArg (·.saf.holdupTest) (rest_postEvent s t q c p l)
@[simp] theorem postEvent_saf_v0 (s : State) (t q : Nat) (c : Bool) (p : List Byte) (l : Option Fld) : (postEvent s t q c p l).saf.v0 = s.saf.v0 :=
  congrArg (·.saf.v0) (rest_postEvent s t q c p l)
@[simp] theorem postEvent_saf_boardRecord (s : State) (t q : Nat) (c : Bool) (p : List Byte) (l : Option Fld) : (postEvent s t q c p l).saf.boardRecord = s.saf.boardRecord :=
  congrArg (·.saf.boardRecord) (rest_postEvent s t q c p l)
@[simp] theorem postEvent_saf_scanOn (s : State) (t q : Nat) (c : Bool) (p : List Byte) (l : Option Fld) : (postEvent s t q c p l).saf.scanOn = s.saf.scanOn :=
  congrArg (·.saf.scanOn) (rest_postEvent s t q c p l)
@[simp] theorem postEvent_saf_jFlash (s : State) (t q : Nat) (c : Bool) (p : List Byte) (l : Option Fld) : (postEvent s t q c p l).saf.jFlash = s.saf.jFlash :=
  congrArg (·.saf.jFlash) (rest_postEvent s t q c p l)
@[simp] theorem postEvent_saf_jMirror (s : State) (t q : Nat) (c : Bool) (p : List Byte) (l : Option Fld) : (postEvent s t q c p l).saf.jMirror = s.saf.jMirror :=
  congrArg (·.saf.jMirror) (rest_postEvent s t q c p l)
@[simp] theorem postEvent_saf_jRetry (s : State) (t q : Nat) (c : Bool) (p : List Byte) (l : Option Fld) : (postEvent s t q c p l).saf.jRetry = s.saf.jRetry :=
  congrArg (·.saf.jRetry) (rest_postEvent s t q c p l)
@[simp] theorem postEvent_saf_temps (s : State) (t q : Nat) (c : Bool) (p : List Byte) (l : Option Fld) : (postEvent s t q c p l).saf.temps = s.saf.temps :=
  congrArg (·.saf.temps) (rest_postEvent s t q c p l)
@[simp] theorem postEvent_saf_wdtAt (s : State) (t q : Nat) (c : Bool) (p : List Byte) (l : Option Fld) : (postEvent s t q c p l).saf.wdtAt = s.saf.wdtAt :=
  congrArg (·.saf.wdtAt) (rest_postEvent s t q c p l)
@[simp] theorem postEvent_ctr_watch (s : State) (t q : Nat) (c : Bool) (p : List Byte) (l : Option Fld) : (postEvent s t q c p l).ctr.watch = s.ctr.watch :=
  congrArg (·.ctr.watch) (rest_postEvent s t q c p l)
@[simp] theorem postEvent_ctr_smpBuf (s : State) (t q : Nat) (c : Bool) (p : List Byte) (l : Option Fld) : (postEvent s t q c p l).ctr.smpBuf = s.ctr.smpBuf :=
  congrArg (·.ctr.smpBuf) (rest_postEvent s t q c p l)
@[simp] theorem postEvent_ctr_smpFifo (s : State) (t q : Nat) (c : Bool) (p : List Byte) (l : Option Fld) : (postEvent s t q c p l).ctr.smpFifo = s.ctr.smpFifo :=
  congrArg (·.ctr.smpFifo) (rest_postEvent s t q c p l)
@[simp] theorem postEvent_ctr_smpSel (s : State) (t q : Nat) (c : Bool) (p : List Byte) (l : Option Fld) : (postEvent s t q c p l).ctr.smpSel = s.ctr.smpSel :=
  congrArg (·.ctr.smpSel) (rest_postEvent s t q c p l)
@[simp] theorem postEvent_ctr_smpSeq (s : State) (t q : Nat) (c : Bool) (p : List Byte) (l : Option Fld) : (postEvent s t q c p l).ctr.smpSeq = s.ctr.smpSeq :=
  congrArg (·.ctr.smpSeq) (rest_postEvent s t q c p l)
@[simp] theorem postEvent_ctr_frzCmd (s : State) (t q : Nat) (c : Bool) (p : List Byte) (l : Option Fld) : (postEvent s t q c p l).ctr.frzCmd = s.ctr.frzCmd :=
  congrArg (·.ctr.frzCmd) (rest_postEvent s t q c p l)
@[simp] theorem postEvent_ctr_frzStep (s : State) (t q : Nat) (c : Bool) (p : List Byte) (l : Option Fld) : (postEvent s t q c p l).ctr.frzStep = s.ctr.frzStep :=
  congrArg (·.ctr.frzStep) (rest_postEvent s t q c p l)
@[simp] theorem postEvent_ctr_frzDataRo (s : State) (t q : Nat) (c : Bool) (p : List Byte) (l : Option Fld) : (postEvent s t q c p l).ctr.frzDataRo = s.ctr.frzDataRo :=
  congrArg (·.ctr.frzDataRo) (rest_postEvent s t q c p l)
@[simp] theorem postEvent_ctr_frzDump (s : State) (t q : Nat) (c : Bool) (p : List Byte) (l : Option Fld) : (postEvent s t q c p l).ctr.frzDump = s.ctr.frzDump :=
  congrArg (·.ctr.frzDump) (rest_postEvent s t q c p l)
@[simp] theorem postEvent_ctr_rushesTo (s : State) (t q : Nat) (c : Bool) (p : List Byte) (l : Option Fld) : (postEvent s t q c p l).ctr.rushesTo = s.ctr.rushesTo :=
  congrArg (·.ctr.rushesTo) (rest_postEvent s t q c p l)
@[simp] theorem postEvent_ctr_frzWarm (s : State) (t q : Nat) (c : Bool) (p : List Byte) (l : Option Fld) : (postEvent s t q c p l).ctr.frzWarm = s.ctr.frzWarm :=
  congrArg (·.ctr.frzWarm) (rest_postEvent s t q c p l)
@[simp] theorem postEvent_ctr_jtag (s : State) (t q : Nat) (c : Bool) (p : List Byte) (l : Option Fld) : (postEvent s t q c p l).ctr.jtag = s.ctr.jtag :=
  congrArg (·.ctr.jtag) (rest_postEvent s t q c p l)
@[simp] theorem postEvent_ctr_preload (s : State) (t q : Nat) (c : Bool) (p : List Byte) (l : Option Fld) : (postEvent s t q c p l).ctr.preload = s.ctr.preload :=
  congrArg (·.ctr.preload) (rest_postEvent s t q c p l)
@[simp] theorem postEvent_ctr_frzAt (s : State) (t q : Nat) (c : Bool) (p : List Byte) (l : Option Fld) : (postEvent s t q c p l).ctr.frzAt = s.ctr.frzAt :=
  congrArg (·.ctr.frzAt) (rest_postEvent s t q c p l)
@[simp] theorem postEvent_cel (s : State) (t q : Nat) (c : Bool) (p : List Byte) (l : Option Fld) : (postEvent s t q c p l).cel = s.cel := congrArg (·.cel) (rest_postEvent s t q c p l)
@[simp] theorem postEvent_tim (s : State) (t q : Nat) (c : Bool) (p : List Byte) (l : Option Fld) : (postEvent s t q c p l).tim = s.tim := congrArg (·.tim) (rest_postEvent s t q c p l)
@[simp] theorem postEvent_fuse (s : State) (t q : Nat) (c : Bool) (p : List Byte) (l : Option Fld) : (postEvent s t q c p l).fuse = s.fuse := congrArg (·.fuse) (rest_postEvent s t q c p l)
@[simp] theorem postEvent_img (s : State) (t q : Nat) (c : Bool) (p : List Byte) (l : Option Fld) : (postEvent s t q c p l).img = s.img := congrArg (·.img) (rest_postEvent s t q c p l)
@[simp] theorem postEvent_mod (s : State) (t q : Nat) (c : Bool) (p : List Byte) (l : Option Fld) : (postEvent s t q c p l).mod = s.mod := congrArg (·.mod) (rest_postEvent s t q c p l)
@[simp] theorem postEvent_pipe (s : State) (t q : Nat) (c : Bool) (p : List Byte) (l : Option Fld) : (postEvent s t q c p l).pipe = s.pipe := congrArg (·.pipe) (rest_postEvent s t q c p l)
@[simp] theorem postEvent_keys (s : State) (t q : Nat) (c : Bool) (p : List Byte) (l : Option Fld) : (postEvent s t q c p l).keys = s.keys := congrArg (·.keys) (rest_postEvent s t q c p l)
@[simp] theorem postEvent_take (s : State) (t q : Nat) (c : Bool) (p : List Byte) (l : Option Fld) : (postEvent s t q c p l).take = s.take := congrArg (·.take) (rest_postEvent s t q c p l)
@[simp] theorem postEvent_tab (s : State) (t q : Nat) (c : Bool) (p : List Byte) (l : Option Fld) : (postEvent s t q c p l).tab = s.tab := congrArg (·.tab) (rest_postEvent s t q c p l)
@[simp] theorem postEvent_hbm (s : State) (t q : Nat) (c : Bool) (p : List Byte) (l : Option Fld) : (postEvent s t q c p l).hbm = s.hbm := congrArg (·.hbm) (rest_postEvent s t q c p l)
@[simp] theorem postEvent_flo (s : State) (t q : Nat) (c : Bool) (p : List Byte) (l : Option Fld) : (postEvent s t q c p l).flo = s.flo := congrArg (·.flo) (rest_postEvent s t q c p l)
@[simp] theorem postEvent_eng (s : State) (t q : Nat) (c : Bool) (p : List Byte) (l : Option Fld) : (postEvent s t q c p l).eng = s.eng := congrArg (·.eng) (rest_postEvent s t q c p l)
@[simp] theorem postEvent_clu (s : State) (t q : Nat) (c : Bool) (p : List Byte) (l : Option Fld) : (postEvent s t q c p l).clu = s.clu := congrArg (·.clu) (rest_postEvent s t q c p l)
@[simp] theorem postEvent_pending (s : State) (t q : Nat) (c : Bool) (p : List Byte) (l : Option Fld) : (postEvent s t q c p l).pending = s.pending := congrArg (·.pending) (rest_postEvent s t q c p l)

@[simp] theorem syncPins_stats (s : State) : (syncPins s).stats = s.stats := congrArg (·.stats) (rest_syncPins s)
@[simp] theorem syncPins_flashRegs (s : State) : (syncPins s).flashRegs = s.flashRegs := congrArg (·.flashRegs) (rest_syncPins s)
@[simp] theorem syncPins_host_latches (s : State) : (syncPins s).host.latches = s.host.latches :=
  congrArg (·.host.latches) (rest_syncPins s)
@[simp] theorem syncPins_host_takenBy (s : State) : (syncPins s).host.takenBy = s.host.takenBy :=
  congrArg (·.host.takenBy) (rest_syncPins s)
@[simp] theorem syncPins_host_responseDue (s : State) : (syncPins s).host.responseDue = s.host.responseDue :=
  congrArg (·.host.responseDue) (rest_syncPins s)
@[simp] theorem syncPins_host_nonces (s : State) : (syncPins s).host.nonces = s.host.nonces :=
  congrArg (·.host.nonces) (rest_syncPins s)
@[simp] theorem syncPins_host_ringTail (s : State) : (syncPins s).host.ringTail = s.host.ringTail :=
  congrArg (·.host.ringTail) (rest_syncPins s)
@[simp] theorem syncPins_host_batches (s : State) : (syncPins s).host.batches = s.host.batches :=
  congrArg (·.host.batches) (rest_syncPins s)
@[simp] theorem syncPins_host_outRing (s : State) : (syncPins s).host.outRing = s.host.outRing :=
  congrArg (·.host.outRing) (rest_syncPins s)
@[simp] theorem syncPins_host_held (s : State) : (syncPins s).host.held = s.host.held :=
  congrArg (·.host.held) (rest_syncPins s)
@[simp] theorem syncPins_host_link (s : State) : (syncPins s).host.link = s.host.link :=
  congrArg (·.host.link) (rest_syncPins s)
@[simp] theorem syncPins_host_wakeEnding (s : State) : (syncPins s).host.wakeEnding = s.host.wakeEnding :=
  congrArg (·.host.wakeEnding) (rest_syncPins s)
@[simp] theorem syncPins_host_txNext (s : State) : (syncPins s).host.txNext = s.host.txNext :=
  congrArg (·.host.txNext) (rest_syncPins s)
@[simp] theorem syncPins_host_authAt (s : State) : (syncPins s).host.authAt = s.host.authAt :=
  congrArg (·.host.authAt) (rest_syncPins s)
@[simp] theorem syncPins_host_refclk (s : State) : (syncPins s).host.refclk = s.host.refclk :=
  congrArg (·.host.refclk) (rest_syncPins s)
@[simp] theorem syncPins_host_msixMask (s : State) : (syncPins s).host.msixMask = s.host.msixMask :=
  congrArg (·.host.msixMask) (rest_syncPins s)
@[simp] theorem syncPins_host_aerUr (s : State) : (syncPins s).host.aerUr = s.host.aerUr :=
  congrArg (·.host.aerUr) (rest_syncPins s)
@[simp] theorem syncPins_saf_standing (s : State) : (syncPins s).saf.standing = s.saf.standing :=
  congrArg (·.saf.standing) (rest_syncPins s)
@[simp] theorem syncPins_saf_uncRead (s : State) : (syncPins s).saf.uncRead = s.saf.uncRead :=
  congrArg (·.saf.uncRead) (rest_syncPins s)
@[simp] theorem syncPins_saf_pipePass (s : State) : (syncPins s).saf.pipePass = s.saf.pipePass :=
  congrArg (·.saf.pipePass) (rest_syncPins s)
@[simp] theorem syncPins_saf_engPass (s : State) : (syncPins s).saf.engPass = s.saf.engPass :=
  congrArg (·.saf.engPass) (rest_syncPins s)
@[simp] theorem syncPins_saf_unposted (s : State) : (syncPins s).saf.unposted = s.saf.unposted :=
  congrArg (·.saf.unposted) (rest_syncPins s)
@[simp] theorem syncPins_saf_pfwN (s : State) : (syncPins s).saf.pfwN = s.saf.pfwN :=
  congrArg (·.saf.pfwN) (rest_syncPins s)
@[simp] theorem syncPins_saf_modeSince (s : State) : (syncPins s).saf.modeSince = s.saf.modeSince :=
  congrArg (·.saf.modeSince) (rest_syncPins s)
@[simp] theorem syncPins_saf_aonFault (s : State) : (syncPins s).saf.aonFault = s.saf.aonFault :=
  congrArg (·.saf.aonFault) (rest_syncPins s)
@[simp] theorem syncPins_saf_holdupTest (s : State) : (syncPins s).saf.holdupTest = s.saf.holdupTest :=
  congrArg (·.saf.holdupTest) (rest_syncPins s)
@[simp] theorem syncPins_saf_v0 (s : State) : (syncPins s).saf.v0 = s.saf.v0 :=
  congrArg (·.saf.v0) (rest_syncPins s)
@[simp] theorem syncPins_saf_boardRecord (s : State) : (syncPins s).saf.boardRecord = s.saf.boardRecord :=
  congrArg (·.saf.boardRecord) (rest_syncPins s)
@[simp] theorem syncPins_saf_scanOn (s : State) : (syncPins s).saf.scanOn = s.saf.scanOn :=
  congrArg (·.saf.scanOn) (rest_syncPins s)
@[simp] theorem syncPins_saf_jFlash (s : State) : (syncPins s).saf.jFlash = s.saf.jFlash :=
  congrArg (·.saf.jFlash) (rest_syncPins s)
@[simp] theorem syncPins_saf_jMirror (s : State) : (syncPins s).saf.jMirror = s.saf.jMirror :=
  congrArg (·.saf.jMirror) (rest_syncPins s)
@[simp] theorem syncPins_saf_jRetry (s : State) : (syncPins s).saf.jRetry = s.saf.jRetry :=
  congrArg (·.saf.jRetry) (rest_syncPins s)
@[simp] theorem syncPins_saf_temps (s : State) : (syncPins s).saf.temps = s.saf.temps :=
  congrArg (·.saf.temps) (rest_syncPins s)
@[simp] theorem syncPins_saf_wdtAt (s : State) : (syncPins s).saf.wdtAt = s.saf.wdtAt :=
  congrArg (·.saf.wdtAt) (rest_syncPins s)
@[simp] theorem syncPins_ctr_watch (s : State) : (syncPins s).ctr.watch = s.ctr.watch :=
  congrArg (·.ctr.watch) (rest_syncPins s)
@[simp] theorem syncPins_ctr_smpBuf (s : State) : (syncPins s).ctr.smpBuf = s.ctr.smpBuf :=
  congrArg (·.ctr.smpBuf) (rest_syncPins s)
@[simp] theorem syncPins_ctr_smpFifo (s : State) : (syncPins s).ctr.smpFifo = s.ctr.smpFifo :=
  congrArg (·.ctr.smpFifo) (rest_syncPins s)
@[simp] theorem syncPins_ctr_smpSel (s : State) : (syncPins s).ctr.smpSel = s.ctr.smpSel :=
  congrArg (·.ctr.smpSel) (rest_syncPins s)
@[simp] theorem syncPins_ctr_smpSeq (s : State) : (syncPins s).ctr.smpSeq = s.ctr.smpSeq :=
  congrArg (·.ctr.smpSeq) (rest_syncPins s)
@[simp] theorem syncPins_ctr_frzCmd (s : State) : (syncPins s).ctr.frzCmd = s.ctr.frzCmd :=
  congrArg (·.ctr.frzCmd) (rest_syncPins s)
@[simp] theorem syncPins_ctr_frzStep (s : State) : (syncPins s).ctr.frzStep = s.ctr.frzStep :=
  congrArg (·.ctr.frzStep) (rest_syncPins s)
@[simp] theorem syncPins_ctr_frzDataRo (s : State) : (syncPins s).ctr.frzDataRo = s.ctr.frzDataRo :=
  congrArg (·.ctr.frzDataRo) (rest_syncPins s)
@[simp] theorem syncPins_ctr_frzDump (s : State) : (syncPins s).ctr.frzDump = s.ctr.frzDump :=
  congrArg (·.ctr.frzDump) (rest_syncPins s)
@[simp] theorem syncPins_ctr_rushesTo (s : State) : (syncPins s).ctr.rushesTo = s.ctr.rushesTo :=
  congrArg (·.ctr.rushesTo) (rest_syncPins s)
@[simp] theorem syncPins_ctr_frzWarm (s : State) : (syncPins s).ctr.frzWarm = s.ctr.frzWarm :=
  congrArg (·.ctr.frzWarm) (rest_syncPins s)
@[simp] theorem syncPins_ctr_jtag (s : State) : (syncPins s).ctr.jtag = s.ctr.jtag :=
  congrArg (·.ctr.jtag) (rest_syncPins s)
@[simp] theorem syncPins_ctr_preload (s : State) : (syncPins s).ctr.preload = s.ctr.preload :=
  congrArg (·.ctr.preload) (rest_syncPins s)
@[simp] theorem syncPins_ctr_frzAt (s : State) : (syncPins s).ctr.frzAt = s.ctr.frzAt :=
  congrArg (·.ctr.frzAt) (rest_syncPins s)
@[simp] theorem syncPins_cel (s : State) : (syncPins s).cel = s.cel := congrArg (·.cel) (rest_syncPins s)
@[simp] theorem syncPins_tim (s : State) : (syncPins s).tim = s.tim := congrArg (·.tim) (rest_syncPins s)
@[simp] theorem syncPins_fuse (s : State) : (syncPins s).fuse = s.fuse := congrArg (·.fuse) (rest_syncPins s)
@[simp] theorem syncPins_img (s : State) : (syncPins s).img = s.img := congrArg (·.img) (rest_syncPins s)
@[simp] theorem syncPins_mod (s : State) : (syncPins s).mod = s.mod := congrArg (·.mod) (rest_syncPins s)
@[simp] theorem syncPins_pipe (s : State) : (syncPins s).pipe = s.pipe := congrArg (·.pipe) (rest_syncPins s)
@[simp] theorem syncPins_keys (s : State) : (syncPins s).keys = s.keys := congrArg (·.keys) (rest_syncPins s)
@[simp] theorem syncPins_take (s : State) : (syncPins s).take = s.take := congrArg (·.take) (rest_syncPins s)
@[simp] theorem syncPins_tab (s : State) : (syncPins s).tab = s.tab := congrArg (·.tab) (rest_syncPins s)
@[simp] theorem syncPins_hbm (s : State) : (syncPins s).hbm = s.hbm := congrArg (·.hbm) (rest_syncPins s)
@[simp] theorem syncPins_flo (s : State) : (syncPins s).flo = s.flo := congrArg (·.flo) (rest_syncPins s)
@[simp] theorem syncPins_eng (s : State) : (syncPins s).eng = s.eng := congrArg (·.eng) (rest_syncPins s)
@[simp] theorem syncPins_clu (s : State) : (syncPins s).clu = s.clu := congrArg (·.clu) (rest_syncPins s)
@[simp] theorem syncPins_pending (s : State) : (syncPins s).pending = s.pending := congrArg (·.pending) (rest_syncPins s)

@[simp] theorem pinsFollow_stats (s : State) : (pinsFollow s).stats = s.stats := congrArg (·.stats) (rest_pinsFollow s)
@[simp] theorem pinsFollow_flashRegs (s : State) : (pinsFollow s).flashRegs = s.flashRegs := congrArg (·.flashRegs) (rest_pinsFollow s)
@[simp] theorem pinsFollow_host_latches (s : State) : (pinsFollow s).host.latches = s.host.latches :=
  congrArg (·.host.latches) (rest_pinsFollow s)
@[simp] theorem pinsFollow_host_takenBy (s : State) : (pinsFollow s).host.takenBy = s.host.takenBy :=
  congrArg (·.host.takenBy) (rest_pinsFollow s)
@[simp] theorem pinsFollow_host_responseDue (s : State) : (pinsFollow s).host.responseDue = s.host.responseDue :=
  congrArg (·.host.responseDue) (rest_pinsFollow s)
@[simp] theorem pinsFollow_host_nonces (s : State) : (pinsFollow s).host.nonces = s.host.nonces :=
  congrArg (·.host.nonces) (rest_pinsFollow s)
@[simp] theorem pinsFollow_host_ringTail (s : State) : (pinsFollow s).host.ringTail = s.host.ringTail :=
  congrArg (·.host.ringTail) (rest_pinsFollow s)
@[simp] theorem pinsFollow_host_batches (s : State) : (pinsFollow s).host.batches = s.host.batches :=
  congrArg (·.host.batches) (rest_pinsFollow s)
@[simp] theorem pinsFollow_host_outRing (s : State) : (pinsFollow s).host.outRing = s.host.outRing :=
  congrArg (·.host.outRing) (rest_pinsFollow s)
@[simp] theorem pinsFollow_host_held (s : State) : (pinsFollow s).host.held = s.host.held :=
  congrArg (·.host.held) (rest_pinsFollow s)
@[simp] theorem pinsFollow_host_link (s : State) : (pinsFollow s).host.link = s.host.link :=
  congrArg (·.host.link) (rest_pinsFollow s)
@[simp] theorem pinsFollow_host_wakeEnding (s : State) : (pinsFollow s).host.wakeEnding = s.host.wakeEnding :=
  congrArg (·.host.wakeEnding) (rest_pinsFollow s)
@[simp] theorem pinsFollow_host_txNext (s : State) : (pinsFollow s).host.txNext = s.host.txNext :=
  congrArg (·.host.txNext) (rest_pinsFollow s)
@[simp] theorem pinsFollow_host_authAt (s : State) : (pinsFollow s).host.authAt = s.host.authAt :=
  congrArg (·.host.authAt) (rest_pinsFollow s)
@[simp] theorem pinsFollow_host_refclk (s : State) : (pinsFollow s).host.refclk = s.host.refclk :=
  congrArg (·.host.refclk) (rest_pinsFollow s)
@[simp] theorem pinsFollow_host_msixMask (s : State) : (pinsFollow s).host.msixMask = s.host.msixMask :=
  congrArg (·.host.msixMask) (rest_pinsFollow s)
@[simp] theorem pinsFollow_host_aerUr (s : State) : (pinsFollow s).host.aerUr = s.host.aerUr :=
  congrArg (·.host.aerUr) (rest_pinsFollow s)
@[simp] theorem pinsFollow_saf_standing (s : State) : (pinsFollow s).saf.standing = s.saf.standing :=
  congrArg (·.saf.standing) (rest_pinsFollow s)
@[simp] theorem pinsFollow_saf_uncRead (s : State) : (pinsFollow s).saf.uncRead = s.saf.uncRead :=
  congrArg (·.saf.uncRead) (rest_pinsFollow s)
@[simp] theorem pinsFollow_saf_pipePass (s : State) : (pinsFollow s).saf.pipePass = s.saf.pipePass :=
  congrArg (·.saf.pipePass) (rest_pinsFollow s)
@[simp] theorem pinsFollow_saf_engPass (s : State) : (pinsFollow s).saf.engPass = s.saf.engPass :=
  congrArg (·.saf.engPass) (rest_pinsFollow s)
@[simp] theorem pinsFollow_saf_unposted (s : State) : (pinsFollow s).saf.unposted = s.saf.unposted :=
  congrArg (·.saf.unposted) (rest_pinsFollow s)
@[simp] theorem pinsFollow_saf_pfwN (s : State) : (pinsFollow s).saf.pfwN = s.saf.pfwN :=
  congrArg (·.saf.pfwN) (rest_pinsFollow s)
@[simp] theorem pinsFollow_saf_modeSince (s : State) : (pinsFollow s).saf.modeSince = s.saf.modeSince :=
  congrArg (·.saf.modeSince) (rest_pinsFollow s)
@[simp] theorem pinsFollow_saf_aonFault (s : State) : (pinsFollow s).saf.aonFault = s.saf.aonFault :=
  congrArg (·.saf.aonFault) (rest_pinsFollow s)
@[simp] theorem pinsFollow_saf_holdupTest (s : State) : (pinsFollow s).saf.holdupTest = s.saf.holdupTest :=
  congrArg (·.saf.holdupTest) (rest_pinsFollow s)
@[simp] theorem pinsFollow_saf_v0 (s : State) : (pinsFollow s).saf.v0 = s.saf.v0 :=
  congrArg (·.saf.v0) (rest_pinsFollow s)
@[simp] theorem pinsFollow_saf_boardRecord (s : State) : (pinsFollow s).saf.boardRecord = s.saf.boardRecord :=
  congrArg (·.saf.boardRecord) (rest_pinsFollow s)
@[simp] theorem pinsFollow_saf_scanOn (s : State) : (pinsFollow s).saf.scanOn = s.saf.scanOn :=
  congrArg (·.saf.scanOn) (rest_pinsFollow s)
@[simp] theorem pinsFollow_saf_jFlash (s : State) : (pinsFollow s).saf.jFlash = s.saf.jFlash :=
  congrArg (·.saf.jFlash) (rest_pinsFollow s)
@[simp] theorem pinsFollow_saf_jMirror (s : State) : (pinsFollow s).saf.jMirror = s.saf.jMirror :=
  congrArg (·.saf.jMirror) (rest_pinsFollow s)
@[simp] theorem pinsFollow_saf_jRetry (s : State) : (pinsFollow s).saf.jRetry = s.saf.jRetry :=
  congrArg (·.saf.jRetry) (rest_pinsFollow s)
@[simp] theorem pinsFollow_saf_temps (s : State) : (pinsFollow s).saf.temps = s.saf.temps :=
  congrArg (·.saf.temps) (rest_pinsFollow s)
@[simp] theorem pinsFollow_saf_wdtAt (s : State) : (pinsFollow s).saf.wdtAt = s.saf.wdtAt :=
  congrArg (·.saf.wdtAt) (rest_pinsFollow s)
@[simp] theorem pinsFollow_ctr_watch (s : State) : (pinsFollow s).ctr.watch = s.ctr.watch :=
  congrArg (·.ctr.watch) (rest_pinsFollow s)
@[simp] theorem pinsFollow_ctr_smpBuf (s : State) : (pinsFollow s).ctr.smpBuf = s.ctr.smpBuf :=
  congrArg (·.ctr.smpBuf) (rest_pinsFollow s)
@[simp] theorem pinsFollow_ctr_smpFifo (s : State) : (pinsFollow s).ctr.smpFifo = s.ctr.smpFifo :=
  congrArg (·.ctr.smpFifo) (rest_pinsFollow s)
@[simp] theorem pinsFollow_ctr_smpSel (s : State) : (pinsFollow s).ctr.smpSel = s.ctr.smpSel :=
  congrArg (·.ctr.smpSel) (rest_pinsFollow s)
@[simp] theorem pinsFollow_ctr_smpSeq (s : State) : (pinsFollow s).ctr.smpSeq = s.ctr.smpSeq :=
  congrArg (·.ctr.smpSeq) (rest_pinsFollow s)
@[simp] theorem pinsFollow_ctr_frzCmd (s : State) : (pinsFollow s).ctr.frzCmd = s.ctr.frzCmd :=
  congrArg (·.ctr.frzCmd) (rest_pinsFollow s)
@[simp] theorem pinsFollow_ctr_frzStep (s : State) : (pinsFollow s).ctr.frzStep = s.ctr.frzStep :=
  congrArg (·.ctr.frzStep) (rest_pinsFollow s)
@[simp] theorem pinsFollow_ctr_frzDataRo (s : State) : (pinsFollow s).ctr.frzDataRo = s.ctr.frzDataRo :=
  congrArg (·.ctr.frzDataRo) (rest_pinsFollow s)
@[simp] theorem pinsFollow_ctr_frzDump (s : State) : (pinsFollow s).ctr.frzDump = s.ctr.frzDump :=
  congrArg (·.ctr.frzDump) (rest_pinsFollow s)
@[simp] theorem pinsFollow_ctr_rushesTo (s : State) : (pinsFollow s).ctr.rushesTo = s.ctr.rushesTo :=
  congrArg (·.ctr.rushesTo) (rest_pinsFollow s)
@[simp] theorem pinsFollow_ctr_frzWarm (s : State) : (pinsFollow s).ctr.frzWarm = s.ctr.frzWarm :=
  congrArg (·.ctr.frzWarm) (rest_pinsFollow s)
@[simp] theorem pinsFollow_ctr_jtag (s : State) : (pinsFollow s).ctr.jtag = s.ctr.jtag :=
  congrArg (·.ctr.jtag) (rest_pinsFollow s)
@[simp] theorem pinsFollow_ctr_preload (s : State) : (pinsFollow s).ctr.preload = s.ctr.preload :=
  congrArg (·.ctr.preload) (rest_pinsFollow s)
@[simp] theorem pinsFollow_ctr_frzAt (s : State) : (pinsFollow s).ctr.frzAt = s.ctr.frzAt :=
  congrArg (·.ctr.frzAt) (rest_pinsFollow s)
@[simp] theorem pinsFollow_cel (s : State) : (pinsFollow s).cel = s.cel := congrArg (·.cel) (rest_pinsFollow s)
@[simp] theorem pinsFollow_tim (s : State) : (pinsFollow s).tim = s.tim := congrArg (·.tim) (rest_pinsFollow s)
@[simp] theorem pinsFollow_fuse (s : State) : (pinsFollow s).fuse = s.fuse := congrArg (·.fuse) (rest_pinsFollow s)
@[simp] theorem pinsFollow_img (s : State) : (pinsFollow s).img = s.img := congrArg (·.img) (rest_pinsFollow s)
@[simp] theorem pinsFollow_mod (s : State) : (pinsFollow s).mod = s.mod := congrArg (·.mod) (rest_pinsFollow s)
@[simp] theorem pinsFollow_pipe (s : State) : (pinsFollow s).pipe = s.pipe := congrArg (·.pipe) (rest_pinsFollow s)
@[simp] theorem pinsFollow_keys (s : State) : (pinsFollow s).keys = s.keys := congrArg (·.keys) (rest_pinsFollow s)
@[simp] theorem pinsFollow_take (s : State) : (pinsFollow s).take = s.take := congrArg (·.take) (rest_pinsFollow s)
@[simp] theorem pinsFollow_tab (s : State) : (pinsFollow s).tab = s.tab := congrArg (·.tab) (rest_pinsFollow s)
@[simp] theorem pinsFollow_hbm (s : State) : (pinsFollow s).hbm = s.hbm := congrArg (·.hbm) (rest_pinsFollow s)
@[simp] theorem pinsFollow_flo (s : State) : (pinsFollow s).flo = s.flo := congrArg (·.flo) (rest_pinsFollow s)
@[simp] theorem pinsFollow_eng (s : State) : (pinsFollow s).eng = s.eng := congrArg (·.eng) (rest_pinsFollow s)
@[simp] theorem pinsFollow_clu (s : State) : (pinsFollow s).clu = s.clu := congrArg (·.clu) (rest_pinsFollow s)
@[simp] theorem pinsFollow_pending (s : State) : (pinsFollow s).pending = s.pending := congrArg (·.pending) (rest_pinsFollow s)

@[simp] theorem journalFull_stats (s : State) (t v r u : Nat) (st : JStatus) (a b c : Nat) : (journalFull s t v r u st a b c).stats = s.stats := congrArg (·.stats) (rest_journalFull s t v r u st a b c)
@[simp] theorem journalFull_flashRegs (s : State) (t v r u : Nat) (st : JStatus) (a b c : Nat) : (journalFull s t v r u st a b c).flashRegs = s.flashRegs := congrArg (·.flashRegs) (rest_journalFull s t v r u st a b c)
@[simp] theorem journalFull_host_latches (s : State) (t v r u : Nat) (st : JStatus) (a b c : Nat) : (journalFull s t v r u st a b c).host.latches = s.host.latches :=
  congrArg (·.host.latches) (rest_journalFull s t v r u st a b c)
@[simp] theorem journalFull_host_takenBy (s : State) (t v r u : Nat) (st : JStatus) (a b c : Nat) : (journalFull s t v r u st a b c).host.takenBy = s.host.takenBy :=
  congrArg (·.host.takenBy) (rest_journalFull s t v r u st a b c)
@[simp] theorem journalFull_host_responseDue (s : State) (t v r u : Nat) (st : JStatus) (a b c : Nat) : (journalFull s t v r u st a b c).host.responseDue = s.host.responseDue :=
  congrArg (·.host.responseDue) (rest_journalFull s t v r u st a b c)
@[simp] theorem journalFull_host_nonces (s : State) (t v r u : Nat) (st : JStatus) (a b c : Nat) : (journalFull s t v r u st a b c).host.nonces = s.host.nonces :=
  congrArg (·.host.nonces) (rest_journalFull s t v r u st a b c)
@[simp] theorem journalFull_host_ringTail (s : State) (t v r u : Nat) (st : JStatus) (a b c : Nat) : (journalFull s t v r u st a b c).host.ringTail = s.host.ringTail :=
  congrArg (·.host.ringTail) (rest_journalFull s t v r u st a b c)
@[simp] theorem journalFull_host_batches (s : State) (t v r u : Nat) (st : JStatus) (a b c : Nat) : (journalFull s t v r u st a b c).host.batches = s.host.batches :=
  congrArg (·.host.batches) (rest_journalFull s t v r u st a b c)
@[simp] theorem journalFull_host_outRing (s : State) (t v r u : Nat) (st : JStatus) (a b c : Nat) : (journalFull s t v r u st a b c).host.outRing = s.host.outRing :=
  congrArg (·.host.outRing) (rest_journalFull s t v r u st a b c)
@[simp] theorem journalFull_host_held (s : State) (t v r u : Nat) (st : JStatus) (a b c : Nat) : (journalFull s t v r u st a b c).host.held = s.host.held :=
  congrArg (·.host.held) (rest_journalFull s t v r u st a b c)
@[simp] theorem journalFull_host_link (s : State) (t v r u : Nat) (st : JStatus) (a b c : Nat) : (journalFull s t v r u st a b c).host.link = s.host.link :=
  congrArg (·.host.link) (rest_journalFull s t v r u st a b c)
@[simp] theorem journalFull_host_wakeEnding (s : State) (t v r u : Nat) (st : JStatus) (a b c : Nat) : (journalFull s t v r u st a b c).host.wakeEnding = s.host.wakeEnding :=
  congrArg (·.host.wakeEnding) (rest_journalFull s t v r u st a b c)
@[simp] theorem journalFull_host_txNext (s : State) (t v r u : Nat) (st : JStatus) (a b c : Nat) : (journalFull s t v r u st a b c).host.txNext = s.host.txNext :=
  congrArg (·.host.txNext) (rest_journalFull s t v r u st a b c)
@[simp] theorem journalFull_host_authAt (s : State) (t v r u : Nat) (st : JStatus) (a b c : Nat) : (journalFull s t v r u st a b c).host.authAt = s.host.authAt :=
  congrArg (·.host.authAt) (rest_journalFull s t v r u st a b c)
@[simp] theorem journalFull_host_refclk (s : State) (t v r u : Nat) (st : JStatus) (a b c : Nat) : (journalFull s t v r u st a b c).host.refclk = s.host.refclk :=
  congrArg (·.host.refclk) (rest_journalFull s t v r u st a b c)
@[simp] theorem journalFull_host_msixMask (s : State) (t v r u : Nat) (st : JStatus) (a b c : Nat) : (journalFull s t v r u st a b c).host.msixMask = s.host.msixMask :=
  congrArg (·.host.msixMask) (rest_journalFull s t v r u st a b c)
@[simp] theorem journalFull_host_aerUr (s : State) (t v r u : Nat) (st : JStatus) (a b c : Nat) : (journalFull s t v r u st a b c).host.aerUr = s.host.aerUr :=
  congrArg (·.host.aerUr) (rest_journalFull s t v r u st a b c)
@[simp] theorem journalFull_saf_standing (s : State) (t v r u : Nat) (st : JStatus) (a b c : Nat) : (journalFull s t v r u st a b c).saf.standing = s.saf.standing :=
  congrArg (·.saf.standing) (rest_journalFull s t v r u st a b c)
@[simp] theorem journalFull_saf_uncRead (s : State) (t v r u : Nat) (st : JStatus) (a b c : Nat) : (journalFull s t v r u st a b c).saf.uncRead = s.saf.uncRead :=
  congrArg (·.saf.uncRead) (rest_journalFull s t v r u st a b c)
@[simp] theorem journalFull_saf_pipePass (s : State) (t v r u : Nat) (st : JStatus) (a b c : Nat) : (journalFull s t v r u st a b c).saf.pipePass = s.saf.pipePass :=
  congrArg (·.saf.pipePass) (rest_journalFull s t v r u st a b c)
@[simp] theorem journalFull_saf_engPass (s : State) (t v r u : Nat) (st : JStatus) (a b c : Nat) : (journalFull s t v r u st a b c).saf.engPass = s.saf.engPass :=
  congrArg (·.saf.engPass) (rest_journalFull s t v r u st a b c)
@[simp] theorem journalFull_saf_unposted (s : State) (t v r u : Nat) (st : JStatus) (a b c : Nat) : (journalFull s t v r u st a b c).saf.unposted = s.saf.unposted :=
  congrArg (·.saf.unposted) (rest_journalFull s t v r u st a b c)
@[simp] theorem journalFull_saf_pfwN (s : State) (t v r u : Nat) (st : JStatus) (a b c : Nat) : (journalFull s t v r u st a b c).saf.pfwN = s.saf.pfwN :=
  congrArg (·.saf.pfwN) (rest_journalFull s t v r u st a b c)
@[simp] theorem journalFull_saf_modeSince (s : State) (t v r u : Nat) (st : JStatus) (a b c : Nat) : (journalFull s t v r u st a b c).saf.modeSince = s.saf.modeSince :=
  congrArg (·.saf.modeSince) (rest_journalFull s t v r u st a b c)
@[simp] theorem journalFull_saf_aonFault (s : State) (t v r u : Nat) (st : JStatus) (a b c : Nat) : (journalFull s t v r u st a b c).saf.aonFault = s.saf.aonFault :=
  congrArg (·.saf.aonFault) (rest_journalFull s t v r u st a b c)
@[simp] theorem journalFull_saf_holdupTest (s : State) (t v r u : Nat) (st : JStatus) (a b c : Nat) : (journalFull s t v r u st a b c).saf.holdupTest = s.saf.holdupTest :=
  congrArg (·.saf.holdupTest) (rest_journalFull s t v r u st a b c)
@[simp] theorem journalFull_saf_v0 (s : State) (t v r u : Nat) (st : JStatus) (a b c : Nat) : (journalFull s t v r u st a b c).saf.v0 = s.saf.v0 :=
  congrArg (·.saf.v0) (rest_journalFull s t v r u st a b c)
@[simp] theorem journalFull_saf_boardRecord (s : State) (t v r u : Nat) (st : JStatus) (a b c : Nat) : (journalFull s t v r u st a b c).saf.boardRecord = s.saf.boardRecord :=
  congrArg (·.saf.boardRecord) (rest_journalFull s t v r u st a b c)
@[simp] theorem journalFull_saf_scanOn (s : State) (t v r u : Nat) (st : JStatus) (a b c : Nat) : (journalFull s t v r u st a b c).saf.scanOn = s.saf.scanOn :=
  congrArg (·.saf.scanOn) (rest_journalFull s t v r u st a b c)
@[simp] theorem journalFull_saf_jFlash (s : State) (t v r u : Nat) (st : JStatus) (a b c : Nat) : (journalFull s t v r u st a b c).saf.jFlash = s.saf.jFlash :=
  congrArg (·.saf.jFlash) (rest_journalFull s t v r u st a b c)
@[simp] theorem journalFull_saf_jMirror (s : State) (t v r u : Nat) (st : JStatus) (a b c : Nat) : (journalFull s t v r u st a b c).saf.jMirror = s.saf.jMirror :=
  congrArg (·.saf.jMirror) (rest_journalFull s t v r u st a b c)
@[simp] theorem journalFull_saf_jRetry (s : State) (t v r u : Nat) (st : JStatus) (a b c : Nat) : (journalFull s t v r u st a b c).saf.jRetry = s.saf.jRetry :=
  congrArg (·.saf.jRetry) (rest_journalFull s t v r u st a b c)
@[simp] theorem journalFull_saf_temps (s : State) (t v r u : Nat) (st : JStatus) (a b c : Nat) : (journalFull s t v r u st a b c).saf.temps = s.saf.temps :=
  congrArg (·.saf.temps) (rest_journalFull s t v r u st a b c)
@[simp] theorem journalFull_saf_wdtAt (s : State) (t v r u : Nat) (st : JStatus) (a b c : Nat) : (journalFull s t v r u st a b c).saf.wdtAt = s.saf.wdtAt :=
  congrArg (·.saf.wdtAt) (rest_journalFull s t v r u st a b c)
@[simp] theorem journalFull_ctr_watch (s : State) (t v r u : Nat) (st : JStatus) (a b c : Nat) : (journalFull s t v r u st a b c).ctr.watch = s.ctr.watch :=
  congrArg (·.ctr.watch) (rest_journalFull s t v r u st a b c)
@[simp] theorem journalFull_ctr_smpBuf (s : State) (t v r u : Nat) (st : JStatus) (a b c : Nat) : (journalFull s t v r u st a b c).ctr.smpBuf = s.ctr.smpBuf :=
  congrArg (·.ctr.smpBuf) (rest_journalFull s t v r u st a b c)
@[simp] theorem journalFull_ctr_smpFifo (s : State) (t v r u : Nat) (st : JStatus) (a b c : Nat) : (journalFull s t v r u st a b c).ctr.smpFifo = s.ctr.smpFifo :=
  congrArg (·.ctr.smpFifo) (rest_journalFull s t v r u st a b c)
@[simp] theorem journalFull_ctr_smpSel (s : State) (t v r u : Nat) (st : JStatus) (a b c : Nat) : (journalFull s t v r u st a b c).ctr.smpSel = s.ctr.smpSel :=
  congrArg (·.ctr.smpSel) (rest_journalFull s t v r u st a b c)
@[simp] theorem journalFull_ctr_smpSeq (s : State) (t v r u : Nat) (st : JStatus) (a b c : Nat) : (journalFull s t v r u st a b c).ctr.smpSeq = s.ctr.smpSeq :=
  congrArg (·.ctr.smpSeq) (rest_journalFull s t v r u st a b c)
@[simp] theorem journalFull_ctr_frzCmd (s : State) (t v r u : Nat) (st : JStatus) (a b c : Nat) : (journalFull s t v r u st a b c).ctr.frzCmd = s.ctr.frzCmd :=
  congrArg (·.ctr.frzCmd) (rest_journalFull s t v r u st a b c)
@[simp] theorem journalFull_ctr_frzStep (s : State) (t v r u : Nat) (st : JStatus) (a b c : Nat) : (journalFull s t v r u st a b c).ctr.frzStep = s.ctr.frzStep :=
  congrArg (·.ctr.frzStep) (rest_journalFull s t v r u st a b c)
@[simp] theorem journalFull_ctr_frzDataRo (s : State) (t v r u : Nat) (st : JStatus) (a b c : Nat) : (journalFull s t v r u st a b c).ctr.frzDataRo = s.ctr.frzDataRo :=
  congrArg (·.ctr.frzDataRo) (rest_journalFull s t v r u st a b c)
@[simp] theorem journalFull_ctr_frzDump (s : State) (t v r u : Nat) (st : JStatus) (a b c : Nat) : (journalFull s t v r u st a b c).ctr.frzDump = s.ctr.frzDump :=
  congrArg (·.ctr.frzDump) (rest_journalFull s t v r u st a b c)
@[simp] theorem journalFull_ctr_rushesTo (s : State) (t v r u : Nat) (st : JStatus) (a b c : Nat) : (journalFull s t v r u st a b c).ctr.rushesTo = s.ctr.rushesTo :=
  congrArg (·.ctr.rushesTo) (rest_journalFull s t v r u st a b c)
@[simp] theorem journalFull_ctr_frzWarm (s : State) (t v r u : Nat) (st : JStatus) (a b c : Nat) : (journalFull s t v r u st a b c).ctr.frzWarm = s.ctr.frzWarm :=
  congrArg (·.ctr.frzWarm) (rest_journalFull s t v r u st a b c)
@[simp] theorem journalFull_ctr_jtag (s : State) (t v r u : Nat) (st : JStatus) (a b c : Nat) : (journalFull s t v r u st a b c).ctr.jtag = s.ctr.jtag :=
  congrArg (·.ctr.jtag) (rest_journalFull s t v r u st a b c)
@[simp] theorem journalFull_ctr_preload (s : State) (t v r u : Nat) (st : JStatus) (a b c : Nat) : (journalFull s t v r u st a b c).ctr.preload = s.ctr.preload :=
  congrArg (·.ctr.preload) (rest_journalFull s t v r u st a b c)
@[simp] theorem journalFull_ctr_frzAt (s : State) (t v r u : Nat) (st : JStatus) (a b c : Nat) : (journalFull s t v r u st a b c).ctr.frzAt = s.ctr.frzAt :=
  congrArg (·.ctr.frzAt) (rest_journalFull s t v r u st a b c)
@[simp] theorem journalFull_cel (s : State) (t v r u : Nat) (st : JStatus) (a b c : Nat) : (journalFull s t v r u st a b c).cel = s.cel := congrArg (·.cel) (rest_journalFull s t v r u st a b c)
@[simp] theorem journalFull_tim (s : State) (t v r u : Nat) (st : JStatus) (a b c : Nat) : (journalFull s t v r u st a b c).tim = s.tim := congrArg (·.tim) (rest_journalFull s t v r u st a b c)
@[simp] theorem journalFull_fuse (s : State) (t v r u : Nat) (st : JStatus) (a b c : Nat) : (journalFull s t v r u st a b c).fuse = s.fuse := congrArg (·.fuse) (rest_journalFull s t v r u st a b c)
@[simp] theorem journalFull_img (s : State) (t v r u : Nat) (st : JStatus) (a b c : Nat) : (journalFull s t v r u st a b c).img = s.img := congrArg (·.img) (rest_journalFull s t v r u st a b c)
@[simp] theorem journalFull_mod (s : State) (t v r u : Nat) (st : JStatus) (a b c : Nat) : (journalFull s t v r u st a b c).mod = s.mod := congrArg (·.mod) (rest_journalFull s t v r u st a b c)
@[simp] theorem journalFull_pipe (s : State) (t v r u : Nat) (st : JStatus) (a b c : Nat) : (journalFull s t v r u st a b c).pipe = s.pipe := congrArg (·.pipe) (rest_journalFull s t v r u st a b c)
@[simp] theorem journalFull_keys (s : State) (t v r u : Nat) (st : JStatus) (a b c : Nat) : (journalFull s t v r u st a b c).keys = s.keys := congrArg (·.keys) (rest_journalFull s t v r u st a b c)
@[simp] theorem journalFull_take (s : State) (t v r u : Nat) (st : JStatus) (a b c : Nat) : (journalFull s t v r u st a b c).take = s.take := congrArg (·.take) (rest_journalFull s t v r u st a b c)
@[simp] theorem journalFull_tab (s : State) (t v r u : Nat) (st : JStatus) (a b c : Nat) : (journalFull s t v r u st a b c).tab = s.tab := congrArg (·.tab) (rest_journalFull s t v r u st a b c)
@[simp] theorem journalFull_hbm (s : State) (t v r u : Nat) (st : JStatus) (a b c : Nat) : (journalFull s t v r u st a b c).hbm = s.hbm := congrArg (·.hbm) (rest_journalFull s t v r u st a b c)
@[simp] theorem journalFull_flo (s : State) (t v r u : Nat) (st : JStatus) (a b c : Nat) : (journalFull s t v r u st a b c).flo = s.flo := congrArg (·.flo) (rest_journalFull s t v r u st a b c)
@[simp] theorem journalFull_eng (s : State) (t v r u : Nat) (st : JStatus) (a b c : Nat) : (journalFull s t v r u st a b c).eng = s.eng := congrArg (·.eng) (rest_journalFull s t v r u st a b c)
@[simp] theorem journalFull_clu (s : State) (t v r u : Nat) (st : JStatus) (a b c : Nat) : (journalFull s t v r u st a b c).clu = s.clu := congrArg (·.clu) (rest_journalFull s t v r u st a b c)
@[simp] theorem journalFull_pending (s : State) (t v r u : Nat) (st : JStatus) (a b c : Nat) : (journalFull s t v r u st a b c).pending = s.pending := congrArg (·.pending) (rest_journalFull s t v r u st a b c)

@[simp] theorem journal_stats (s : State) (t v u : Nat) (st : JStatus) (a b : Nat) : (journal s t v u st a b).stats = s.stats := congrArg (·.stats) (rest_journal s t v u st a b)
@[simp] theorem journal_flashRegs (s : State) (t v u : Nat) (st : JStatus) (a b : Nat) : (journal s t v u st a b).flashRegs = s.flashRegs := congrArg (·.flashRegs) (rest_journal s t v u st a b)
@[simp] theorem journal_host_latches (s : State) (t v u : Nat) (st : JStatus) (a b : Nat) : (journal s t v u st a b).host.latches = s.host.latches :=
  congrArg (·.host.latches) (rest_journal s t v u st a b)
@[simp] theorem journal_host_takenBy (s : State) (t v u : Nat) (st : JStatus) (a b : Nat) : (journal s t v u st a b).host.takenBy = s.host.takenBy :=
  congrArg (·.host.takenBy) (rest_journal s t v u st a b)
@[simp] theorem journal_host_responseDue (s : State) (t v u : Nat) (st : JStatus) (a b : Nat) : (journal s t v u st a b).host.responseDue = s.host.responseDue :=
  congrArg (·.host.responseDue) (rest_journal s t v u st a b)
@[simp] theorem journal_host_nonces (s : State) (t v u : Nat) (st : JStatus) (a b : Nat) : (journal s t v u st a b).host.nonces = s.host.nonces :=
  congrArg (·.host.nonces) (rest_journal s t v u st a b)
@[simp] theorem journal_host_ringTail (s : State) (t v u : Nat) (st : JStatus) (a b : Nat) : (journal s t v u st a b).host.ringTail = s.host.ringTail :=
  congrArg (·.host.ringTail) (rest_journal s t v u st a b)
@[simp] theorem journal_host_batches (s : State) (t v u : Nat) (st : JStatus) (a b : Nat) : (journal s t v u st a b).host.batches = s.host.batches :=
  congrArg (·.host.batches) (rest_journal s t v u st a b)
@[simp] theorem journal_host_outRing (s : State) (t v u : Nat) (st : JStatus) (a b : Nat) : (journal s t v u st a b).host.outRing = s.host.outRing :=
  congrArg (·.host.outRing) (rest_journal s t v u st a b)
@[simp] theorem journal_host_held (s : State) (t v u : Nat) (st : JStatus) (a b : Nat) : (journal s t v u st a b).host.held = s.host.held :=
  congrArg (·.host.held) (rest_journal s t v u st a b)
@[simp] theorem journal_host_link (s : State) (t v u : Nat) (st : JStatus) (a b : Nat) : (journal s t v u st a b).host.link = s.host.link :=
  congrArg (·.host.link) (rest_journal s t v u st a b)
@[simp] theorem journal_host_wakeEnding (s : State) (t v u : Nat) (st : JStatus) (a b : Nat) : (journal s t v u st a b).host.wakeEnding = s.host.wakeEnding :=
  congrArg (·.host.wakeEnding) (rest_journal s t v u st a b)
@[simp] theorem journal_host_txNext (s : State) (t v u : Nat) (st : JStatus) (a b : Nat) : (journal s t v u st a b).host.txNext = s.host.txNext :=
  congrArg (·.host.txNext) (rest_journal s t v u st a b)
@[simp] theorem journal_host_authAt (s : State) (t v u : Nat) (st : JStatus) (a b : Nat) : (journal s t v u st a b).host.authAt = s.host.authAt :=
  congrArg (·.host.authAt) (rest_journal s t v u st a b)
@[simp] theorem journal_host_refclk (s : State) (t v u : Nat) (st : JStatus) (a b : Nat) : (journal s t v u st a b).host.refclk = s.host.refclk :=
  congrArg (·.host.refclk) (rest_journal s t v u st a b)
@[simp] theorem journal_host_msixMask (s : State) (t v u : Nat) (st : JStatus) (a b : Nat) : (journal s t v u st a b).host.msixMask = s.host.msixMask :=
  congrArg (·.host.msixMask) (rest_journal s t v u st a b)
@[simp] theorem journal_host_aerUr (s : State) (t v u : Nat) (st : JStatus) (a b : Nat) : (journal s t v u st a b).host.aerUr = s.host.aerUr :=
  congrArg (·.host.aerUr) (rest_journal s t v u st a b)
@[simp] theorem journal_saf_standing (s : State) (t v u : Nat) (st : JStatus) (a b : Nat) : (journal s t v u st a b).saf.standing = s.saf.standing :=
  congrArg (·.saf.standing) (rest_journal s t v u st a b)
@[simp] theorem journal_saf_uncRead (s : State) (t v u : Nat) (st : JStatus) (a b : Nat) : (journal s t v u st a b).saf.uncRead = s.saf.uncRead :=
  congrArg (·.saf.uncRead) (rest_journal s t v u st a b)
@[simp] theorem journal_saf_pipePass (s : State) (t v u : Nat) (st : JStatus) (a b : Nat) : (journal s t v u st a b).saf.pipePass = s.saf.pipePass :=
  congrArg (·.saf.pipePass) (rest_journal s t v u st a b)
@[simp] theorem journal_saf_engPass (s : State) (t v u : Nat) (st : JStatus) (a b : Nat) : (journal s t v u st a b).saf.engPass = s.saf.engPass :=
  congrArg (·.saf.engPass) (rest_journal s t v u st a b)
@[simp] theorem journal_saf_unposted (s : State) (t v u : Nat) (st : JStatus) (a b : Nat) : (journal s t v u st a b).saf.unposted = s.saf.unposted :=
  congrArg (·.saf.unposted) (rest_journal s t v u st a b)
@[simp] theorem journal_saf_pfwN (s : State) (t v u : Nat) (st : JStatus) (a b : Nat) : (journal s t v u st a b).saf.pfwN = s.saf.pfwN :=
  congrArg (·.saf.pfwN) (rest_journal s t v u st a b)
@[simp] theorem journal_saf_modeSince (s : State) (t v u : Nat) (st : JStatus) (a b : Nat) : (journal s t v u st a b).saf.modeSince = s.saf.modeSince :=
  congrArg (·.saf.modeSince) (rest_journal s t v u st a b)
@[simp] theorem journal_saf_aonFault (s : State) (t v u : Nat) (st : JStatus) (a b : Nat) : (journal s t v u st a b).saf.aonFault = s.saf.aonFault :=
  congrArg (·.saf.aonFault) (rest_journal s t v u st a b)
@[simp] theorem journal_saf_holdupTest (s : State) (t v u : Nat) (st : JStatus) (a b : Nat) : (journal s t v u st a b).saf.holdupTest = s.saf.holdupTest :=
  congrArg (·.saf.holdupTest) (rest_journal s t v u st a b)
@[simp] theorem journal_saf_v0 (s : State) (t v u : Nat) (st : JStatus) (a b : Nat) : (journal s t v u st a b).saf.v0 = s.saf.v0 :=
  congrArg (·.saf.v0) (rest_journal s t v u st a b)
@[simp] theorem journal_saf_boardRecord (s : State) (t v u : Nat) (st : JStatus) (a b : Nat) : (journal s t v u st a b).saf.boardRecord = s.saf.boardRecord :=
  congrArg (·.saf.boardRecord) (rest_journal s t v u st a b)
@[simp] theorem journal_saf_scanOn (s : State) (t v u : Nat) (st : JStatus) (a b : Nat) : (journal s t v u st a b).saf.scanOn = s.saf.scanOn :=
  congrArg (·.saf.scanOn) (rest_journal s t v u st a b)
@[simp] theorem journal_saf_jFlash (s : State) (t v u : Nat) (st : JStatus) (a b : Nat) : (journal s t v u st a b).saf.jFlash = s.saf.jFlash :=
  congrArg (·.saf.jFlash) (rest_journal s t v u st a b)
@[simp] theorem journal_saf_jMirror (s : State) (t v u : Nat) (st : JStatus) (a b : Nat) : (journal s t v u st a b).saf.jMirror = s.saf.jMirror :=
  congrArg (·.saf.jMirror) (rest_journal s t v u st a b)
@[simp] theorem journal_saf_jRetry (s : State) (t v u : Nat) (st : JStatus) (a b : Nat) : (journal s t v u st a b).saf.jRetry = s.saf.jRetry :=
  congrArg (·.saf.jRetry) (rest_journal s t v u st a b)
@[simp] theorem journal_saf_temps (s : State) (t v u : Nat) (st : JStatus) (a b : Nat) : (journal s t v u st a b).saf.temps = s.saf.temps :=
  congrArg (·.saf.temps) (rest_journal s t v u st a b)
@[simp] theorem journal_saf_wdtAt (s : State) (t v u : Nat) (st : JStatus) (a b : Nat) : (journal s t v u st a b).saf.wdtAt = s.saf.wdtAt :=
  congrArg (·.saf.wdtAt) (rest_journal s t v u st a b)
@[simp] theorem journal_ctr_watch (s : State) (t v u : Nat) (st : JStatus) (a b : Nat) : (journal s t v u st a b).ctr.watch = s.ctr.watch :=
  congrArg (·.ctr.watch) (rest_journal s t v u st a b)
@[simp] theorem journal_ctr_smpBuf (s : State) (t v u : Nat) (st : JStatus) (a b : Nat) : (journal s t v u st a b).ctr.smpBuf = s.ctr.smpBuf :=
  congrArg (·.ctr.smpBuf) (rest_journal s t v u st a b)
@[simp] theorem journal_ctr_smpFifo (s : State) (t v u : Nat) (st : JStatus) (a b : Nat) : (journal s t v u st a b).ctr.smpFifo = s.ctr.smpFifo :=
  congrArg (·.ctr.smpFifo) (rest_journal s t v u st a b)
@[simp] theorem journal_ctr_smpSel (s : State) (t v u : Nat) (st : JStatus) (a b : Nat) : (journal s t v u st a b).ctr.smpSel = s.ctr.smpSel :=
  congrArg (·.ctr.smpSel) (rest_journal s t v u st a b)
@[simp] theorem journal_ctr_smpSeq (s : State) (t v u : Nat) (st : JStatus) (a b : Nat) : (journal s t v u st a b).ctr.smpSeq = s.ctr.smpSeq :=
  congrArg (·.ctr.smpSeq) (rest_journal s t v u st a b)
@[simp] theorem journal_ctr_frzCmd (s : State) (t v u : Nat) (st : JStatus) (a b : Nat) : (journal s t v u st a b).ctr.frzCmd = s.ctr.frzCmd :=
  congrArg (·.ctr.frzCmd) (rest_journal s t v u st a b)
@[simp] theorem journal_ctr_frzStep (s : State) (t v u : Nat) (st : JStatus) (a b : Nat) : (journal s t v u st a b).ctr.frzStep = s.ctr.frzStep :=
  congrArg (·.ctr.frzStep) (rest_journal s t v u st a b)
@[simp] theorem journal_ctr_frzDataRo (s : State) (t v u : Nat) (st : JStatus) (a b : Nat) : (journal s t v u st a b).ctr.frzDataRo = s.ctr.frzDataRo :=
  congrArg (·.ctr.frzDataRo) (rest_journal s t v u st a b)
@[simp] theorem journal_ctr_frzDump (s : State) (t v u : Nat) (st : JStatus) (a b : Nat) : (journal s t v u st a b).ctr.frzDump = s.ctr.frzDump :=
  congrArg (·.ctr.frzDump) (rest_journal s t v u st a b)
@[simp] theorem journal_ctr_rushesTo (s : State) (t v u : Nat) (st : JStatus) (a b : Nat) : (journal s t v u st a b).ctr.rushesTo = s.ctr.rushesTo :=
  congrArg (·.ctr.rushesTo) (rest_journal s t v u st a b)
@[simp] theorem journal_ctr_frzWarm (s : State) (t v u : Nat) (st : JStatus) (a b : Nat) : (journal s t v u st a b).ctr.frzWarm = s.ctr.frzWarm :=
  congrArg (·.ctr.frzWarm) (rest_journal s t v u st a b)
@[simp] theorem journal_ctr_jtag (s : State) (t v u : Nat) (st : JStatus) (a b : Nat) : (journal s t v u st a b).ctr.jtag = s.ctr.jtag :=
  congrArg (·.ctr.jtag) (rest_journal s t v u st a b)
@[simp] theorem journal_ctr_preload (s : State) (t v u : Nat) (st : JStatus) (a b : Nat) : (journal s t v u st a b).ctr.preload = s.ctr.preload :=
  congrArg (·.ctr.preload) (rest_journal s t v u st a b)
@[simp] theorem journal_ctr_frzAt (s : State) (t v u : Nat) (st : JStatus) (a b : Nat) : (journal s t v u st a b).ctr.frzAt = s.ctr.frzAt :=
  congrArg (·.ctr.frzAt) (rest_journal s t v u st a b)
@[simp] theorem journal_cel (s : State) (t v u : Nat) (st : JStatus) (a b : Nat) : (journal s t v u st a b).cel = s.cel := congrArg (·.cel) (rest_journal s t v u st a b)
@[simp] theorem journal_tim (s : State) (t v u : Nat) (st : JStatus) (a b : Nat) : (journal s t v u st a b).tim = s.tim := congrArg (·.tim) (rest_journal s t v u st a b)
@[simp] theorem journal_fuse (s : State) (t v u : Nat) (st : JStatus) (a b : Nat) : (journal s t v u st a b).fuse = s.fuse := congrArg (·.fuse) (rest_journal s t v u st a b)
@[simp] theorem journal_img (s : State) (t v u : Nat) (st : JStatus) (a b : Nat) : (journal s t v u st a b).img = s.img := congrArg (·.img) (rest_journal s t v u st a b)
@[simp] theorem journal_mod (s : State) (t v u : Nat) (st : JStatus) (a b : Nat) : (journal s t v u st a b).mod = s.mod := congrArg (·.mod) (rest_journal s t v u st a b)
@[simp] theorem journal_pipe (s : State) (t v u : Nat) (st : JStatus) (a b : Nat) : (journal s t v u st a b).pipe = s.pipe := congrArg (·.pipe) (rest_journal s t v u st a b)
@[simp] theorem journal_keys (s : State) (t v u : Nat) (st : JStatus) (a b : Nat) : (journal s t v u st a b).keys = s.keys := congrArg (·.keys) (rest_journal s t v u st a b)
@[simp] theorem journal_take (s : State) (t v u : Nat) (st : JStatus) (a b : Nat) : (journal s t v u st a b).take = s.take := congrArg (·.take) (rest_journal s t v u st a b)
@[simp] theorem journal_tab (s : State) (t v u : Nat) (st : JStatus) (a b : Nat) : (journal s t v u st a b).tab = s.tab := congrArg (·.tab) (rest_journal s t v u st a b)
@[simp] theorem journal_hbm (s : State) (t v u : Nat) (st : JStatus) (a b : Nat) : (journal s t v u st a b).hbm = s.hbm := congrArg (·.hbm) (rest_journal s t v u st a b)
@[simp] theorem journal_flo (s : State) (t v u : Nat) (st : JStatus) (a b : Nat) : (journal s t v u st a b).flo = s.flo := congrArg (·.flo) (rest_journal s t v u st a b)
@[simp] theorem journal_eng (s : State) (t v u : Nat) (st : JStatus) (a b : Nat) : (journal s t v u st a b).eng = s.eng := congrArg (·.eng) (rest_journal s t v u st a b)
@[simp] theorem journal_clu (s : State) (t v u : Nat) (st : JStatus) (a b : Nat) : (journal s t v u st a b).clu = s.clu := congrArg (·.clu) (rest_journal s t v u st a b)
@[simp] theorem journal_pending (s : State) (t v u : Nat) (st : JStatus) (a b : Nat) : (journal s t v u st a b).pending = s.pending := congrArg (·.pending) (rest_journal s t v u st a b)

@[simp] theorem notice_stats (s : State) (r : List Byte) : (notice s r).stats = s.stats := congrArg (·.stats) (rest_notice s r)
@[simp] theorem notice_flashRegs (s : State) (r : List Byte) : (notice s r).flashRegs = s.flashRegs := congrArg (·.flashRegs) (rest_notice s r)
@[simp] theorem notice_host_latches (s : State) (r : List Byte) : (notice s r).host.latches = s.host.latches :=
  congrArg (·.host.latches) (rest_notice s r)
@[simp] theorem notice_host_takenBy (s : State) (r : List Byte) : (notice s r).host.takenBy = s.host.takenBy :=
  congrArg (·.host.takenBy) (rest_notice s r)
@[simp] theorem notice_host_responseDue (s : State) (r : List Byte) : (notice s r).host.responseDue = s.host.responseDue :=
  congrArg (·.host.responseDue) (rest_notice s r)
@[simp] theorem notice_host_nonces (s : State) (r : List Byte) : (notice s r).host.nonces = s.host.nonces :=
  congrArg (·.host.nonces) (rest_notice s r)
@[simp] theorem notice_host_ringTail (s : State) (r : List Byte) : (notice s r).host.ringTail = s.host.ringTail :=
  congrArg (·.host.ringTail) (rest_notice s r)
@[simp] theorem notice_host_batches (s : State) (r : List Byte) : (notice s r).host.batches = s.host.batches :=
  congrArg (·.host.batches) (rest_notice s r)
@[simp] theorem notice_host_outRing (s : State) (r : List Byte) : (notice s r).host.outRing = s.host.outRing :=
  congrArg (·.host.outRing) (rest_notice s r)
@[simp] theorem notice_host_held (s : State) (r : List Byte) : (notice s r).host.held = s.host.held :=
  congrArg (·.host.held) (rest_notice s r)
@[simp] theorem notice_host_link (s : State) (r : List Byte) : (notice s r).host.link = s.host.link :=
  congrArg (·.host.link) (rest_notice s r)
@[simp] theorem notice_host_wakeEnding (s : State) (r : List Byte) : (notice s r).host.wakeEnding = s.host.wakeEnding :=
  congrArg (·.host.wakeEnding) (rest_notice s r)
@[simp] theorem notice_host_txNext (s : State) (r : List Byte) : (notice s r).host.txNext = s.host.txNext :=
  congrArg (·.host.txNext) (rest_notice s r)
@[simp] theorem notice_host_authAt (s : State) (r : List Byte) : (notice s r).host.authAt = s.host.authAt :=
  congrArg (·.host.authAt) (rest_notice s r)
@[simp] theorem notice_host_refclk (s : State) (r : List Byte) : (notice s r).host.refclk = s.host.refclk :=
  congrArg (·.host.refclk) (rest_notice s r)
@[simp] theorem notice_host_msixMask (s : State) (r : List Byte) : (notice s r).host.msixMask = s.host.msixMask :=
  congrArg (·.host.msixMask) (rest_notice s r)
@[simp] theorem notice_host_aerUr (s : State) (r : List Byte) : (notice s r).host.aerUr = s.host.aerUr :=
  congrArg (·.host.aerUr) (rest_notice s r)
@[simp] theorem notice_saf_standing (s : State) (r : List Byte) : (notice s r).saf.standing = s.saf.standing :=
  congrArg (·.saf.standing) (rest_notice s r)
@[simp] theorem notice_saf_uncRead (s : State) (r : List Byte) : (notice s r).saf.uncRead = s.saf.uncRead :=
  congrArg (·.saf.uncRead) (rest_notice s r)
@[simp] theorem notice_saf_pipePass (s : State) (r : List Byte) : (notice s r).saf.pipePass = s.saf.pipePass :=
  congrArg (·.saf.pipePass) (rest_notice s r)
@[simp] theorem notice_saf_engPass (s : State) (r : List Byte) : (notice s r).saf.engPass = s.saf.engPass :=
  congrArg (·.saf.engPass) (rest_notice s r)
@[simp] theorem notice_saf_unposted (s : State) (r : List Byte) : (notice s r).saf.unposted = s.saf.unposted :=
  congrArg (·.saf.unposted) (rest_notice s r)
@[simp] theorem notice_saf_pfwN (s : State) (r : List Byte) : (notice s r).saf.pfwN = s.saf.pfwN :=
  congrArg (·.saf.pfwN) (rest_notice s r)
@[simp] theorem notice_saf_modeSince (s : State) (r : List Byte) : (notice s r).saf.modeSince = s.saf.modeSince :=
  congrArg (·.saf.modeSince) (rest_notice s r)
@[simp] theorem notice_saf_aonFault (s : State) (r : List Byte) : (notice s r).saf.aonFault = s.saf.aonFault :=
  congrArg (·.saf.aonFault) (rest_notice s r)
@[simp] theorem notice_saf_holdupTest (s : State) (r : List Byte) : (notice s r).saf.holdupTest = s.saf.holdupTest :=
  congrArg (·.saf.holdupTest) (rest_notice s r)
@[simp] theorem notice_saf_v0 (s : State) (r : List Byte) : (notice s r).saf.v0 = s.saf.v0 :=
  congrArg (·.saf.v0) (rest_notice s r)
@[simp] theorem notice_saf_boardRecord (s : State) (r : List Byte) : (notice s r).saf.boardRecord = s.saf.boardRecord :=
  congrArg (·.saf.boardRecord) (rest_notice s r)
@[simp] theorem notice_saf_scanOn (s : State) (r : List Byte) : (notice s r).saf.scanOn = s.saf.scanOn :=
  congrArg (·.saf.scanOn) (rest_notice s r)
@[simp] theorem notice_saf_jFlash (s : State) (r : List Byte) : (notice s r).saf.jFlash = s.saf.jFlash :=
  congrArg (·.saf.jFlash) (rest_notice s r)
@[simp] theorem notice_saf_jMirror (s : State) (r : List Byte) : (notice s r).saf.jMirror = s.saf.jMirror :=
  congrArg (·.saf.jMirror) (rest_notice s r)
@[simp] theorem notice_saf_jRetry (s : State) (r : List Byte) : (notice s r).saf.jRetry = s.saf.jRetry :=
  congrArg (·.saf.jRetry) (rest_notice s r)
@[simp] theorem notice_saf_temps (s : State) (r : List Byte) : (notice s r).saf.temps = s.saf.temps :=
  congrArg (·.saf.temps) (rest_notice s r)
@[simp] theorem notice_saf_wdtAt (s : State) (r : List Byte) : (notice s r).saf.wdtAt = s.saf.wdtAt :=
  congrArg (·.saf.wdtAt) (rest_notice s r)
@[simp] theorem notice_ctr_watch (s : State) (r : List Byte) : (notice s r).ctr.watch = s.ctr.watch :=
  congrArg (·.ctr.watch) (rest_notice s r)
@[simp] theorem notice_ctr_smpBuf (s : State) (r : List Byte) : (notice s r).ctr.smpBuf = s.ctr.smpBuf :=
  congrArg (·.ctr.smpBuf) (rest_notice s r)
@[simp] theorem notice_ctr_smpFifo (s : State) (r : List Byte) : (notice s r).ctr.smpFifo = s.ctr.smpFifo :=
  congrArg (·.ctr.smpFifo) (rest_notice s r)
@[simp] theorem notice_ctr_smpSel (s : State) (r : List Byte) : (notice s r).ctr.smpSel = s.ctr.smpSel :=
  congrArg (·.ctr.smpSel) (rest_notice s r)
@[simp] theorem notice_ctr_smpSeq (s : State) (r : List Byte) : (notice s r).ctr.smpSeq = s.ctr.smpSeq :=
  congrArg (·.ctr.smpSeq) (rest_notice s r)
@[simp] theorem notice_ctr_frzCmd (s : State) (r : List Byte) : (notice s r).ctr.frzCmd = s.ctr.frzCmd :=
  congrArg (·.ctr.frzCmd) (rest_notice s r)
@[simp] theorem notice_ctr_frzStep (s : State) (r : List Byte) : (notice s r).ctr.frzStep = s.ctr.frzStep :=
  congrArg (·.ctr.frzStep) (rest_notice s r)
@[simp] theorem notice_ctr_frzDataRo (s : State) (r : List Byte) : (notice s r).ctr.frzDataRo = s.ctr.frzDataRo :=
  congrArg (·.ctr.frzDataRo) (rest_notice s r)
@[simp] theorem notice_ctr_frzDump (s : State) (r : List Byte) : (notice s r).ctr.frzDump = s.ctr.frzDump :=
  congrArg (·.ctr.frzDump) (rest_notice s r)
@[simp] theorem notice_ctr_rushesTo (s : State) (r : List Byte) : (notice s r).ctr.rushesTo = s.ctr.rushesTo :=
  congrArg (·.ctr.rushesTo) (rest_notice s r)
@[simp] theorem notice_ctr_frzWarm (s : State) (r : List Byte) : (notice s r).ctr.frzWarm = s.ctr.frzWarm :=
  congrArg (·.ctr.frzWarm) (rest_notice s r)
@[simp] theorem notice_ctr_jtag (s : State) (r : List Byte) : (notice s r).ctr.jtag = s.ctr.jtag :=
  congrArg (·.ctr.jtag) (rest_notice s r)
@[simp] theorem notice_ctr_preload (s : State) (r : List Byte) : (notice s r).ctr.preload = s.ctr.preload :=
  congrArg (·.ctr.preload) (rest_notice s r)
@[simp] theorem notice_ctr_frzAt (s : State) (r : List Byte) : (notice s r).ctr.frzAt = s.ctr.frzAt :=
  congrArg (·.ctr.frzAt) (rest_notice s r)
@[simp] theorem notice_cel (s : State) (r : List Byte) : (notice s r).cel = s.cel := congrArg (·.cel) (rest_notice s r)
@[simp] theorem notice_tim (s : State) (r : List Byte) : (notice s r).tim = s.tim := congrArg (·.tim) (rest_notice s r)
@[simp] theorem notice_fuse (s : State) (r : List Byte) : (notice s r).fuse = s.fuse := congrArg (·.fuse) (rest_notice s r)
@[simp] theorem notice_img (s : State) (r : List Byte) : (notice s r).img = s.img := congrArg (·.img) (rest_notice s r)
@[simp] theorem notice_mod (s : State) (r : List Byte) : (notice s r).mod = s.mod := congrArg (·.mod) (rest_notice s r)
@[simp] theorem notice_pipe (s : State) (r : List Byte) : (notice s r).pipe = s.pipe := congrArg (·.pipe) (rest_notice s r)
@[simp] theorem notice_keys (s : State) (r : List Byte) : (notice s r).keys = s.keys := congrArg (·.keys) (rest_notice s r)
@[simp] theorem notice_take (s : State) (r : List Byte) : (notice s r).take = s.take := congrArg (·.take) (rest_notice s r)
@[simp] theorem notice_tab (s : State) (r : List Byte) : (notice s r).tab = s.tab := congrArg (·.tab) (rest_notice s r)
@[simp] theorem notice_hbm (s : State) (r : List Byte) : (notice s r).hbm = s.hbm := congrArg (·.hbm) (rest_notice s r)
@[simp] theorem notice_flo (s : State) (r : List Byte) : (notice s r).flo = s.flo := congrArg (·.flo) (rest_notice s r)
@[simp] theorem notice_eng (s : State) (r : List Byte) : (notice s r).eng = s.eng := congrArg (·.eng) (rest_notice s r)
@[simp] theorem notice_clu (s : State) (r : List Byte) : (notice s r).clu = s.clu := congrArg (·.clu) (rest_notice s r)
@[simp] theorem notice_pending (s : State) (r : List Byte) : (notice s r).pending = s.pending := congrArg (·.pending) (rest_notice s r)

end Sys2Proof.Laws
end

