-- ==== Sys2Proof/Laws/Pins.lean ====
section
/-!
SUPPORT. The end of a meaning: SAFE_N and FAULT_N follow, the queue stays, and nothing else changes; and when a
meaning acts.
-/

namespace Sys2Proof.Laws

open Sys2Proof Sys2Proof.Machine

theorem rdB_drivePin_self (s : State) (f : Fld) (l : List String) (on : Bool) (h : f.wid = 1) :
    rdB (drivePin s f l on) f = on := by
  unfold drivePin
  split
  · rename_i e; exact e
  · unfold rdB
    rw [rd_foldl _ _ (fun _ _ => rd_emit _ _ _), rd_wrB_self _ _ _ h]
    cases on <;> rfl

theorem modeIn_congr {s t : State} (h : rd s R.modStatMode = rd t R.modStatMode) (l : List Mode) :
    modeIn s l = modeIn t l := by unfold modeIn mode; rw [h]

/-- Driving the pins leaves what they show alone. -/
theorem rd_drivePin_quiet (s : State) (f g : Fld) (l : List String) (on : Bool) (h : fkey f ≠ fkey g) :
    rd (drivePin s f l on) g = rd s g := rd_drivePin s f g l on h

theorem safeNAsserted_congr {s t : State} (h1 : rd s R.modStatMode = rd t R.modStatMode)
    (h2 : rd s R.safFaultFault = rd t R.safFaultFault) (h3 : rd s R.timStatValid = rd t R.timStatValid) :
    safeNAsserted s = safeNAsserted t := by
  unfold safeNAsserted classSFaults timeValid rdB
  rw [modeIn_congr h1, h2, h3]

theorem faultNAsserted_congr {s t : State} (h1 : rd s R.safFaultFault = rd t R.safFaultFault)
    (h2 : s.saf.aonFault = t.saf.aonFault) : faultNAsserted s = faultNAsserted t := by
  unfold faultNAsserted
  rw [h1, h2]

@[simp] theorem saf_drivePin (s : State) (f : Fld) (l : List String) (on : Bool) :
    (drivePin s f l on).saf.aonFault = s.saf.aonFault := congrArg (·.saf.aonFault) (rest_drivePin s f l on)

@[simp] theorem safeNAsserted_syncPins (s : State) : safeNAsserted (syncPins s) = safeNAsserted s :=
  safeNAsserted_congr (rd_syncPins s _ (by decide) (by decide)) (rd_syncPins s _ (by decide) (by decide))
    (rd_syncPins s _ (by decide) (by decide))

@[simp] theorem faultNAsserted_syncPins (s : State) : faultNAsserted (syncPins s) = faultNAsserted s :=
  faultNAsserted_congr (rd_syncPins s _ (by decide) (by decide)) (syncPins_saf_aonFault s)

/-- After `syncPins` both pins stand as R420 and R421 give them. -/
theorem syncPins_right (s : State) : rdB (syncPins s) R.safStatSafeN = safeNAsserted (syncPins s) ∧
    rdB (syncPins s) R.safStatFaultN = faultNAsserted (syncPins s) := by
  rw [safeNAsserted_syncPins, faultNAsserted_syncPins]
  constructor
  · simp only [syncPins, rdB]
    rw [rd_drivePin _ _ _ _ _ (by decide)]
    exact rdB_drivePin_self s R.safStatSafeN _ _ rfl
  · simp only [syncPins]
    rw [rdB_drivePin_self _ _ _ _ rfl]
    exact faultNAsserted_congr (rd_drivePin _ _ _ _ _ (by decide)) (saf_drivePin _ _ _ _)

theorem pinsRight_pinsFollow (t : State) : PinsRight (pinsFollow t) := by
  unfold pinsFollow
  split
  · rename_i h; exact Or.inl h
  · exact Or.inr (syncPins_right t)

theorem pinsRight_pending (t : State) (p : List Instr) (h : PinsRight t) : PinsRight { t with pending := p } := h

/-- The pins stand right after every meaning that acts. -/
theorem pinsRight_finish (s t : State) : PinsRight (finish s t) := pinsRight_pending _ _ (pinsRight_pinsFollow t)

/-! ### What `finish` leaves alone -/

theorem rd_finish (s t : State) (g : Fld) (h1 : fkey g ≠ 64 * 0x60000) (h2 : fkey g ≠ 64 * 0x60000 + 1) :
    rd (finish s t) g = rd t g := rd_pinsFollow t g h1 h2

theorem rd_finish_quiet (s t : State) (g : Fld) (h : quiet (fkey g) = true) : rd (finish s t) g = rd t g :=
  rd_finish s t g (quiet_pins h).1 (quiet_pins h).2

@[simp] theorem rdStat_finish (s t : State) (g : Fld) : rdStat (finish s t) g = rdStat t g := by
  unfold rdStat; exact congrArg (fun m => mgetD m (fkey g) Status.ok) (pinsFollow_stats t)

@[simp] theorem finish_pending (s t : State) : (finish s t).pending = s.pending := rfl
theorem saf_syncPins (s : State) : (syncPins s).saf = s.saf := by
  have h : ∀ (t : State) (f : Fld) (l : List String) (on : Bool), (drivePin t f l on).saf = t.saf := fun t f l on => by
    unfold drivePin
    split
    · rfl
    · exact foldl_keep (fun t => t.saf) (fun t n => emit t (.pin n (!on))) (fun _ _ => rfl) l _
  rw [syncPins, h, h]

theorem host_syncPins (s : State) : (syncPins s).host = s.host := by
  have h : ∀ (t : State) (f : Fld) (l : List String) (on : Bool), (drivePin t f l on).host = t.host := fun t f l on => by
    unfold drivePin
    split
    · rfl
    · exact foldl_keep (fun t => t.host) (fun t n => emit t (.pin n (!on))) (fun _ _ => rfl) l _
  rw [syncPins, h, h]

theorem ctr_syncPins (s : State) : (syncPins s).ctr = s.ctr := by
  have h : ∀ (t : State) (f : Fld) (l : List String) (on : Bool), (drivePin t f l on).ctr = t.ctr := fun t f l on => by
    unfold drivePin
    split
    · rfl
    · exact foldl_keep (fun t => t.ctr) (fun t n => emit t (.pin n (!on))) (fun _ _ => rfl) l _
  rw [syncPins, h, h]

@[simp] theorem finish_saf (s t : State) : (finish s t).saf = t.saf := by
  simp only [finish, pinsFollow]; split
  · rfl
  · exact saf_syncPins t

@[simp] theorem finish_host (s t : State) : (finish s t).host = t.host := by
  simp only [finish, pinsFollow]; split
  · rfl
  · exact host_syncPins t

@[simp] theorem finish_ctr (s t : State) : (finish s t).ctr = t.ctr := by
  simp only [finish, pinsFollow]; split
  · rfl
  · exact ctr_syncPins t

@[simp] theorem finish_stats (s t : State) : (finish s t).stats = t.stats := pinsFollow_stats t
@[simp] theorem finish_flashRegs (s t : State) : (finish s t).flashRegs = t.flashRegs := pinsFollow_flashRegs t
@[simp] theorem finish_cel (s t : State) : (finish s t).cel = t.cel := pinsFollow_cel t
@[simp] theorem finish_tim (s t : State) : (finish s t).tim = t.tim := pinsFollow_tim t
@[simp] theorem finish_fuse (s t : State) : (finish s t).fuse = t.fuse := pinsFollow_fuse t
@[simp] theorem finish_img (s t : State) : (finish s t).img = t.img := pinsFollow_img t
@[simp] theorem finish_mod (s t : State) : (finish s t).mod = t.mod := pinsFollow_mod t
@[simp] theorem finish_pipe (s t : State) : (finish s t).pipe = t.pipe := pinsFollow_pipe t
@[simp] theorem finish_keys (s t : State) : (finish s t).keys = t.keys := pinsFollow_keys t
@[simp] theorem finish_take (s t : State) : (finish s t).take = t.take := pinsFollow_take t
@[simp] theorem finish_tab (s t : State) : (finish s t).tab = t.tab := pinsFollow_tab t
@[simp] theorem finish_hbm (s t : State) : (finish s t).hbm = t.hbm := pinsFollow_hbm t
@[simp] theorem finish_flo (s t : State) : (finish s t).flo = t.flo := pinsFollow_flo t
@[simp] theorem finish_eng (s t : State) : (finish s t).eng = t.eng := pinsFollow_eng t
@[simp] theorem finish_clu (s t : State) : (finish s t).clu = t.clu := pinsFollow_clu t

theorem mem_drivePin_sent (s : State) (f : Fld) (l : List String) (on : Bool) (o : Sent) (h : o ∈ s.sent) :
    o ∈ (drivePin s f l on).sent := by
  unfold drivePin
  split
  · exact h
  · have : ∀ (l : List String) (t : State), o ∈ t.sent → o ∈ (l.foldl (fun s n => emit s (.pin n (!on))) t).sent := by
      intro l
      induction l with
      | nil => exact fun t h => h
      | cons n l ih => exact fun t h => ih _ (List.mem_append_left _ h)
    exact this _ _ h

/-- What a meaning has sent stays sent. -/
theorem mem_finish_sent (s t : State) (o : Sent) (h : o ∈ t.sent) : o ∈ (finish s t).sent := by
  simp only [finish, pinsFollow]
  split
  · exact h
  · exact mem_drivePin_sent _ _ _ _ _ (mem_drivePin_sent _ _ _ _ _ h)

/-! ### When a meaning acts -/

@[simp] theorem act_next (s t : State) : act s (.next t) = .next (finish s t) := rfl

theorem whenLive_next {s : State} (h : live s = true) (t : State) : whenLive s (.next t) = .next (finish s t) := by
  simp [whenLive, h]

theorem whenClocked_next {s : State} (h : clocked s = true) (t : State) :
    whenClocked s (.next t) = .next (finish s t) := by simp [whenClocked, h]

theorem whenPowered_next {s : State} (h : powered s = true) (t : State) :
    whenPowered s (.next t) = .next (finish s t) := by simp [whenPowered, h]

theorem whenLive_act {s : State} (h : live s = true) (r : Res) : whenLive s r = act s r := by simp [whenLive, h]
theorem whenClocked_act {s : State} (h : clocked s = true) (r : Res) : whenClocked s r = act s r := by
  simp [whenClocked, h]
theorem whenPowered_act {s : State} (h : powered s = true) (r : Res) : whenPowered s r = act s r := by
  simp [whenPowered, h]

/-- A meaning that acts only while every domain runs leaves the state alone otherwise. -/
theorem whenLive_off {s : State} (h : live s = false) (r : Res) : whenLive s r = .next s := by simp [whenLive, h]
theorem whenClocked_off {s : State} (h : clocked s = false) (r : Res) : whenClocked s r = .next s := by
  simp [whenClocked, h]
theorem whenPowered_off {s : State} (h : powered s = false) (r : Res) : whenPowered s r = .next s := by
  simp [whenPowered, h]

/-- While every domain runs, the control die's clocks run; while those run, AON runs. -/
theorem clocked_of_live {s : State} (h : live s = true) : clocked s = true := by
  simp only [live, Bool.and_eq_true, beq_iff_eq] at h
  simp only [clocked, Bool.and_eq_true, h.1, h.2]
  decide

end Sys2Proof.Laws
end

