-- ==== Sys2Proof/Laws/Commands.lean ====
section
/-!
SUPPORT. Laws of command carriage: what a command of a management core and a held answer come to.
-/

namespace Sys2Proof.Laws

open Sys2Proof Sys2Proof.Machine

theorem guarded_core {h : CmdHdr} (hc : isCore h.requester = true) (s : State) (grp : Option Nat)
    (f : State → CmdOut) : guarded s h grp f = holdAnswer (f s).st h none (f s).status (f s).payload := by
  simp [guarded, hc]

theorem openCmd_core {h : CmdHdr} (hc : isCore h.requester = true) (s : State) (f : State → CmdOut) :
    openCmd s h f = holdAnswer (f s).st h none (f s).status (f s).payload := by
  simp [openCmd, dmaFails, hc]

/-- A held answer is kept for its mailbox. -/
theorem holdAnswer_due {h : CmdHdr} (hm : 32 ≤ h.mbx ∧ h.mbx < 64) (s : State) (k : Option (List Byte)) (c : Status)
    (p : List Byte) :
    mget (holdAnswer s h k c p).host.responseDue h.mbx = some ⟨slice h.body 0 32, k, c, p⟩ := by
  simp [holdAnswer, hm]

@[simp] theorem rd_holdAnswer (s : State) (h : CmdHdr) (k : Option (List Byte)) (c : Status) (p : List Byte) (g : Fld) :
    rd (holdAnswer s h k c p) g = rd s g := by
  unfold holdAnswer; split <;> rfl

@[simp] theorem rdStat_holdAnswer (s : State) (h : CmdHdr) (k : Option (List Byte)) (c : Status) (p : List Byte)
    (g : Fld) : rdStat (holdAnswer s h k c p) g = rdStat s g := by
  unfold holdAnswer; split <;> rfl

@[simp] theorem mode_holdAnswer (s : State) (h : CmdHdr) (k : Option (List Byte)) (c : Status) (p : List Byte) :
    mode (holdAnswer s h k c p) = mode s := by simp [mode]

@[simp] theorem holdAnswer_stats (s : State) (h : CmdHdr) (k : Option (List Byte)) (c : Status) (p : List Byte) :
    (holdAnswer s h k c p).stats = s.stats := by unfold holdAnswer; split <;> rfl
@[simp] theorem holdAnswer_flashRegs (s : State) (h : CmdHdr) (k : Option (List Byte)) (c : Status) (p : List Byte) :
    (holdAnswer s h k c p).flashRegs = s.flashRegs := by unfold holdAnswer; split <;> rfl
@[simp] theorem holdAnswer_saf (s : State) (h : CmdHdr) (k : Option (List Byte)) (c : Status) (p : List Byte) :
    (holdAnswer s h k c p).saf = s.saf := by unfold holdAnswer; split <;> rfl
@[simp] theorem holdAnswer_ctr (s : State) (h : CmdHdr) (k : Option (List Byte)) (c : Status) (p : List Byte) :
    (holdAnswer s h k c p).ctr = s.ctr := by unfold holdAnswer; split <;> rfl
@[simp] theorem holdAnswer_cel (s : State) (h : CmdHdr) (k : Option (List Byte)) (c : Status) (p : List Byte) :
    (holdAnswer s h k c p).cel = s.cel := by unfold holdAnswer; split <;> rfl
@[simp] theorem holdAnswer_tim (s : State) (h : CmdHdr) (k : Option (List Byte)) (c : Status) (p : List Byte) :
    (holdAnswer s h k c p).tim = s.tim := by unfold holdAnswer; split <;> rfl
@[simp] theorem holdAnswer_fuse (s : State) (h : CmdHdr) (k : Option (List Byte)) (c : Status) (p : List Byte) :
    (holdAnswer s h k c p).fuse = s.fuse := by unfold holdAnswer; split <;> rfl
@[simp] theorem holdAnswer_img (s : State) (h : CmdHdr) (k : Option (List Byte)) (c : Status) (p : List Byte) :
    (holdAnswer s h k c p).img = s.img := by unfold holdAnswer; split <;> rfl
@[simp] theorem holdAnswer_mod (s : State) (h : CmdHdr) (k : Option (List Byte)) (c : Status) (p : List Byte) :
    (holdAnswer s h k c p).mod = s.mod := by unfold holdAnswer; split <;> rfl
@[simp] theorem holdAnswer_pipe (s : State) (h : CmdHdr) (k : Option (List Byte)) (c : Status) (p : List Byte) :
    (holdAnswer s h k c p).pipe = s.pipe := by unfold holdAnswer; split <;> rfl
@[simp] theorem holdAnswer_keys (s : State) (h : CmdHdr) (k : Option (List Byte)) (c : Status) (p : List Byte) :
    (holdAnswer s h k c p).keys = s.keys := by unfold holdAnswer; split <;> rfl
@[simp] theorem holdAnswer_take (s : State) (h : CmdHdr) (k : Option (List Byte)) (c : Status) (p : List Byte) :
    (holdAnswer s h k c p).take = s.take := by unfold holdAnswer; split <;> rfl
@[simp] theorem holdAnswer_tab (s : State) (h : CmdHdr) (k : Option (List Byte)) (c : Status) (p : List Byte) :
    (holdAnswer s h k c p).tab = s.tab := by unfold holdAnswer; split <;> rfl
@[simp] theorem holdAnswer_hbm (s : State) (h : CmdHdr) (k : Option (List Byte)) (c : Status) (p : List Byte) :
    (holdAnswer s h k c p).hbm = s.hbm := by unfold holdAnswer; split <;> rfl
@[simp] theorem holdAnswer_flo (s : State) (h : CmdHdr) (k : Option (List Byte)) (c : Status) (p : List Byte) :
    (holdAnswer s h k c p).flo = s.flo := by unfold holdAnswer; split <;> rfl
@[simp] theorem holdAnswer_eng (s : State) (h : CmdHdr) (k : Option (List Byte)) (c : Status) (p : List Byte) :
    (holdAnswer s h k c p).eng = s.eng := by unfold holdAnswer; split <;> rfl
@[simp] theorem holdAnswer_clu (s : State) (h : CmdHdr) (k : Option (List Byte)) (c : Status) (p : List Byte) :
    (holdAnswer s h k c p).clu = s.clu := by unfold holdAnswer; split <;> rfl
@[simp] theorem holdAnswer_sent (s : State) (h : CmdHdr) (k : Option (List Byte)) (c : Status) (p : List Byte) :
    (holdAnswer s h k c p).sent = s.sent := by unfold holdAnswer; split <;> rfl
@[simp] theorem holdAnswer_fresh (s : State) (h : CmdHdr) (k : Option (List Byte)) (c : Status) (p : List Byte) :
    (holdAnswer s h k c p).fresh = s.fresh := by unfold holdAnswer; split <;> rfl
@[simp] theorem holdAnswer_pending (s : State) (h : CmdHdr) (k : Option (List Byte)) (c : Status) (p : List Byte) :
    (holdAnswer s h k c p).pending = s.pending := by unfold holdAnswer; split <;> rfl

theorem answers_finish {s t : State} {h : CmdHdr} {c : Status} {p : List Byte} (ha : Answers h c p t) :
    Answers h c p (finish s t) := by
  unfold Answers at *; rw [finish_host]; exact ha

theorem answers_hold {h : CmdHdr} (hb : ByCore h) (t : State) (c : Status) (p : List Byte) :
    Answers h c p (holdAnswer t h none c p) := holdAnswer_due hb.2 t none c p

/-- A change of mode that stops no dispatcher settles nothing. -/
theorem settle_next {s t : State} (h : dispMode s = 1 → dispMode t ≠ 2) : settle s (.next t) = .next t := by
  unfold settle
  simp only []
  rw [if_neg]
  rintro ⟨a, b⟩
  exact h a b

theorem dispMode_congr {s t : State} (h : rd s R.modStatMode = rd t R.modStatMode) : dispMode s = dispMode t := by
  unfold dispMode mode; rw [h]

/-- A meaning that leaves MOD_STAT.MODE alone settles nothing. -/
theorem settle_same {s t : State} (h : rd t R.modStatMode = rd s R.modStatMode) : settle s (.next t) = .next t :=
  settle_next (fun a => by rw [dispMode_congr h, a]; decide)

theorem modeIn_of_mode {s : State} {m : Mode} (h : mode s = m) (l : List Mode) : modeIn s l = l.contains m := by
  simp [modeIn, h]

theorem rest_finish {s t : State} (h : t.pending = s.pending) : rest (finish s t) = rest t := by
  have e := congrArg (fun x : State => { x with pending := s.pending }) (rest_pinsFollow t)
  have : ({ rest t with pending := s.pending } : State) = rest t := by rw [← h]; rfl
  rw [← this]
  exact e

end Sys2Proof.Laws
end

