-- ==== Sys2Proof/Laws/Memory.lean ====
section
/-!
SUPPORT. Laws of byte memories: every memory operation keeps the canonical form, a read after a write gives the bytes
written, and a write leaves every other byte alone.
-/

namespace Sys2Proof.Laws

open Sys2Proof Sys2Proof.Machine

theorem rises_mono (m : Mem) (a b : Nat) (h : a ≤ b) (hm : Memory.risesFrom m b = true) :
    Memory.risesFrom m a = true := by
  cases m with
  | nil => rfl
  | cons e m =>
    simp only [Memory.risesFrom, Bool.and_eq_true, decide_eq_true_eq] at *
    exact ⟨⟨by omega, hm.1.2⟩, hm.2⟩

theorem rises_filter (m : Mem) (lo : Nat) (p : Nat × Byte → Bool) (h : Memory.risesFrom m lo = true) :
    Memory.risesFrom (m.filter p) lo = true := by
  induction m generalizing lo with
  | nil => rfl
  | cons e m ih =>
    simp only [Memory.risesFrom, Bool.and_eq_true, decide_eq_true_eq] at h
    rw [List.filter_cons]
    split
    · simp only [Memory.risesFrom, Bool.and_eq_true, decide_eq_true_eq]
      exact ⟨h.1, ih _ h.2⟩
    · exact rises_mono _ _ _ (by omega) (ih _ h.2)

theorem rises_mins (m : Mem) (lo a : Nat) (b : Byte) (hb : b ≠ 0) (hlo : lo ≤ a) (hn : mget m a = none)
    (h : Memory.risesFrom m lo = true) : Memory.risesFrom (mins m a b) lo = true := by
  induction m generalizing lo with
  | nil => simpa [mins, Memory.risesFrom, hlo] using hb
  | cons e m ih =>
    simp only [Memory.risesFrom, Bool.and_eq_true, decide_eq_true_eq] at h
    obtain ⟨⟨h1, h2⟩, h3⟩ := h
    have hne : e.1 ≠ a := fun he => by rw [mget, if_pos he] at hn; cases hn
    rw [mget, if_neg hne] at hn
    rw [mins]
    split
    · simp only [Memory.risesFrom, Bool.and_eq_true, decide_eq_true_eq]
      exact ⟨⟨hlo, by simpa using hb⟩, ⟨by omega, h2⟩, h3⟩
    · simp only [Memory.risesFrom, Bool.and_eq_true, decide_eq_true_eq]
      exact ⟨⟨h1, h2⟩, ih _ (by omega) hn h3⟩

/-- Dropping listed bytes keeps the canonical form. -/
theorem wf_filter (m : Mem) (p : Nat × Byte → Bool) (h : Memory.wf m = true) : Memory.wf (m.filter p) = true :=
  rises_filter m 0 p h

/-- Writing one byte keeps the canonical form. -/
theorem wf_memPut (m : Mem) (a : Nat) (b : Byte) (h : Memory.wf m = true) : Memory.wf (memPut m a b) = true := by
  unfold memPut
  split
  · exact wf_filter m _ h
  · rename_i hb
    exact rises_mins _ 0 a b hb (Nat.zero_le a) (mget_mdel_self m a) (wf_filter m _ h)

/-- Writing bytes keeps the canonical form. -/
theorem wf_memWrite (m : Mem) (a : Nat) (bs : List Byte) (h : Memory.wf m = true) :
    Memory.wf (memWrite m a bs) = true := by
  induction bs generalizing m a with
  | nil => exact h
  | cons b bs ih => exact ih _ _ (wf_memPut m a b h)

theorem wf_nil : Memory.wf [] = true := rfl

theorem memGet_memPut (m : Mem) (a c : Nat) (b : Byte) : memGet (memPut m a b) c = if a = c then b else memGet m c := by
  unfold memGet memPut
  split
  · rename_i hb
    rw [mget_mdel]
    split <;> simp [hb]
  · rw [mget_mset]
    split <;> simp

/-- A write of bytes leaves every byte outside them alone. -/
theorem memGet_memWrite_outside (m : Mem) (a c : Nat) (bs : List Byte) (h : c < a ∨ a + bs.length ≤ c) :
    memGet (memWrite m a bs) c = memGet m c := by
  induction bs generalizing m a with
  | nil => rfl
  | cons b bs ih =>
    simp only [List.length_cons] at h
    rw [memWrite, ih _ _ (by omega), memGet_memPut, if_neg (by omega)]

/-- A byte read after a write is the byte written. -/
theorem memGet_memWrite (m : Mem) (a i : Nat) (bs : List Byte) (h : i < bs.length) :
    memGet (memWrite m a bs) (a + i) = bs[i] := by
  induction bs generalizing m a i with
  | nil => simp at h
  | cons b bs ih =>
    rw [memWrite]
    cases i with
    | zero => rw [memGet_memWrite_outside _ _ _ _ (by omega), memGet_memPut]; simp
    | succ i =>
      have := ih (memPut m a b) (a + 1) i (by simpa using h)
      rw [show a + 1 + i = a + (i + 1) by omega] at this
      simpa using this

/-- Two canonical memories that read the same everywhere are the same data. -/
theorem rises_ext (m n : Mem) (lo : Nat) (hm : Memory.risesFrom m lo = true) (hn : Memory.risesFrom n lo = true)
    (h : ∀ a, memGet m a = memGet n a) : m = n := by
  have low : ∀ (m : Mem) (lo a : Nat), Memory.risesFrom m lo = true → a < lo → mget m a = none := by
    intro m
    induction m with
    | nil => intros; rfl
    | cons e m ih =>
      intro lo a hm ha
      simp only [Memory.risesFrom, Bool.and_eq_true, decide_eq_true_eq] at hm
      rw [mget, if_neg (by omega)]
      exact ih _ _ hm.2 (by omega)
  induction m generalizing n lo with
  | nil =>
    cases n with
    | nil => rfl
    | cons f n =>
      simp only [Memory.risesFrom, Bool.and_eq_true, decide_eq_true_eq, bne_iff_ne] at hn
      have := h f.1
      simp [memGet, mget] at this
      exact absurd this.symm hn.1.2
  | cons e m ih =>
    simp only [Memory.risesFrom, Bool.and_eq_true, decide_eq_true_eq, bne_iff_ne] at hm
    cases n with
    | nil =>
      have := h e.1
      simp [memGet, mget] at this
      exact absurd this hm.1.2
    | cons f n =>
      simp only [Memory.risesFrom, Bool.and_eq_true, decide_eq_true_eq, bne_iff_ne] at hn
      have he : e.1 = f.1 := by
        by_contra hne
        rcases Nat.lt_or_gt_of_ne hne with hl | hl
        · have := h e.1
          simp only [memGet, mget, if_neg (Ne.symm hne), low n _ e.1 hn.2 (by omega)] at this
          simp at this
          exact hm.1.2 this
        · have := h f.1
          simp only [memGet, mget, if_neg hne, low m _ f.1 hm.2 (by omega)] at this
          simp at this
          exact hn.1.2 this.symm
      have hb : e.2 = f.2 := by
        have := h e.1
        simpa [memGet, mget, he] using this
      have hef : e = f := Prod.ext he hb
      subst hef
      congr 1
      refine ih n (e.1 + 1) hm.2 hn.2 (fun a => ?_)
      by_cases ha : e.1 = a
      · subst ha
        simp [memGet, low m _ e.1 hm.2 (by omega), low n _ e.1 hn.2 (by omega)]
      · have := h a
        simpa [memGet, mget, if_neg ha] using this

/-- Equal memories are equal data. -/
theorem mem_ext (m n : Mem) (hm : Memory.wf m = true) (hn : Memory.wf n = true) (h : ∀ a, memGet m a = memGet n a) :
    m = n := rises_ext m n 0 hm hn h

/-! ### The HBM (R304, R306) -/

theorem foldl_keeps {α β γ : Type} (f : α → β → α) (g : α → γ) (h : ∀ a b, g (f a b) = g a) (l : List β) (a : α) :
    g (l.foldl f a) = g a := by
  induction l generalizing a with
  | nil => rfl
  | cons b l ih => rw [List.foldl_cons, ih, h]

/-- A log record changes no byte of the HBM. -/
@[simp] theorem logErr_hbm (s : State) (st share k g syn : Nat) : (logErr s st share k g syn).hbm = s.hbm := by
  unfold logErr
  dsimp only
  rw [wr_hbm, foldl_keeps (fun (s : State) j => wr s _ _) (fun s => s.hbm) (fun _ _ => by simp)]
  split <;> simp

/-- Storing bytes writes them into the stack's memory and nothing else of the HBM. -/
@[simp] theorem storeBytes_mem (s : State) (st a : Nat) (bs : List Byte) :
    (storeBytes s st a bs).hbm.mem = memWrite s.hbm.mem (hkey st a) bs := by
  unfold storeBytes
  dsimp only
  split <;> rfl

@[simp] theorem queueWrite_mem (s : State) (st g : Nat) : (queueWrite s st g).hbm.mem = s.hbm.mem := rfl
@[simp] theorem setMark_mem (s : State) (st g : Nat) : (setMark s st g).hbm.mem = s.hbm.mem := rfl
@[simp] theorem clearMark_mem (s : State) (st g : Nat) : (clearMark s st g).hbm.mem = s.hbm.mem := rfl
@[simp] theorem touchRow_mem (s : State) (p : HbmPort) (st a n : Nat) : (touchRow s p st a n).hbm.mem = s.hbm.mem := rfl
@[simp] theorem drainRange_mem (s : State) (st a n : Nat) : (drainRange s st a n).hbm.mem = s.hbm.mem := rfl
@[simp] theorem syncRoles_hbm (s : State) (st : Nat) : (syncRoles s st).hbm = s.hbm := by simp [syncRoles]
@[simp] theorem setRole_hbm (s : State) (st p r l : Nat) : (setRole s st p r l).hbm = s.hbm := by simp [setRole]
@[simp] theorem holdRole_hbm (s : State) (st p r l : Nat) : (holdRole s st p r l).hbm = s.hbm := by simp [holdRole]
@[simp] theorem memJournal_hbm (s : State) (st pc v k a y : Nat) : (memJournal s st pc v k a y).hbm = s.hbm := by
  simp [memJournal]

/-- A fault of class R changes nothing of the HBM. -/
theorem raiseFault_hbm (s : State) (c u d : Nat) (h : classS c = false) : (raiseFault s c u d).hbm = s.hbm := by
  unfold raiseFault
  simp only [h, Bool.false_and, Bool.false_eq_true, if_false]
  split <;> (try split) <;> (try split) <;> simp

@[simp] theorem startMigration_mem (s : State) (st p d : Nat) : (startMigration s st p d).hbm.mem = s.hbm.mem := by
  simp [startMigration]

@[simp] theorem retireNow_mem (s : State) (st p : Nat) : (retireNow s st p).hbm.mem = s.hbm.mem := by
  unfold retireNow tellRetired
  dsimp only
  split
  · simp [takeLogical]
  · unfold standFault
    dsimp only
    rw [syncRoles_hbm, notice_hbm, memJournal_hbm, raiseFault_hbm _ _ _ _ (by decide)]
    split <;> simp

@[simp] theorem autoSpare_mem (s : State) (st p : Nat) : (autoSpare s st p).hbm.mem = s.hbm.mem := by
  unfold autoSpare
  split
  · rfl
  · split
    · rfl
    · split <;> simp

@[simp] theorem countMismatch_mem (s : State) (st p : Nat) : (countMismatch s st p).hbm.mem = s.hbm.mem := by
  unfold countMismatch
  dsimp only
  split <;> simp

@[simp] theorem uncorrectable_mem (s : State) (st sh g y : Nat) : (uncorrectable s st sh g y).hbm.mem = s.hbm.mem := by
  unfold uncorrectable
  dsimp only
  rw [raiseFault_hbm _ _ _ _ (by decide)]
  simp

/-- Reading a granule changes no byte of the HBM. -/
@[simp] theorem readGranule_mem (s : State) (st sh g : Nat) (e : Nat × Nat) :
    (readGranule s st sh g e).st.hbm.mem = s.hbm.mem := by
  unfold readGranule
  dsimp only
  split_ifs <;> simp

/-- The syndrome shows the poison mark and the read's own disturbance, whatever the granule holds (R303, R306). -/
theorem syndrome_eq (s : State) (st g d : Nat) :
    syndrome s st g d = (if marked s st g then 0xFFFFFFFF else 0) ^^^ d % 2 ^ 32 := by
  unfold syndrome storedCrc
  generalize deviceCrc (hbmPeek s st (64 * g) 64) (64 * g) = c
  rw [Nat.xor_comm c, Nat.xor_assoc, ← Nat.xor_assoc c c, Nat.xor_self, Nat.zero_xor]

/-- A granule that carries no mark, in a channel that is served, reads clean where nothing disturbs it (R304). -/
theorem readGranule_clean (s : State) (st sh g : Nat) (e : Nat × Nat) (hm : marked s st g = false)
    (hc : chanDead s st (logCh (64 * g)) = false) (he : e.1 % 2 ^ 32 = 0) :
    readGranule s st sh g e = ⟨false, 0, s⟩ := by
  unfold readGranule
  have h1 : e.1 % 4294967296 = 0 := he
  simp [hc, syndrome_eq, hm, h1]

/-- Where no granule of a range is marked or dead, undisturbed reads of them leave the state as it is. -/
theorem readGranules_clean (s : State) (st sh g0 n : Nat)
    (h : ∀ i < n, marked s st (g0 + i) = false ∧ chanDead s st (logCh (64 * (g0 + i))) = false) :
    readGranules st sh g0 [] s n = (false, s) := by
  unfold readGranules
  have hr : ∀ i ∈ List.range n, i < n := fun i hi => List.mem_range.1 hi
  generalize List.range n = l at hr
  induction l with
  | nil => rfl
  | cons i l ih =>
    rw [List.foldl_cons]
    have hi := h i (hr i (by simp))
    rw [readGranule_clean s st sh (g0 + i) _ hi.1 hi.2 (by rfl)]
    exact ih (fun j hj => hr j (by simp [hj]))

/-- A write within one granule writes its bytes, or nothing where the channel is dead. -/
theorem hbmPut1_mem (s : State) (share st a : Nat) (bs : List Byte) (err : Nat × Nat) :
    (hbmPut1 s share st a bs err).hbm.mem =
      if chanDead s st (logCh a) then s.hbm.mem else memWrite s.hbm.mem (hkey st a) bs := by
  unfold hbmPut1
  split
  · rfl
  · dsimp only
    split
    · simp
    · split
      · rw [logErr_hbm]
        simp
      · simp

/-- A write within one granule keeps the canonical form of the HBM's contents. -/
theorem wf_hbmPut1 (s : State) (share st a : Nat) (bs : List Byte) (err : Nat × Nat) (h : Memory.wf s.hbm.mem = true) :
    Memory.wf (hbmPut1 s share st a bs err).hbm.mem = true := by
  rw [hbmPut1_mem]
  split
  · exact h
  · exact wf_memWrite s.hbm.mem (hkey st a) bs h

/-- A write of bytes keeps the canonical form of the HBM's contents. -/
theorem wf_hbmWrite (s : State) (p : HbmPort) (st a : Nat) (bs : List Byte) (errs : HbmErrs)
    (h : Memory.wf s.hbm.mem = true) : Memory.wf (hbmWrite s p st a bs errs).hbm.mem = true := by
  unfold hbmWrite
  generalize granules (bs.length + 1) a bs = l
  have hb : Memory.wf (touchRow (bump s (R.hbmCntCount st 1)) p st a (cdiv (a % 64 + bs.length) 64)).hbm.mem = true := by
    simpa using h
  generalize touchRow (bump s (R.hbmCntCount st 1)) p st a (cdiv (a % 64 + bs.length) 64) = u at hb
  induction l generalizing u with
  | nil => exact hb
  | cons x l ih => exact ih _ (wf_hbmPut1 u p.share st x.1 x.2 _ hb)

/-- A write changes no byte of the HBM outside the bytes written. -/
theorem hbmPut1_outside (s : State) (share st a c : Nat) (bs : List Byte) (err : Nat × Nat)
    (h : c < hkey st a ∨ hkey st a + bs.length ≤ c) :
    memGet (hbmPut1 s share st a bs err).hbm.mem c = memGet s.hbm.mem c := by
  rw [hbmPut1_mem]
  split
  · rfl
  · exact memGet_memWrite_outside s.hbm.mem (hkey st a) c bs h

/-- An undisturbed header passes its HCRC check (R241). -/
theorem hcrcGood_clean (s : State) (p : Nat) : hcrcGood s p [] = true := by
  unfold hcrcGood
  cases headerBus s p with
  | none => rfl
  | some bus => simp [disturb, leNat]

end Sys2Proof.Laws
end

