-- ==== Sys2Proof/Laws/RegAccess.lean ====
section
/-!
SUPPORT. Laws of register access: what writing a register through its field map sets and leaves alone.
-/

namespace Sys2Proof.Laws

open Sys2Proof Sys2Proof.Machine

/-- In every row of the register index the fields lie at distinct places of the 64 bits. -/
def rowsApart (l : List RegDesc) : Bool :=
  l.all (fun d => decide (d.fields.map (·.lo)).Nodup && d.fields.all (fun f => decide (f.lo < 64)))

theorem regTable_apart : rowsApart regTable = true := by decide +kernel

theorem fields_apart {a : Nat} {d : RegDesc} {home : Nat} (h : regAt a = some (d, home)) :
    (d.fields.map (·.lo)).Nodup ∧ ∀ f ∈ d.fields, f.lo < 64 := by
  unfold regAt at h
  simp only [Option.map_eq_some_iff, Prod.mk.injEq] at h
  obtain ⟨x, hx, rfl, _⟩ := h
  have hm := List.mem_of_find?_eq_some hx
  have ha := regTable_apart
  unfold rowsApart at ha
  rw [List.all_eq_true] at ha
  have := ha x hm
  simpa using this

@[simp] theorem rest_writeField (home : Nat) (s : State) (f : FieldDesc) (v : Nat) :
    rest (writeField home s f v) = rest s := by
  unfold writeField
  simp only []
  split
  · rfl
  · split
    · split <;> simp
    all_goals simp

@[simp] theorem rest_writeReg (s : State) (d : RegDesc) (home v : Nat) : rest (writeReg s d home v) = rest s :=
  rest_foldl _ (fun _ _ => rest_writeField _ _ _ _) _ _

theorem rd_writeField_ne (home : Nat) (s : State) (f : FieldDesc) (v : Nat) (g : Fld)
    (h : fkey (fieldOf home f) ≠ fkey g) : rd (writeField home s f v) g = rd s g := by
  unfold writeField
  simp only []
  split
  · rfl
  · split
    · split
      · exact rd_wr_ne _ _ _ _ h
      · rfl
    all_goals first | exact rd_wr_ne _ _ _ _ h | rfl

/-- Fields of one register have keys that differ where their places do. -/
theorem fieldOf_key (home : Nat) (f g : FieldDesc) : fkey (fieldOf home f) = fkey (fieldOf home g) ↔ f.lo = g.lo := by
  simp only [fkey, fieldOf]; omega

theorem fieldOf_other {home : Nat} {f : FieldDesc} {g : Fld} (hf : f.lo < 64) (hg : g.lo < 64) (h : g.addr ≠ home) :
    fkey (fieldOf home f) ≠ fkey g := by
  simp only [fkey, fieldOf]; omega

/-- A fold over fields that writes each in its own place: field `f` shows what its own write gave. -/
theorem rd_fold_fields (home : Nat) (w : State → FieldDesc → State)
    (hw : ∀ s f (g : Fld), fkey (fieldOf home f) ≠ fkey g → rd (w s f) g = rd s g) (l : List FieldDesc)
    (hd : (l.map (·.lo)).Nodup) (f : FieldDesc) (hf : f ∈ l) (s : State) :
    ∃ u : State, rd u (fieldOf home f) = rd s (fieldOf home f) ∧
      rd (l.foldl w s) (fieldOf home f) = rd (w u f) (fieldOf home f) := by
  induction l generalizing s with
  | nil => cases hf
  | cons e l ih =>
    simp only [List.map_cons, List.nodup_cons] at hd
    have hk : ∀ (l : List FieldDesc) (s : State), (∀ x ∈ l, x.lo ≠ f.lo) →
        rd (l.foldl w s) (fieldOf home f) = rd s (fieldOf home f) := by
      intro l
      induction l with
      | nil => intro s _; rfl
      | cons x l ih =>
        intro s hx
        rw [List.foldl_cons, ih _ (fun y hy => hx y (List.mem_cons_of_mem _ hy))]
        exact hw _ _ _ (fun e => hx x (List.mem_cons_self ..) ((fieldOf_key _ _ _).mp e))
    rcases List.mem_cons.mp hf with rfl | hf
    · refine ⟨s, rfl, ?_⟩
      rw [List.foldl_cons]
      exact hk _ _ (fun x hx e => hd.1 (by rw [← e]; exact List.mem_map_of_mem hx))
    · obtain ⟨u, hu, h⟩ := ih hd.2 hf (w s e)
      refine ⟨u, ?_, h⟩
      rw [hu]
      refine hw _ _ _ (fun k => ?_)
      have := (fieldOf_key home e f).mp k
      exact hd.1 (by rw [this]; exact List.mem_map_of_mem hf)

theorem rd_fold_other (home : Nat) (w : State → FieldDesc → State) (g : Fld)
    (hw : ∀ s f, fkey (fieldOf home f) ≠ fkey g → rd (w s f) g = rd s g) (l : List FieldDesc)
    (hl : ∀ f ∈ l, f.lo < 64) (hg : g.lo < 64) (h : g.addr ≠ home) (s : State) : rd (l.foldl w s) g = rd s g := by
  induction l generalizing s with
  | nil => rfl
  | cons e l ih =>
    rw [List.foldl_cons, ih (fun f hf => hl f (List.mem_cons_of_mem _ hf))]
    exact hw _ _ (fieldOf_other (hl e (List.mem_cons_self ..)) hg h)

/-- A field takes at most its width. -/
theorem bits_lt (v lo w : Nat) : bits v lo w < 2 ^ w := Nat.mod_lt _ (Nat.two_pow_pos w)

theorem rd_keepInFlash (s : State) (d : RegDesc) (home : Nat) (g : Fld) : rd (keepInFlash s d home) g = rd s g := by
  unfold keepInFlash
  exact rd_foldl _ g (fun t f => by split <;> rfl) _ _

end Sys2Proof.Laws
end

