-- ==== Sys2Proof/Laws/Time.lean ====
section
/-!
SUPPORT. Laws of the time base: what one TIM cycle, an interrupt bit and a time mark come to.
-/

namespace Sys2Proof.Laws

open Sys2Proof Sys2Proof.Machine

@[simp] theorem rest_timInt (s : State) (f : Fld) : rest (timInt s f) = rest s := by
  unfold timInt; simp only []; split <;> simp

@[simp] theorem timInt_tim (s : State) (f : Fld) : (timInt s f).tim = s.tim := congrArg (·.tim) (rest_timInt s f)
@[simp] theorem timInt_stats (s : State) (f : Fld) : (timInt s f).stats = s.stats :=
  congrArg (·.stats) (rest_timInt s f)
@[simp] theorem timInt_pending (s : State) (f : Fld) : (timInt s f).pending = s.pending :=
  congrArg (·.pending) (rest_timInt s f)

theorem rd_timInt_ne (s : State) (f g : Fld) (h : fkey f ≠ fkey g) : rd (timInt s f) g = rd s g := by
  unfold timInt; simp only []; split <;> simp [rd_wr_ne _ _ _ _ h]

theorem rd_timInt_self (s : State) (f : Fld) (h : f.wid = 1) : rd (timInt s f) f = 1 := by
  unfold timInt; simp only []; split <;> simp [rd_wr_self, h]

/-- The sum of R263: the counter and one increment. -/
theorem rd_timCycle_ne (s : State) (g : Fld) (h1 : fkey R.timNowNs ≠ fkey g) (h2 : fkey R.timNowFrac ≠ fkey g)
    (h3 : fkey R.timUptimeNs ≠ fkey g) (h4 : fkey R.timNowxPending ≠ fkey g) (h5 : fkey R.timNowxRebase ≠ fkey g)
    (h6 : fkey R.timIntWrap ≠ fkey g) : rd (timCycle s) g = rd s g := by
  unfold timCycle pendingUp
  simp only []
  split
  · split
    all_goals
      rw [rd_timInt_ne _ _ _ h6, rd_wr_ne _ _ _ _ (by assumption)]
      simp only [rd_mk, rdR_regs, rd_wr_ne _ _ _ _ h3, rd_wr_ne _ _ _ _ h1, rd_wr_ne _ _ _ _ h2]
  · simp only [rd_mk, rdR_regs, rd_wr_ne _ _ _ _ h3, rd_wr_ne _ _ _ _ h1, rd_wr_ne _ _ _ _ h2]

@[simp] theorem rd_timeMark (s : State) (g : Fld) (h : quiet (fkey g) = true) : rd (timeMark s) g = rd s g :=
  rd_journal _ _ _ _ _ _ _ _ h

@[simp] theorem timeMark_stats (s : State) : (timeMark s).stats = s.stats := by simp [timeMark]
@[simp] theorem timeMark_tim (s : State) : (timeMark s).tim = s.tim := by simp [timeMark]

end Sys2Proof.Laws
end

