-- ==== Sys2Proof/WellFormed.lean ====
section
/-!
DEFINITION. Well-formed commands: operands lie in the ranges that the spec gives the numbers they stand for. A meaning
is total all the same: an operand out of its range names nothing, and the command has no effect (log 1).
-/

namespace Sys2Proof

open Machine

/-- A requester or master number has six bits (R42). -/
def wfMaster (r : Nat) : Bool := decide (r < 64)

/-- A quadrant, and the stack of the same number (R36, R37). -/
def wfQuad (q : Nat) : Bool := decide (q < 4)

/-- A port number has ten bits (R21–R23). -/
def wfPort (p : Nat) : Bool := decide (p < 1024)

/-- An address in BAR0, aligned to `n` bytes (R13, R462). -/
def wfAddr (n a : Nat) : Bool := decide (a < 2 ^ 28) && a % n == 0

/-- A 64-bit value. -/
def wfWord (v : Nat) : Bool := decide (v < 2 ^ 64)

/-- A command's header: one of the 32 command mailboxes, a requester, and at least the 32 bytes of R339. -/
def wfHdr (h : CmdHdr) : Bool :=
  decide (32 ≤ h.mbx) && decide (h.mbx < 64) && wfMaster h.requester && decide (32 ≤ h.body.length)

/-- A command whose operands lie in their ranges. -/
def WellFormed : Instr → Bool
  | .registerWrite requester addr value => wfMaster requester && wfAddr 8 addr && wfWord value
  | .halfAccess requester addr _ value => wfMaster requester && wfAddr 4 addr && wfWord value
  | .narrowAccess requester addr _ => wfMaster requester && wfAddr 4 addr
  | .unmappedAccess requester _ _ _ => wfMaster requester
  | .protectedWrite requester _ => wfMaster requester
  | .frameStart port _ _ _ => wfPort port
  | .cellWrite port _ => wfPort port
  | .frameEnd port _ _ => wfPort port
  | .inputStop port => wfPort port
  | .packetIngress _ _ _ => true
  | .bucketReadDone _ _ _ => true
  | .writebackDone _ _ => true
  | .schedulerSelect port _ => wfPort port
  | .headScan quad => wfQuad quad
  | .egressSend port _ _ _ _ => wfPort port
  | .chainRelease _ _ _ => true
  | .celFree requester quad _ => wfMaster requester && wfQuad quad
  | .portTreeSwitch port => wfPort port
  | .rxFrameWrite port _ _ _ => wfPort port
  | .txRingDoorbell _ _ => true
  | .txDescriptor _ _ _ => true
  | .eventPost _ quad _ _ => wfQuad quad
  | .eventRingHead _ => true
  | .tuRingDoorbell _ _ _ => true
  | .batchIncomplete _ => true
  | .handoverGo requester quad _ => wfMaster requester && wfQuad quad
  | .handoverPortSwitch port => wfPort port
  | .handoverEndMarker quad _ _ => wfQuad quad
  | .handoverRelieved quad => wfQuad quad
  | .relievedPipeTestDone quad _ => wfQuad quad
  | .rotationStep quad => wfQuad quad
  | .spareProgramLoadDone quad => wfQuad quad
  | .flitReplay _ _ _ => true
  | .powerGood _ _ _ => true
  | .pwrRstN _ _ _ => true
  | .warmRstN => true
  | .warmReset hdr => wfHdr hdr
  | .warmResetStart => true
  | .warmResetCommitDone => true
  | .fuseSense _ _ => true
  | .pllLock _ => true
  | .refclkAppear => true
  | .fwVerifyDone _ => true
  | .fwFailQspiRelease => true
  | .imageReadDone _ _ => true
  | .loadApplyDone _ => true
  | .deviceKeyDerive => true
  | .initTrainingDone stack _ _ => wfQuad stack
  | .recordSpaceClearDone quad _ => wfQuad quad
  | .holdupSample _ => true
  | .testComplete _ _ => true
  | .serveEntry => true
  | .perstN _ => true
  | .flr _ => true
  | .masterReset master => wfMaster master
  | .domainResetPipe requester quad _ => wfMaster requester && wfQuad quad
  | .domainResetGroup requester quad _ => wfMaster requester && wfQuad quad
  | .domainResetStack requester quad _ => wfMaster requester && wfQuad quad
  | .domainResetCore requester quad _ => wfMaster requester && wfQuad quad
  | .watchdogExpire _ => true
  | .portPowerDown requester port => wfMaster requester && wfPort port
  | .portPowerUp requester port => wfMaster requester && wfPort port
  | .portRetrain requester port => wfMaster requester && wfPort port
  | .portTrainDone port => wfPort port
  | .quadrantPark requester quad => wfMaster requester && wfQuad quad
  | .parkComplete quad => wfQuad quad
  | .parkDrainTimeout quad => wfQuad quad
  | .quadrantUnpark requester quad => wfMaster requester && wfQuad quad
  | .regionLive _ => true
  | .safeExit hdr => wfHdr hdr
  | .fwRestart requester => wfMaster requester
  | .fwCoreRestartDone => true
  | .imagePartial hdr _ => wfHdr hdr
  | .flashImage hdr _ _ => wfHdr hdr
  | .bootSet hdr _ _ => wfHdr hdr
  | .rollbackCommit hdr _ => wfHdr hdr
  | .tableBatch hdr _ => wfHdr hdr
  | .holeRestore quad => wfQuad quad
  | .cmsScrub quad _ _ _ => wfQuad quad
  | .takeCommit hdr _ _ => wfHdr hdr
  | .takeDiscard hdr => wfHdr hdr
  | .takeActivate => true
  | .takeDrainComplete => true
  | .drainLimitExpire => true
  | .takeSettleDone => true
  | .learnCommit _ => true
  | .moveDecide _ => true
  | .ageingVisit _ => true
  | .continuitySweep _ _ _ => true
  | .continuityCatchup _ quad _ _ _ _ _ => wfQuad quad
  | .replSet hdr _ _ => wfHdr hdr
  | .replRunFree => true
  | .setupLimitExpire _ => true
  | .flowCreate hdr _ => wfHdr hdr
  | .flowPin hdr _ => wfHdr hdr
  | .flowUnpin hdr _ => wfHdr hdr
  | .flowDelete hdr _ => wfHdr hdr
  | .flowCmdResume _ => true
  | .sweepTaskPost quad _ => wfQuad quad
  | .quarantineRepair quad _ _ => wfQuad quad
  | .portAllocate _ _ _ _ _ => true
  | .tentativePortExpire _ => true
  | .portRelease _ _ _ _ port => wfPort port
  | .subscriberVisit quad => wfQuad quad
  | .svcSet hdr _ _ _ _ _ _ => wfHdr hdr
  | .svcDelete hdr _ => wfHdr hdr
  | .backendSet hdr _ _ _ _ port _ _ _ => wfHdr hdr && wfPort port
  | .removalSweepStart _ => true
  | .removalSweepEnd _ => true
  | .poolSet hdr _ _ _ => wfHdr hdr
  | .poolClear hdr _ => wfHdr hdr
  | .admSet hdr _ _ _ => wfHdr hdr
  | .sampleReturn quad _ => wfQuad quad
  | .sampleSlotExpire quad _ => wfQuad quad
  | .exportFrameBuild quad => wfQuad quad
  | .templateSend quad => wfQuad quad
  | .taskAdmit quad => wfQuad quad
  | .dispatch quad _ _ => wfQuad quad
  | .microwordIssue quad _ _ _ => wfQuad quad
  | .memOpComplete quad _ _ _ _ => wfQuad quad
  | .fopRead quad _ _ _ _ => wfQuad quad
  | .fopPlace quad _ _ => wfQuad quad
  | .fopUpdate quad _ _ => wfQuad quad
  | .fopRemove quad _ _ => wfQuad quad
  | .fopPin quad _ _ => wfQuad quad
  | .fopUnpin quad _ _ => wfQuad quad
  | .waitEnd quad _ _ _ => wfQuad quad
  | .taskPost requester quad _ => wfMaster requester && wfQuad quad
  | .taskCancel requester quad _ _ => wfMaster requester && wfQuad quad
  | .cancelKill quad _ _ => wfQuad quad
  | .engInt requester quad _ _ _ => wfMaster requester && wfQuad quad
  | .flagWrite requester quad _ _ _ => wfMaster requester && wfQuad quad
  | .flagTick quad _ => wfQuad quad
  | .modeChangeKill => true
  | .groupDrain requester quad _ => wfMaster requester && wfQuad quad
  | .drainKill quad _ => wfQuad quad
  | .groupReturn requester quad _ => wfMaster requester && wfQuad quad
  | .groupAdopt requester quad _ _ => wfMaster requester && wfQuad quad
  | .groupRelease requester quad _ => wfMaster requester && wfQuad quad
  | .engGroup hdr quad _ _ _ => wfHdr hdr && wfQuad quad
  | .engineGroupTest quad _ _ _ => wfQuad quad
  | .nsWrap => true
  | .timIncrementWrite requester _ => wfMaster requester
  | .timEpochAck requester _ _ => wfMaster requester
  | .timAdjStep requester _ => wfMaster requester
  | .timAdjSet requester _ => wfMaster requester
  | .lockDeclare requester _ _ => wfMaster requester
  | .lossDeclare requester => wfMaster requester
  | .holdTimerExpire => true
  | .timeSet hdr _ _ => wfHdr hdr
  | .timeStep hdr _ => wfHdr hdr
  | .timeCfg hdr _ _ => wfHdr hdr
  | .gateListRun requester port _ _ => wfMaster requester && wfPort port
  | .gateEntryAdvance port => wfPort port
  | .listChangeTime port => wfPort port
  | .gateSet hdr port _ _ _ _ => wfHdr hdr && wfPort port
  | .rsvSet hdr _ port _ _ _ _ _ _ _ => wfHdr hdr && wfPort port
  | .rsvClear hdr _ => wfHdr hdr
  | .admissionWindowStart _ => true
  | .egressWindowEnd _ => true
  | .macTxtsRead requester port => wfMaster requester && wfPort port
  | .ppsOutEdge => true
  | .ppsIn => true
  | .ppsInRead requester => wfMaster requester
  | .synceSquelch _ _ => true
  | .hbmRequest stack _ _ _ _ _ _ _ _ => wfQuad stack
  | .refreshDue stack _ _ => wfQuad stack
  | .tempReading stack _ => wfQuad stack
  | .retrainPass stack _ => wfQuad stack
  | .retrainPassDone stack _ _ => wfQuad stack
  | .memRate hdr stack _ => wfHdr hdr && wfQuad stack
  | .rateChangeDone done => wfQuad done.stack
  | .pcRetire hdr stack _ _ => wfHdr hdr && wfQuad stack
  | .migrationBlockCopy stack _ => wfQuad stack
  | .mbxDataWrite master _ _ value => wfMaster master && wfWord value
  | .mbxDoorbell master _ _ _ => wfMaster master
  | .mbxTake master _ => wfMaster master
  | .lockAcquire requester _ => wfMaster requester
  | .lockRelease requester _ _ => wfMaster requester
  | .lckForce _ _ => true
  | .commandTake _ _ => true
  | .commandResponse _ _ => true
  | .sessionChallenge hdr => wfHdr hdr
  | .sessionOpen hdr _ => wfHdr hdr
  | .sessionClose hdr => wfHdr hdr
  | .deviceKeys hdr => wfHdr hdr
  | .sessionStatus hdr _ => wfHdr hdr
  | .regRead hdr addr _ => wfHdr hdr && wfAddr 8 addr
  | .tableRead hdr _ _ _ => wfHdr hdr
  | .journalRead hdr _ _ => wfHdr hdr
  | .regWrite hdr addr value mask => wfHdr hdr && wfAddr 8 addr && wfWord value && wfWord mask
  | .handover hdr quad _ => wfHdr hdr && wfQuad quad
  | .rotationSet hdr _ => wfHdr hdr
  | .holdupOverride hdr => wfHdr hdr
  | .freeze hdr => wfHdr hdr
  | .freezeN => true
  | .freezeTrigger => true
  | .freezeJournalCommitDone => true
  | .rushesReq _ _ _ _ _ _ _ _ => true
  | .hbmDump _ => true
  | .hbmDumpEnd => true
  | .keyLoad hdr _ _ _ _ _ => wfHdr hdr
  | .keyErase hdr _ _ => wfHdr hdr
  | .keyZeroize hdr => wfHdr hdr
  | .keyRewriteApply _ => true
  | .cipherRingDoorbell master _ _ _ => wfMaster master
  | .cipherJobStart _ _ _ _ => true
  | .cipherJobDone _ => true
  | .cipherGroupComplete _ => true
  | .sigRequest _ _ _ _ => true
  | .heartbeatSend => true
  | .heartbeat port _ => wfPort port
  | .peerLost _ => true
  | .deputyTakeover => true
  | .joinSend => true
  | .join port _ => wfPort port
  | .joinAck port _ => wfPort port
  | .time _ port _ => wfPort port
  | .svc port _ => wfPort port
  | .ring port _ => wfPort port
  | .resync port _ => wfPort port
  | .lease port _ => wfPort port
  | .leaseRenew => true
  | .leaseExpire => true
  | .leaseSync port _ => wfPort port
  | .prepare port _ => wfPort port
  | .vote port _ => wfPort port
  | .voteDeadline => true
  | .go port _ => wfPort port
  | .goRepeat => true
  | .goAck port _ => wfPort port
  | .abort port _ => wfPort port
  | .crewGoDeadline => true
  | .keyRoll port _ => wfPort port
  | .keySwitch => true
  | .steer port _ _ _ => wfPort port
  | .cluPeerSet hdr _ _ _ port _ => wfHdr hdr && wfPort port
  | .cluCommit hdr _ _ => wfHdr hdr
  | .cluKeyRoll hdr _ _ => wfHdr hdr
  | .cluLeaseSet hdr _ _ _ _ => wfHdr hdr
  | .cluDeputySet hdr _ => wfHdr hdr
  | .cluReclaim hdr => wfHdr hdr
  | .faultDetect _ _ _ _ => true
  | .faultAck requester _ => wfMaster requester
  | .faultClear _ _ => true
  | .clockMonitor _ _ => true
  | .voltageMonitor _ => true
  | .tempVote _ _ _ _ => true
  | .timeCrosscheck => true
  | .serdesLoopback _ _ _ => true
  | .hbmPhyLoopback stack _ => wfQuad stack
  | .pinReadback => true
  | .pipeTestAge quad _ => wfQuad quad
  | .pfwNAssert => true
  | .powerFailCommitDone => true
  | .pfwNDeassert => true
  | .journalPost _ _ _ _ _ _ _ _ => true
  | .journalCommit _ _ => true
  | .scanEnable requester => wfMaster requester
  | .ctrSelWrite _ _ _ _ => true
  | .ctrValWrite _ _ _ => true
  | .counterOverflow _ _ => true
  | .matchFire _ _ => true
  | .counterWindowAccess requester _ _ _ _ => wfMaster requester
  | .sampleRecord quad => wfQuad quad
  | .smpClear => true
  | .indirectWindowRead requester _ _ _ => wfMaster requester
  | .indirectWindowWrite _ => true
  | .smbusReadWord _ _ _ => true
  | .powerRemoval => true
  | .pcieLinkL0 _ _ _ => true
  | .portLinkDown port => wfPort port
  | .gateListStart port => wfPort port
  | .controlStoreLoadDone quad _ _ => wfQuad quad
  | .pcieRefclkPresent => true
  | .jtagInstruction _ _ => true

end Sys2Proof
end

