-- ==== Sys2Proof/Tests/Slice0.lean ====
section
/-!
SUPPORT. The model's own tests: the smoke test of WellFormed, effects taken from the spec's worked examples, and for
every obligation with hypotheses a state and operands that meet all of them, clause by clause (`witness_<Name>`).
-/

namespace Sys2Proof.Tests

set_option Elab.async false
set_option linter.unusedVariables false

open Sys2Proof Sys2Proof.Machine

/-- A running block in mode `m` with some register fields set. -/
def st (m : Mode) (l : List (Fld × Nat)) : State :=
  wrs { State.reset with mod := { State.reset.mod with seq := .running } } ((R.modStatMode, modeNum m) :: l)

/-- The header of a command of management core 33 in mailbox 32. -/
def h33 : CmdHdr := ⟨32, 33, [], 0, false⟩

/-- The state a command leaves, or the state before it where it answers none. -/
def after (c : State → Res) (s : State) : State :=
  match c s with
  | .next t => t
  | _ => s

/-! ### Well-formed commands: one ill-formed term for each check -/

theorem test_wellformed : WellFormed (.registerWrite 33 0x10008 5) = true := by decide
theorem test_illformed_master : WellFormed (.registerWrite 64 0x10008 5) = false := by decide
theorem test_illformed_alignment : WellFormed (.registerWrite 33 0x10004 5) = false := by decide
theorem test_illformed_address : WellFormed (.registerWrite 33 (2 ^ 28) 5) = false := by decide
theorem test_illformed_word : WellFormed (.registerWrite 33 0x10008 (2 ^ 64)) = false := by decide
theorem test_illformed_port : WellFormed (.inputStop 1024) = false := by decide
theorem test_illformed_quadrant : WellFormed (.headScan 4) = false := by decide
theorem test_illformed_mailbox : WellFormed (.warmReset ⟨31, 33, List.replicate 32 0, 0, false⟩) = false := by decide
theorem test_illformed_requester : WellFormed (.warmReset ⟨32, 64, List.replicate 32 0, 0, false⟩) = false := by decide
theorem test_illformed_body : WellFormed (.warmReset ⟨32, 33, List.replicate 31 0, 0, false⟩) = false := by decide

/-- No row of the opcode table gives bits. -/
theorem test_no_word_decodes : decodeTableWord 32 0xFFFFFFFF = none := rfl

/-! ### The spec's worked examples -/

/-- Chapter 18's example: the addresses of FLT_CNT[1] of quadrant 2 and of port 300's MAC_TS_ASYM. -/
theorem test_addresses :
    (R.fltCntCount 2 1).addr = 0x03400408 ∧ (R.macTsAsymAsymPs 2 44).addr = 0x0392C830 := by decide

/-- Chapter 17's example: counter 20 sees 1,500 and then 3,000 bytes and passes 2^48; chained counter 21 counts it. -/
theorem test_chained_counter :
    let s := st .serve [(R.ctrSelSrc 20, 2), (R.ctrSelChain 21, 1), (R.ctrValCount 20, 2 ^ 48 - 2596), (R.ctrValCount 21, 5)]
    let t := after (execCounterOverflow 20 3000) s
    snapshot (st .serve [(R.ctrSelChain 21, 1), (R.ctrValCount 20, 2 ^ 48 - 4096), (R.ctrValCount 21, 5)]) 20 =
        0x0005FFFFFFFFF000 ∧
      rd t (R.ctrValCount 20) = 404 ∧ rd t (R.ctrValCount 21) = 6 := by decide +kernel

/-- Chapter 11's example: bucket 1,000,003 of a stack with 768 MiB pseudo-channels. -/
theorem test_hbm_map :
    hbmU (st .serve [(R.hbmIdPcMib 2, 768)]) 2 = 47616 * 2 ^ 20 ∧
      0xB0000000 + 512 * 1000003 = 3464791552 ∧ logCh 3464791552 = 59 ∧
      rowBlk 3464791552 * 1024 + 512 = 55883264 := by decide +kernel

/-- Chapter 5's example: the /26 probe of 10.20.130.77 has k = 0x1429_04C0. -/
theorem test_lpm_key (d : TblDecl) (h : d.v6 = false) : lpmKey d 5 26 (0x0A14824D / 2 ^ 6) = 5 + 2 ^ 14 * 0x142904C0 := by
  simp [lpmKey, lpmW, h]

/-- Chapter 3's example: a commit at 500,000 ns is 1,467,296 ns away when the counter reads 4,294,000,000. -/
theorem test_timed_commit :
    timedRemaining { st .serve [(R.timNowNs, 0xFFF13D80)] with take := { TakeS.reset with timed := some 0x0007A120 } } =
      1467296 := by decide +kernel

/-- Chapter 16's example: 6,000 mW, 700 mV, 1,000 mV and 970 mV give E_UJ = 51,776 and CAUSE 0. -/
theorem test_holdup :
    let s := { st .test [(R.safHoldupCfgLoadMw, 6000), (R.safHoldupCfgVminMv, 700), (R.timUptimeNs, 1000000)] with
      saf := { SafeS.reset with holdupTest := true, v0 := 1000, boardRecord := some (6000, 700) } }
    let t := after (execHoldupSample 970) s
    rd t R.safHoldupEUj = 51776 ∧ rd t R.safHoldupCause = 0 ∧ t.mod.holdup = some true := by decide +kernel

/-- Chapter 12's example: PF0 takes lock 4, and the cluster agent reads its number. -/
theorem test_lock :
    let t := after (execLockAcquire 1 4) (st .serve [])
    lockOwner t 36 = 1 ∧ Sent.read 48 1 8 ∈ (after (execLockAcquire 48 4) t).sent := by decide +kernel

/-- The check values of CRC-32C and of the CRC-16 with polynomial 0x1021 and start 0xFFFF, over "123456789". -/
theorem test_crcs :
    crc32c 0xFFFFFFFF [0x31, 0x32, 0x33, 0x34, 0x35, 0x36, 0x37, 0x38, 0x39] = 0xE3069283 ∧
      crc16 [0x31, 0x32, 0x33, 0x34, 0x35, 0x36, 0x37, 0x38, 0x39] = 0x29B1 := by decide +kernel

/-! ### Witnesses of the obligations' hypotheses -/

/-- The register row at an address. -/
def rowAt (a : Nat) : RegDesc := ((regAt a).map (·.1)).getD ⟨"", 0, [], false, false, false, 99, []⟩

/-- A state with session 1 open and bound to PF0, its keys in slots 8 and 9. -/
def sSess : State :=
  let s := st .serve [(R.hifSessOpen 1, 1), (R.hifSessReq 1, 1), (R.keySlotState 8, 2), (R.keySlotState 9, 2)]
  { s with keys := { s.keys with sess := [(1, (8, 9))] } }

/-- PF0's guarded command in session 1 with SEQ 5, rightly tagged. -/
def hSess : CmdHdr :=
  let b := [0, 0, 1, 1, 0, 0, 0, 0, 5]
  ⟨32, 1, b, tagOf (keyCmd sSess 1) b, false⟩

/-- A state whose image holds key 7, with a nonce of PF0's. -/
def sOpen : State :=
  let s := st .serve []
  { s with img := { s.img with running := [⟨0xC, 0, 0, [1, 0, 0, 0, 0, 0, 0, 0, 7]⟩] }
           host := { s.host with nonces := [⟨1, List.replicate 32 0, 0, false⟩] } }

theorem test_tag_is_checked : authentic sSess 1 1 5 hSess.body hSess.tag = true := by
  have h : (sessionBound sSess 1 1 && decide (rd sSess (R.hifSessSeqSeq 1) < 5)) = true := by decide +kernel
  unfold authentic; rw [h]; exact decide_eq_true rfl

/-- A job descriptor: encrypt with slot 8, one block, output to memory. -/
def job1 : JobS := ⟨[1, 0, 8, 0, 1, 0, 0, 0], .waiting, .ok, [], [], [], 0, []⟩

/-- A state whose ring 2 holds a list of jobs; slot 8 is PF0's. -/
def sJobs (l : List JobS) : State :=
  let s := st .serve [(R.keySlotState 8, 2), (R.keySlotUse 8, 15), (R.keySlotOwner 8, 1), (R.cipRingCfgSizeLog2 2, 4)]
  { s with keys := { s.keys with jobs := [(2, l)] } }

/-- A core runs the job at the head of ring 2. -/
def grp2 : GroupRun := ⟨2, 0, [], [], true⟩
def sRun : State :=
  let s := sJobs [{ job1 with st := .running }]
  { s with keys := { s.keys with cores := [(0, grp2)] } }

theorem witness_RegisterWriteSetsItsFields :
    (∃ (s : State) (r a v : Nat) (d : RegDesc) (home : Nat), clocked s = true ∧ regAt a = some (d, home) ∧ mayWrite d
      home r = true ∧ isReadOnly home = false ∧ PlainRow d) ∧
    (∃ (s : State) (r a v : Nat) (d : RegDesc) (home : Nat), clocked s = true ∧ regAt a = some (d, home) ∧ mayWrite d
      home r = true ∧ isReadOnly home = false ∧ ¬ PlainRow d) ∧
    (∃ (s : State) (r a v : Nat) (d : RegDesc) (home : Nat), clocked s = true ∧ regAt a = some (d, home) ∧ (mayWrite
      d home r = false ∨ isReadOnly home = true)) ∧
    (∃ (s : State) (r a v : Nat), clocked s = true ∧ regAt a = none) :=
  ⟨⟨st .load [(R.idPartVariant, 1), (R.modRotEn, 3)], 32, 0x260, 12, rowAt 0x260, 0x260, by decide +kernel⟩,
  ⟨st .serve [], 32, 0x60040, 0x10000, rowAt 0x60040, 0x60040, by decide +kernel⟩,
  ⟨st .serve [], 1, 0x50028, 5, rowAt 0x50028, 0x50028, by decide +kernel⟩,
  ⟨st .serve [], 1, 0xFFFF8, 5, by decide +kernel⟩⟩

theorem witness_NarrowAndForeignAccessesAreReported :
    (∃ (s : State) (r a v : Nat) (d : RegDesc) (home : Nat), clocked s = true ∧ regAt (a - a % 8) = some (d, home) ∧
      d.only64 = false ∧ mayWrite d home r = true ∧ isReadOnly home = false ∧ crosses d = true ∧ a % 8 = 0 ∧ home ∉
      [R.modRotEn.addr, R.modFwSlotNext.addr, R.imgBootSlot.addr, R.timCfgHoldS.addr]) ∧
    (∃ (s : State) (r a v : Nat) (d : RegDesc) (home : Nat) (low : _), clocked s = true ∧ regAt (a - a % 8) = some
      (d, home) ∧ d.only64 = false ∧ mayWrite d home r = true ∧ isReadOnly home = false ∧ crosses d = true ∧ a % 8 =
      4 ∧ stagedLow s r home = some low) ∧
    (∃ (s : State) (r a v : Nat) (d : RegDesc) (home : Nat), clocked s = true ∧ regAt (a - a % 8) = some (d, home) ∧
      d.only64 = false ∧ mayWrite d home r = true ∧ isReadOnly home = false ∧ PlainRow d ∧ a % 4 = 0 ∧ (a % 8 = 0 →
      crosses d = false) ∧ (a % 8 = 4 → stagedLow s r home = none) ∧ home ∉ [R.modRotEn.addr, R.modFwSlotNext.addr,
      R.imgBootSlot.addr, R.timCfgHoldS.addr]) ∧
    (∃ (s : State) (r a v : Nat) (d : RegDesc) (home : Nat), clocked s = true ∧ regAt (a - a % 8) = some (d, home) ∧
      d.only64 = false) ∧
    (∃ (s : State) (r a : Nat) (w : Bool) (d : RegDesc) (home : Nat), clocked s = true ∧ regAt (a - a % 8) = some (d,
      home) ∧ d.only64 = true) ∧
    (∃ (s : State) (r a n : Nat) (w : Bool), clocked s = true ∧ regAt (a - a % 8) = none ∧ (a < 0x8000000 ∨
      0x10000000 ≤ a)) ∧
    (∃ (s : State) (r a : Nat) (d : RegDesc) (home : Nat), clocked s = true ∧ regAt (a - a % 8) = some (d, home) ∧
      mayWrite d home r = false ∧ r ≠ 48) :=
  ⟨⟨st .serve [], 1, 0x20010, 7, rowAt 0x20010, 0x20010, by decide +kernel⟩,
  ⟨(let s := st .serve []; { s with host := { s.host with latches := [(1, .write 0x20010 5)] } }), 1, 0x20014, 7,
    rowAt 0x20010, 0x20010, 5, by decide +kernel⟩,
  ⟨st .serve [], 32, 0x20014, 7, rowAt 0x20010, 0x20010, by decide +kernel⟩,
  ⟨st .serve [], 1, 0x20014, 7, rowAt 0x20010, 0x20010, by decide +kernel⟩,
  ⟨st .serve [], 1, 0x200104, false, rowAt 0x200100, 0x200100, by decide +kernel⟩,
  ⟨st .serve [], 1, 0x10000000, 4, false, by decide +kernel⟩,
  ⟨st .serve [], 1, 0x50028, rowAt 0x50028, 0x50028, by decide +kernel⟩⟩

theorem witness_RegisterCommandsReadAndWrite :
    (∃ (s : State) (h : CmdHdr) (a n : Nat), live s = true ∧ ByCore h ∧ n ≤ 26) ∧
    (∃ (s : State) (h : CmdHdr) (a v m : Nat) (d : RegDesc) (home : Nat), live s = true ∧ ByCore h ∧ regAt a = some
      (d, home) ∧ d.grp ≠ 99 ∧ d.coreOnly = true ∧ maskBad d home v m = false ∧ disables s (writeMasked s d home v m)
      home = none ∧ PlainRow d) ∧
    (∃ (s : State) (h : CmdHdr) (a v m : Nat) (d : RegDesc) (home : Nat), live s = true ∧ ByCore h ∧ regAt a = some
      (d, home) ∧ d.grp ≠ 99 ∧ d.coreOnly = true ∧ maskBad d home v m = false ∧ disables s (writeMasked s d home v m)
      home = none ∧ ¬ PlainRow d) ∧
    (∃ (s : State) (h : CmdHdr) (a v m : Nat) (d : RegDesc) (home : Nat), live s = true ∧ ByCore h ∧ regAt a = some
      (d, home) ∧ d.grp ≠ 99 ∧ d.coreOnly = true ∧ maskBad d home v m = false ∧ (disables s (writeMasked s d home v
      m) home).isSome = true) ∧
    (∃ (s : State) (h : CmdHdr) (a v m : Nat) (d : RegDesc) (home : Nat), live s = true ∧ ByCore h ∧ regAt a = some
      (d, home) ∧ (d.grp = 99 ∨ d.coreOnly = false ∨ maskBad d home v m = true)) :=
  ⟨⟨st .serve [], h33, 0x24000, 26, by decide +kernel⟩,
  ⟨st .serve [], h33, 0x70000, 1, 1, rowAt 0x70000, 0x70000, by decide +kernel⟩,
  ⟨st .serve [], h33, 0x60040, 0x10000, 0x10000, rowAt 0x60040, 0x60040, by decide +kernel⟩,
  ⟨st .serve [(R.idPartVariant, 1), (R.modRotEn, 15)], h33, 0x260, 7, 15, rowAt 0x260, 0x260, by decide +kernel⟩,
  ⟨st .serve [], h33, 0x24000, 1, 1, rowAt 0x24000, 0x24000, by decide +kernel⟩⟩

theorem witness_MailboxesCarryMessages :
    (∃ (s : State) (m k n j v : Nat), clocked s = true ∧ boxOf s m k = some n ∧ j < 32 ∧ mbxWritable s m n = true) ∧
    (∃ (s : State) (m k n j v : Nat), clocked s = true ∧ boxOf s m k = some n ∧ j < 32 ∧ mbxWritable s m n = false) ∧
    (∃ (s : State) (m k j v : Nat), clocked s = true ∧ 3 ≤ m ∧ m ≤ 18 ∧ boxOf s m k = none ∧ j < 32) ∧
    (∃ (s : State) (m k n v : Nat) (msg : List Byte), clocked s = true ∧ boxOf s m k = some n ∧ bits v 0 9 ≤ 256 ∧
      mbxWritable s m n = true) ∧
    (∃ (s : State) (m k n v : Nat), clocked s = true ∧ boxOf s m k = some n ∧ (256 < bits v 0 9 ∨ mbxWritable s m n =
      false)) ∧
    (∃ (s : State) (m n : Nat), clocked s = true ∧ n < 32 ∧ byPort m n = false ∧ rd s (R.mbxCfgReader n) = m ∧ m ≠ 0
      ∧ mbxState s n = 1 ∧ s.host.outRing.find? (fun e => e.1 == n) = none) ∧
    (∃ (s : State) (m k n : Nat), clocked s = true ∧ boxOf s m k = some n ∧ 32 ≤ n ∧ lockOwner s n = m ∧ m ≠ 0 ∧ m ≠
      0x3F ∧ mbxState s n = 3) :=
  ⟨⟨st .serve [(R.mbxStatOwner 63, 1)], 1, 63, 63, 31, 7, by decide +kernel⟩,
  ⟨st .serve [(R.mbxStatOwner 40, 18), (R.mbxStatState 40, 1)], 18, 0, 40, 0, 7, by decide +kernel⟩,
  ⟨st .serve [], 18, 64, 0, 7, by decide +kernel⟩,
  ⟨st .serve [(R.mbxCfgWriter 0, 1)], 1, 0, 0, 256, [1, 2], by decide +kernel⟩,
  ⟨st .serve [], 1, 32, 32, 257, by decide +kernel⟩,
  ⟨st .serve [(R.mbxCfgReader 31, 35), (R.mbxStatState 31, 1)], 35, 31, by decide +kernel⟩,
  ⟨st .serve [(R.mbxStatOwner 32, 18), (R.mbxStatState 32, 3)], 18, 5, 32, by decide +kernel⟩⟩

theorem witness_LocksHaveOneOwner :
    (∃ (s : State) (r i : Nat), clocked s = true ∧ i < 32 ∧ reachesLocks r = true ∧ lockOwner s (32 + i) = 0) ∧
    (∃ (s : State) (r i : Nat), clocked s = true ∧ i < 32 ∧ reachesLocks r = true ∧ lockOwner s (32 + i) ≠ 0) ∧
    (∃ (s : State) (r i : Nat), clocked s = true ∧ i < 32 ∧ reachesLocks r = true ∧ lockOwner s (32 + i) = r) ∧
    (∃ (s : State) (r i v : Nat), clocked s = true ∧ i < 32 ∧ reachesLocks r = true ∧ (v ≠ r ∨ lockOwner s (32 + i) ≠
      r)) ∧
    (∃ (s : State) (r i v : Nat), clocked s = true ∧ reachesLocks r = false) ∧
    (∃ (s : State) (c i : Nat), live s = true ∧ isCore c = true ∧ i < 32) :=
  ⟨⟨st .serve [], 48, 31, by decide +kernel⟩,
  ⟨st .serve [(R.mbxStatOwner 32, 1)], 3, 0, by decide +kernel⟩,
  ⟨st .serve [(R.mbxStatOwner 32, 1), (R.mbxStatState 32, 3)], 1, 0, by decide +kernel⟩,
  ⟨st .serve [(R.mbxStatOwner 32, 1)], 3, 0, 3, by decide +kernel⟩,
  ⟨st .serve [], 2, 0, 2, by decide +kernel⟩,
  ⟨st .serve [(R.mbxStatOwner 63, 1), (R.mbxStatState 63, 1)], 32, 31, by decide +kernel⟩⟩

theorem witness_CommandsAreTakenAndAnswered :
    (∃ (s : State) (c n : Nat), live s = true ∧ isCore c = true ∧ 32 ≤ n ∧ n < 64 ∧ mbxState s n = 1) ∧
    (∃ (s : State) (c n : Nat) (a : Answer), live s = true ∧ isCore c = true ∧ 32 ≤ n ∧ n < 64 ∧ mbxState s n = 2 ∧
      mget s.host.responseDue n = some a ∧ lockOwner s n ≠ 0x3F) ∧
    (∃ (s : State) (h : CmdHdr), live s = true ∧ ByCore h) ∧
    (∃ (s : State) (h : CmdHdr) (n : Nat), live s = true ∧ ByCore h ∧ 1 ≤ n ∧ n ≤ 16) ∧
    (∃ (s : State) (h : CmdHdr) (d : Nat) (z : List Byte), live s = true ∧ ByCore h ∧ s.keys.devEcdh = some d ∧
      s.keys.devKem = some z ∧ 1665 ≤ cmdBufLen h) :=
  ⟨⟨st .serve [(R.mbxStatState 63, 1)], 35, 63, by decide +kernel⟩,
  ⟨(let s := st .serve [(R.mbxStatState 32, 2)];
    { s with host := { s.host with responseDue := [(32, ⟨[], none, .ok, []⟩)] } }), 32, 32, ⟨[], none, .ok, []⟩,
    by decide +kernel⟩,
  ⟨st .serve [], h33, by decide +kernel⟩,
  ⟨st .serve [], h33, 16, by decide +kernel⟩,
  ⟨(let s := st .serve []; { s with keys := { s.keys with devEcdh := some 1, devKem := some [] } }),
    { h33 with body := List.replicate 24 0 ++ toLe 4 1665 }, 1, [], by decide +kernel⟩⟩

theorem witness_SessionsOpenAndClose :
    (∃ (s : State) (h : CmdHdr) (p pubE pubM : List Byte) (rights n a b : Nat), live s = true ∧ h.dmaErr = false ∧
      (h.requester = 1 ∨ h.requester = 48) ∧ 32 ≤ h.mbx ∧ h.mbx < 64 ∧ rdB s R.keyStatZeroized = false ∧ authKey s
      (fieldLe p 0 2) = some (pubE, pubM, rights) ∧ nonceGood s h.requester (slice p 0x28 32) = true ∧ freeSession s
      = some n ∧ twoSlots s = some (a, b)) ∧
    (∃ (s : State) (h : CmdHdr) (p : List Byte), live s = true ∧ h.dmaErr = false ∧ 32 ≤ h.mbx ∧ h.mbx < 64 ∧
      (h.requester ≠ 1 ∧ h.requester ≠ 48 ∨ rdB s R.keyStatZeroized = false ∧ (authKey s (fieldLe p 0 2) = none ∨
      nonceGood s h.requester (slice p 0x28 32) = false))) ∧
    (∃ (s : State) (h : CmdHdr) (p : List Byte), live s = true ∧ h.dmaErr = false ∧ 32 ≤ h.mbx ∧ h.mbx < 64 ∧
      (h.requester = 1 ∨ h.requester = 48) ∧ rdB s R.keyStatZeroized = true) ∧
    (∃ (s : State) (h : CmdHdr) (p pubE pubM : List Byte) (rights : Nat), live s = true ∧ h.dmaErr = false ∧ 32 ≤
      h.mbx ∧ h.mbx < 64 ∧ (h.requester = 1 ∨ h.requester = 48) ∧ rdB s R.keyStatZeroized = false ∧ authKey s
      (fieldLe p 0 2) = some (pubE, pubM, rights) ∧ nonceGood s h.requester (slice p 0x28 32) = true ∧ (freeSession s
      = none ∨ twoSlots s = none)) ∧
    (∃ (s : State) (h : CmdHdr), live s = true ∧ isCore h.requester = false ∧ cmdGuarded h = true ∧ (h.requester < 2
      ∨ 18 < h.requester) ∧ dmaFails h = false ∧ 1 ≤ cmdSession h ∧ cmdSession h ≤ 16 ∧ 32 ≤ h.mbx ∧ h.mbx < 64 ∧
      authentic s h.requester (cmdSession h) (cmdSeq h) h.body h.tag = true) ∧
    (∃ (s : State) (h : CmdHdr), live s = true ∧ ByCore h ∧ 1 ≤ cmdSession h ∧ cmdSession h ≤ 16) :=
  ⟨⟨sOpen, ⟨32, 1, [], 0, false⟩, [7], List.replicate 97 0, List.replicate 2592 0, 0, 1, 8, 9, by decide +kernel⟩,
  ⟨st .serve [], ⟨32, 3, [], 0, false⟩, [], by decide +kernel⟩,
  ⟨st .serve [(R.keyStatZeroized, 1)], ⟨32, 48, [], 0, false⟩, [], by decide +kernel⟩,
  ⟨{ sOpen with keys := { sOpen.keys with sess := (List.range 16).map (fun n => (n + 1, (0, 0))) } }, ⟨32, 1, [], 0,
    false⟩, [7], List.replicate 97 0, List.replicate 2592 0, 0, by decide +kernel⟩,
  (by refine ⟨sSess, hSess, ?_⟩; (iterate 9 refine ⟨by decide, ?_⟩); exact (test_tag_is_checked)),
  ⟨sSess, { h33 with body := [3, 0, 0, 1] }, by decide +kernel⟩⟩

theorem witness_GuardedCommandsNeedTheirSession :
    (∃ (s : State) (h : CmdHdr) (grp : Option Nat) (f : State → CmdOut), isCore h.requester = false ∧ 32 ≤ h.mbx ∧
      h.mbx < 64 ∧ (cmdGuarded h = false ∨ (2 ≤ h.requester ∧ h.requester ≤ 18) ∨ dmaFails h = false ∧ authentic s
      h.requester (cmdSession h) (cmdSeq h) h.body h.tag = false)) ∧
    (∃ (s : State) (r n seq : Nat) (msg : List Byte) (tag : BitVec 128), seq < 2 ^ 64) :=
  ⟨⟨st .serve [], ⟨32, 1, [], 0, false⟩, none, okay, by decide +kernel⟩,
  ⟨st .serve [], 1, 1, 2 ^ 64 - 1, [], 0, by decide +kernel⟩⟩

theorem witness_KeySlotsAreLoadedRewrittenAndErased :
    (∃ (s : State) (h : CmdHdr) (k use owner : Nat) (b : Bool) (key : List Byte), live s = true ∧ ByCore h ∧ modeIn s
      commandModes = true ∧ rdB s R.keyStatZeroized = false ∧ 8 ≤ k ∧ k < 64 ∧ use < 16 ∧ (owner = 0 ∨ owner = 1 ∨
      owner = 48) ∧ sessionOf s k = none ∧ rd s (R.keySlotState k) = 0) ∧
    (∃ (s : State) (h : CmdHdr) (k : Nat), live s = true ∧ ByCore h ∧ modeIn s commandModes = true ∧ rdB s
      R.keyStatZeroized = false ∧ 5 ≤ k ∧ k < 64 ∧ rd s (R.keySlotState k) ≠ 0) ∧
    (∃ (s : State) (h : CmdHdr) (k : Nat), live s = true ∧ ByCore h ∧ modeIn s commandModes = true ∧ rdB s
      R.keyStatZeroized = false ∧ 5 ≤ k ∧ k < 64 ∧ sessionOf s k = none) ∧
    (∃ (s : State) (h : CmdHdr), live s = true ∧ ByCore h ∧ modeIn s commandModes = true) ∧
    (∃ (s : State) (k use owner : Nat) (b : Bool) (key : List Byte), live s = true ∧ k < 64 ∧ rd s (R.keySlotLeases
      k) = 0 ∧ mget s.keys.pend k = some (.load key use owner b)) ∧
    (∃ (s : State) (k use owner : Nat) (b : Bool) (key : List Byte), live s = true ∧ k < 64 ∧ rd s (R.keySlotLeases
      k) = 0 ∧ mget s.keys.pend k = some .erase ∧ sessionOf s k = none) ∧
    (∃ (s : State), live s = true ∧ mode s = .load ∧ rdB s R.keyStatZeroized = false ∧ rd s (R.keySlotState 0) = 2) :=
  ⟨⟨st .serve [], h33, 63, 15, 48, true, [], by decide +kernel⟩,
  ⟨st .serve [(R.keySlotState 5, 2)], h33, 5, by decide +kernel⟩,
  ⟨st .serve [], h33, 63, by decide +kernel⟩,
  ⟨st .safe [], h33, by decide +kernel⟩,
  ⟨(let s := st .serve []; { s with keys := { s.keys with pend := [(8, .load [] 3 1 true)] } }), 8, 3, 1, true, [],
    by decide +kernel⟩,
  ⟨(let s := st .serve []; { s with keys := { s.keys with pend := [(8, .erase)] } }), 8, 3, 1, true, [],
    by decide +kernel⟩,
  ⟨st .load [(R.keySlotState 0, 2)], by decide +kernel⟩⟩

theorem witness_CipherJobsRunAndComplete :
    (∃ (s : State) (m r tail : Nat) (l : List (List Byte)), live s = true ∧ r < 4 ∧ mayRing r m = true ∧ cipSize s r
      ≠ 0) ∧
    (∃ (s : State) (c r i : Nat) (j : JobS) (input old : List Byte), live s = true ∧ c < 4 ∧ mget s.keys.cores c =
      none ∧ nextRing s = some (r, i) ∧ (ringJobs s r)[i]? = some j ∧ jobWaits s j = false ∧ rdB s R.keyStatZeroized
      = false ∧ jobValid s r true j = true ∧ jobOut j ≠ 1) ∧
    (∃ (s : State) (c : Nat) (g : GroupRun) (j : JobS), live s = true ∧ mget s.keys.cores c = some g ∧ g.busy = true
      ∧ (ringJobs s g.ring)[g.next]? = some j ∧ j.st = .running) ∧
    (∃ (s : State) (r : Nat), live s = true ∧ r < 4 ∧ ringJobs s r ≠ [] ∧ ((ringJobs s r).take (groupLen (ringJobs s
      r))).all (fun j => j.st == .done) = true ∧ ((ringJobs s r).take (groupLen (ringJobs s r))).getLast?.any jobLink
      = false ∧ tagDiffers ((ringJobs s r).take (groupLen (ringJobs s r))) = false) ∧
    (∃ (s : State) (pub msg sig : List Byte), live s = true) :=
  ⟨⟨sJobs [], 1, 2, 17, [[1]], by decide +kernel⟩,
  ⟨sJobs [job1], 3, 2, 0, job1, [], [], by decide +kernel⟩,
  ⟨sRun, 0, grp2, { job1 with st := .running }, by decide +kernel⟩,
  ⟨sJobs [{ job1 with st := .done }], 2, by decide +kernel⟩,
  ⟨st .serve [], [], [], [], by decide +kernel⟩⟩

/-- A list of n bytes, all zero but those listed. -/
def blob (n : Nat) (l : List (Nat × Nat)) : List Byte :=
  (List.range n).map (fun i => BitVec.ofNat 8 (((l.find? (fun e => e.1 == i)).map (·.2)).getD 0))

/-- An image that declares one front port, port 5, at 100 Gbit/s. -/
def portMap5 : SecS := ⟨1, 0, 0, blob 0x50 [(0, 1), (0x48, 5), (0x4A, 1)]⟩

/-- The image runs these sections. -/
def withSecs (l : List SecS) (s : State) : State := { s with img := { s.img with running := l } }

/-- A list of two entries of 500 us each. -/
def list2 : GateList := ⟨1000000, 3, 0, [(1, 500000), (2, 500000)]⟩

/-- Port 5's list runs, its first entry ending at counter value 500,000; further fields as given. -/
def sGate (l : List (Fld × Nat)) : State :=
  let s := st .serve ([(R.timStatValid, 1), (R.shtPortBaseRun 0 5, 1), (R.timNowNs, 600000)] ++ l)
  withSecs [portMap5] { s with tim := { s.tim with oper := [(5, list2)], entryEnd := [(5, 500000)] } }

/-- Queue 7 of port 5 in the running tree: its node, the level-1 node and the port's node. -/
def tnode (level tc parent f10 : Nat) (frames : List Nat) : NodeS :=
  ⟨level, tc, false, 0, 1, parent, 0, 0, f10, 0, 0, 0, 0, 0, 0, false, frames⟩
def withTree (frames : List Nat) (s : State) : State :=
  { s with cel := { s.cel with treeHdr := [(0, ⟨3, 7, 1, 0, 0⟩)], nodes := [(0, tnode 0 0 0 5 []), (1, tnode 1 0 0 0 []), (2, tnode 2 0 1 0 frames)] } }

/-- Queue 7 reserved on port 5, with one copy queued whose window ends at counter value 550,000. -/
def sRsv (now : Nat) : State :=
  let s := withTree [9] (sGate [(R.timNowNs, now)])
  let c : CopyS := ⟨9, 5, 7, true, false, 0, 0, .queued, 1, 0, 0, some (500000, 550000), false, 0⟩
  { s with tim := { s.tim with rsv := [(7, ⟨5, 0, 100, 0, 1000, 5000, 1000, 1, 1, none⟩)] }, cel := { s.cel with copies := [(9, c)] } }

/-- A timestamp record. -/
def ts1 : TsRec := ⟨77, 5, 3, 2, 1, false, true, 5⟩

theorem witness_TimCycleAdvancesTheCounter :
    (∃ (s : State), powered s = true ∧ s.pending = []) ∧
    (∃ (s : State), live s = true ∧ 2 ^ 64 ≤ nowNs s * 2 ^ 32 + rd s R.timNowFrac + rd s R.timIncrementInc) :=
  ⟨⟨st .serve [(R.timIncrementInc, 0xCCCCCCCD), (R.timNowNs, 0xFFFFFFFF), (R.timNowFrac, 0xFFFFFFFF)],
    by decide +kernel⟩,
  ⟨st .serve [(R.timIncrementInc, 0xCCCCCCCD), (R.timNowNs, 0xFFFFFFFF), (R.timNowFrac, 0xFFFFFFFF)],
    by decide +kernel⟩⟩

theorem witness_TimeIsSetAndControlled :
    (∃ (s : State) (r v : Nat), live s = true ∧ isCore r = true ∧ v < 2 ^ 36 ∧ 0xCCC78EA0 ≤ v ∧ v ≤ 0xCCD20AFA) ∧
    (∃ (s : State) (r v : Nat), live s = true ∧ isCore r = true ∧ v < 2 ^ 36 ∧ (v < 0xCCC78EA0 ∨ 0xCCD20AFA < v)) ∧
    (∃ (s : State) (k : Nat) (clr : Bool), live s = true) ∧
    (∃ (s : State) (r v : Nat), live s = true ∧ isCore r = true ∧ v < 2 ^ 32 ∧ v ≠ 2 ^ 31 ∧ rd s R.timNowNs < 2 ^ 32
      ∧ (rd s R.timStatState = 0 ∨ (0 < rd s R.timJumpLimitLimitNs ∧ (sbits 32 v).natAbs ≤ rd s
      R.timJumpLimitLimitNs)) ∧ s.take.accepted = none ∧ s.take.timed = none) ∧
    (∃ (s : State) (r v : Nat), live s = true ∧ isCore r = true ∧ rd s R.timStatState = 0) ∧
    (∃ (s : State) (r v : Nat), live s = true ∧ isCore r = true ∧ rd s R.timStatState ≠ 0) ∧
    (∃ (s : State) (r e : Nat), live s = true ∧ isCore r = true ∧ rd s R.cluStatActing = 2 ∧ directorValid s = false)
      ∧
    (∃ (s : State) (r e : Nat) (d : Bool), live s = true ∧ isCore r = true ∧ rd s R.timStatState ≠ 1 ∧ (d = false ∨
      rd s R.cluStatActing ≠ 2 ∨ directorValid s = true)) ∧
    (∃ (s : State) (r : Nat), live s = true ∧ isCore r = true ∧ rd s R.timStatState = 1 ∧ (rd s R.timStatSource = 1 ∨
      rd s R.timStatSource = 3) ∧ rd s R.timCfgHoldS ≠ 0) ∧
    (∃ (s : State) (t0 : Nat), live s = true ∧ s.tim.holdStart = some t0 ∧ rd s R.timStatState = 2 ∧ uptime s - t0 <
      rd s R.timCfgHoldS * 10 ^ 9) ∧
    (∃ (s : State) (t0 : Nat), live s = true ∧ s.tim.holdStart = some t0 ∧ rd s R.timStatState = 2 ∧ rd s
      R.timCfgHoldS * 10 ^ 9 ≤ uptime s - t0 ∧ s.tim.oper = [] ∧ s.take.timed = none) ∧
    (∃ (s : State) (h : CmdHdr) (sec ns : Nat), live s = true ∧ ByCore h ∧ modeIn s commandModes = true) ∧
    (∃ (s : State) (h : CmdHdr) (d : Int), live s = true ∧ ByCore h ∧ modeIn s commandModes = true ∧ d.natAbs < 2 ^
      31) ∧
    (∃ (s : State) (h : CmdHdr) (d : Int), live s = true ∧ ByCore h ∧ modeIn s commandModes = true ∧ 2 ^ 31 ≤
      d.natAbs) ∧
    (∃ (s : State) (h : CmdHdr) (lim hold : Nat), live s = true ∧ ByCore h ∧ modeIn s commandModes = true ∧ lim < 2 ^
      32 ∧ hold < 2 ^ 16 ∧ s.tim.holdStart = none) ∧
    (∃ (s : State) (r v : Nat), live s = true ∧ isCore r = false) :=
  ⟨⟨st .serve [], 33, 0xCCC78EA0, by decide +kernel⟩,
  ⟨st .serve [], 33, 0xCCC78E9F, by decide +kernel⟩,
  ⟨st .serve [(R.timNowxPending, 3), (R.timNowxRebase, 1)], 2, true, by decide +kernel⟩,
  ⟨st .serve [(R.timStatState, 1), (R.timJumpLimitLimitNs, 5), (R.timNowNs, 3)], 33, 0xFFFFFFFB, by decide +kernel⟩,
  ⟨st .serve [(R.timNowxPending, 3)], 33, 77, by decide +kernel⟩,
  ⟨st .serve [(R.timStatState, 1)], 33, 77, by decide +kernel⟩,
  ⟨st .serve [(R.cluStatActing, 2)], 33, 4, by decide +kernel⟩,
  ⟨st .serve [], 33, 4, true, by decide +kernel⟩,
  ⟨st .serve [(R.timStatState, 1), (R.timStatSource, 3), (R.timCfgHoldS, 10)], 33, by decide +kernel⟩,
  ⟨(let s := st .serve [(R.timStatState, 2), (R.timCfgHoldS, 1)];
    { s with tim := { s.tim with holdStart := some 0 } }), 0, by decide +kernel⟩,
  ⟨(let s := st .serve [(R.timStatState, 2), (R.timStatSource, 1), (R.timStatValid, 1), (R.timCfgHoldS, 1),
    (R.timUptimeNs, 2000000000)]; { s with tim := { s.tim with holdStart := some 0 } }), 0, by decide +kernel⟩,
  ⟨st .serve [], h33, 5, 999999999, by decide +kernel⟩,
  ⟨st .serve [(R.timNowNs, 3)], h33, -5, by decide +kernel⟩,
  ⟨st .serve [], h33, 2 ^ 31, by decide +kernel⟩,
  ⟨st .serve [], h33, 2 ^ 32 - 1, 2 ^ 16 - 1, by decide +kernel⟩,
  ⟨st .serve [], 1, 0xCCCCCCCC, by decide +kernel⟩⟩

theorem witness_GateListsRunAndChange :
    (∃ (s : State) (r p base : Nat) (run : Bool), live s = true ∧ isCore r = true ∧ p < 512 ∧ base < 2 ^ 32 ∧ (run =
      false ∧ rd s (R.shtPortBaseBase (macQ p) (macM p)) = base ∨ nsDiff base (nowNs s) ≠ 0 ∧ nsDiff base (nowNs s) <
      2 ^ 31)) ∧
    (∃ (s : State) (r p base : Nat) (run : Bool), live s = true ∧ isCore r = true ∧ p < 512 ∧ base < 2 ^ 32 ∧ (run =
      true ∨ rd s (R.shtPortBaseBase (macQ p) (macM p)) ≠ base) ∧ (nsDiff base (nowNs s) = 0 ∨ 2 ^ 31 ≤ nsDiff base
      (nowNs s))) ∧
    (∃ (s : State) (p : Nat) (e : Nat × Nat) (es : List (Nat × Nat)), live s = true ∧ p < 512 ∧ rdB s
      (R.shtPortBaseRun (macQ p) (macM p)) = true ∧ timeValid s = true ∧ mget s.tim.entryEnd p = none ∧ (operList s
      p).cycle ≠ 0 ∧ (operList s p).entries = e :: es ∧ e.2 ≠ 0 ∧ atOrAfter (nowNs s) (rd s (R.shtPortBaseBase (macQ
      p) (macM p))) = true) ∧
    (∃ (s : State) (p i t0 : Nat) (e : Nat × Nat), live s = true ∧ listRuns s p = true ∧ mget s.tim.entryEnd p = some
      t0 ∧ atOrAfter (nowNs s) t0 = true ∧ rdB s (R.shtPortPendPending (macQ p) (macM p)) = false ∧ rd s
      (R.shtPortStatEntry (macQ p) (macM p)) + 1 = i ∧ (operList s p).entries[i]? = some e ∧ e.2 ≠ 0 ∧ i < 1024) ∧
    (∃ (s : State) (p : Nat), live s = true ∧ listRuns s p = true ∧ rdB s (R.shtPortPendPending (macQ p) (macM p)) =
      true ∧ atOrAfter (nowNs s) (rd s (R.shtPortPendChangeAt (macQ p) (macM p))) = true) ∧
    (∃ (s : State) (h : CmdHdr) (p sched cycle off : Nat) (es : List (Nat × Nat)), live s = true ∧ ByCore h ∧ modeIn
      s commandModes = true ∧ p < 512 ∧ (portDecl s p).isSome = true ∧ sched < 2 ^ 16 ∧ listOk ⟨cycle, sched, off,
      es⟩ = true ∧ portRsv s p = [] ∧ listRuns s p = false) ∧
    (∃ (s : State) (h : CmdHdr) (p sched cycle off : Nat) (es : List (Nat × Nat)), live s = true ∧ ByCore h ∧ modeIn
      s commandModes = true ∧ p < 512 ∧ (portDecl s p).isSome = true ∧ sched < 2 ^ 16 ∧ listOk ⟨cycle, sched, off,
      es⟩ = true ∧ portRsv s p = [] ∧ listRuns s p = true) :=
  ⟨⟨sGate [], 33, 5, 600001, true, by decide +kernel⟩,
  ⟨sGate [], 33, 5, 599999, true, by decide +kernel⟩,
  ⟨(let s := sGate []; { s with tim := { s.tim with entryEnd := [] } }), 5, (1, 500000), [(2, 500000)],
    by decide +kernel⟩,
  ⟨sGate [], 5, 1, 500000, (2, 500000), by decide +kernel⟩,
  ⟨(let s := sGate [(R.shtPortPendPending 0 5, 1), (R.shtPortPendChangeAt 0 5, 600000)];
    { s with tim := { s.tim with admBank := [(5, ⟨1000, 0, 0, [(7, 1000)]⟩)] } }), 5, by decide +kernel⟩,
  ⟨(let s := sGate []; { s with tim := { s.tim with entryEnd := [] } }), h33, 5, 3, 1000, 0, [(7, 1000)],
    by decide +kernel⟩,
  ⟨sGate [], h33, 5, 3, 1000, 0, [(7, 1000)], by decide +kernel⟩⟩

theorem witness_ReservationsAreSetAndCleared :
    (∃ (s : State) (h : CmdHdr) (qn port tc ml ao al eo el n : Nat), live s = true ∧ ByCore h ∧ modeIn s commandModes
      = true ∧ timeValid s = true ∧ n < 256 ∧ mget s.tim.rsv qn = none ∧ rsvOk s qn ⟨port, tc, ml, ao, al, eo, el, n,
      0, none⟩ = true ∧ rd s (R.shtRsvStatUsed (macQ port)) < 16384) ∧
    (∃ (s : State) (h : CmdHdr) (qn : Nat) (r : RsvS), live s = true ∧ ByCore h ∧ modeIn s commandModes = true ∧ mget
      s.tim.rsv qn = some r) ∧
    (∃ (s : State) (qn c : Nat) (r : RsvS), live s = true ∧ mget s.tim.rsv qn = some r ∧ listRuns s r.port = true ∧
      rd s (R.shtPortStatCycleStart (macQ r.port) (macM r.port)) = c ∧ r.admOff ≤ nsDiff (nowNs s) c ∧ r.started ≠
      some c) ∧
    (∃ (s : State) (qn c : Nat) (r : RsvS), live s = true ∧ mget s.tim.rsv qn = some r ∧ listRuns s r.port = true ∧
      rd s (R.shtPortStatCycleStart (macQ r.port) (macM r.port)) = c ∧ (nsDiff (nowNs s) c < r.admOff ∨ r.started =
      some c)) ∧
    (∃ (s : State) (qn k cp : Nat) (w : Nat × Nat) (r : RsvS) (n : NodeS), live s = true ∧ mget s.tim.rsv qn = some r
      ∧ queueNode s qn = some k ∧ mget s.cel.nodes k = some n ∧ n.frames = [cp] ∧ (mget s.cel.copies cp).bind (·.win)
      = some w ∧ r.port < 512 ∧ atOrAfter (nowNs s) w.2 = true) ∧
    (∃ (s : State) (qn k cp : Nat) (w : Nat × Nat) (r : RsvS) (n : NodeS), live s = true ∧ mget s.tim.rsv qn = some r
      ∧ queueNode s qn = some k ∧ mget s.cel.nodes k = some n ∧ n.frames = [cp] ∧ (mget s.cel.copies cp).bind (·.win)
      = some w ∧ r.port < 512 ∧ atOrAfter (nowNs s) w.2 = false) :=
  ⟨⟨withTree [] (sGate [(R.macFrameMaxMax 0 5, 1500)]), h33, 7, 5, 0, 100, 0, 1000, 5000, 1000, 1,
    by decide +kernel⟩,
  ⟨sRsv 600000, h33, 7, ⟨5, 0, 100, 0, 1000, 5000, 1000, 1, 1, none⟩, by decide +kernel⟩,
  ⟨sRsv 600000, 7, 0, ⟨5, 0, 100, 0, 1000, 5000, 1000, 1, 1, none⟩, by decide +kernel⟩,
  ⟨(let s := sRsv 600000;
    { s with tim := { s.tim with rsv := [(7, ⟨5, 0, 100, 0, 1000, 5000, 1000, 1, 1, some 0⟩)] } }), 7, 0, ⟨5, 0, 100,
    0, 1000, 5000, 1000, 1, 1, some 0⟩, by decide +kernel⟩,
  ⟨sRsv 600000, 7, 2, 9, (500000, 550000), ⟨5, 0, 100, 0, 1000, 5000, 1000, 1, 1, none⟩, tnode 2 0 1 0 [9],
    by decide +kernel⟩,
  ⟨sRsv 500000, 7, 2, 9, (500000, 550000), ⟨5, 0, 100, 0, 1000, 5000, 1000, 1, 1, none⟩, tnode 2 0 1 0 [9],
    by decide +kernel⟩⟩

theorem witness_TimestampsAndPulses :
    (∃ (s : State) (r p : Nat) (x : TsRec) (xs : List TsRec), live s = true ∧ p < 512 ∧ mgetD s.tim.txFifo p [] = x
      :: xs) ∧
    (∃ (s : State), live s = true ∧ s.tim.ppsHigh = true) ∧
    (∃ (s : State), live s = true ∧ s.tim.ppsHigh = false ∧ rd s R.timPpsOutCfgPeriodNs ≠ 0 ∧ rd s
      R.timPpsOutCfgWidthUs ≠ 0 ∧ atOrAfter (nowNs s) (rd s R.timPpsOutNextNext) = true) ∧
    (∃ (s : State), live s = true) ∧
    (∃ (s : State) (r : Nat), live s = true) ∧
    (∃ (s : State) (i : Nat) (k : Bool), live s = true ∧ i < 2) :=
  ⟨⟨(let s := st .serve []; { s with tim := { s.tim with txFifo := [(511, [ts1, ts1])] } }), 1, 511, ts1, [ts1],
    by decide +kernel⟩,
  ⟨(let s := st .serve []; { s with tim := { s.tim with ppsHigh := true } }), by decide +kernel⟩,
  ⟨st .serve [(R.timPpsOutCfgPeriodNs, 1000), (R.timPpsOutCfgWidthUs, 1)], by decide +kernel⟩,
  ⟨st .serve [(R.timNowNs, 7)], by decide +kernel⟩,
  ⟨st .serve [(R.timPpsInNs, 7), (R.timPpsInNew, 1)], 1, by decide +kernel⟩,
  ⟨st .serve [], 1, false, by decide +kernel⟩⟩

/-- Tables in quadrant 0: 2, an egress direct table of 128 entries; 3, an exact-match table that learns; 4, one with
wide keys. -/
def tables23 : SecS := ⟨5, 0, 0, blob 0xB0 [(0, 3), (0x20, 2), (0x22, 0x44), (0x23, 1), (0x24, 7),
  (0x50, 3), (0x52, 0x21), (0x53, 1), (0x54, 62), (0x56, 4), (0x58, 3), (0x5C, 9),
  (0x80, 4), (0x82, 1), (0x83, 1), (0x84, 161), (0x86, 6)]⟩
def dWide : TblDecl := ⟨4, 1, false, false, false, 1, 161, 6, 0, 0, 0, 0, 0, 0, 0, 0⟩
def dDir : TblDecl := ⟨2, 4, false, false, true, 1, 7, 0, 0, 0, 0, 0, 0, 0, 0, 0⟩
def dEm : TblDecl := ⟨3, 1, false, true, false, 1, 62, 4, 0, 3, 9, 0, 0, 0, 0, 0⟩

/-- The two tables, with register fields and a learn queue of table 3. -/
def sTab (l : List (Fld × Nat)) (q : List LearnReq) : State :=
  let s := withSecs [portMap5, tables23] (st .serve ([(R.fwdPortLearnLimit 0 5, 100)] ++ l))
  { s with tab := { s.tab with queue := [(3, q)] } }

/-- Key 77 learned on port 9, and the entry that shows it. -/
def ent77 : TEnt := ⟨77, 1, 3, 9, 1, true, false, 0, 0, false, []⟩
def sMove (port : Nat) : State :=
  let s := sTab [] [⟨true, 77, port, 0, 0, 0⟩]
  { s with tab := { s.tab with bkt := [(3, [((candSlots dEm 77).headD 0, ent77)])] } }

/-- What placing key 77 for port 5 gives. -/
def sPlaced : State :=
  let s := setQueue (sTab [] [⟨false, 77, 5, 0, 0, 0⟩]) 3 []
  (placeEnt { s with tab := { s.tab with log := [] } } dEm ⟨77, emW 62, 3, 5, 15, true, false, fwdSec (sTab [] [⟨false, 77, 5, 0, 0, 0⟩]), 0, false, []⟩ 2).getD s

/-- A frame of take 0 that is arriving. -/
def fr0 : FrameS := ⟨5, 0, 15, 0, 0, 5, 0, ts1, 0, 0, 0, 0, 64, 1, false, true, .arriving, 0, 0, [], none, none, none⟩

/-- A batch that sets index 1 of table 2 to 7. -/
def batch1 : List Byte := blob 80 [(0, 0x53), (1, 0x4B), (2, 0x54), (3, 0x42), (0x10, 1), (0x14, 80),
  (32, 7), (34, 2), (36, 32), (40, 1), (48, 7)]

/-- Block 0 of table 4 deferred with number 5 in quadrant 0, beside another of its blocks. -/
def sCon : State :=
  let s := sTab [] []
  { s with tab := { s.tab with conDefer := [⟨4, 0, 0, 5, 0⟩, ⟨4, 1, 0, 5, 0⟩] } }

/-- A part of the bytes of an image is the bytes of that part. -/
theorem slice_imageBytes (s : State) (d : TblDecl) (n o k : Nat) (h : o + k ≤ n) :
    slice (imageBytes s d 0 n) o k = imageBytes s d o k := by
  have hl : ((imageBytes s d 0 n).drop o).take k = imageBytes s d o k := by
    apply List.ext_getElem?; intro i
    simp only [imageBytes, upFrom, List.getElem?_take, List.getElem?_drop, List.getElem?_map]
    by_cases hi : i < k
    · have h2 : o + i < n := by omega
      simp [hi, h2]
    · simp [hi]
  have h2 : (imageBytes s d o k).length = k := by simp [imageBytes, upFrom]
  simp [slice, hl, h2]

theorem wide_block : ∀ o ∈ blockEntries sCon dWide (4096 * 0) (imageBytes sCon dWide 0 4096) (blockLen sCon dWide 0)
    (blockLen sCon dWide 0), o.1 + o.2 ≤ 4096 := by decide +kernel

theorem wide_reads : ∀ o ∈ blockEntries sCon dWide (4096 * 0) (imageBytes sCon dWide 0 4096) (blockLen sCon dWide 0)
    (blockLen sCon dWide 0), imageBytes sCon dWide o.1 o.2 = slice (imageBytes sCon dWide 0 4096) (o.1 - 4096 * 0) o.2 :=
  fun o ho => (slice_imageBytes _ _ _ _ _ (wide_block o ho)).symm

theorem witness_TakesCommitSwitchAndSettle :
    (∃ (s : State) (h : CmdHdr) (at_ : Nat), live s = true ∧ ByCore h ∧ modeIn s commandModes = true ∧ s.take.timed =
      none ∧ isSettling s = false) ∧
    (∃ (s : State) (h : CmdHdr) (at_ : Nat), live s = true ∧ ByCore h ∧ modeIn s commandModes = true ∧ s.take.timed =
      none ∧ timeValid s = true ∧ at_ < 2 ^ 32 ∧ nsDiff at_ (nowNs s) ≠ 0 ∧ nsDiff at_ (nowNs s) < 2 ^ 31) ∧
    (∃ (s : State) (h : CmdHdr), live s = true ∧ ByCore h ∧ modeIn s commandModes = true ∧ (s.take.timed = none ∨
      10000 ≤ timedRemaining s) ∧ isSettling s = true) ∧
    (∃ (s : State) (h : CmdHdr), live s = true ∧ ByCore h ∧ modeIn s commandModes = true ∧ (s.take.timed = none ∨
      10000 ≤ timedRemaining s) ∧ isSettling s = false) ∧
    (∃ (s : State) (a : Nat), live s = true ∧ s.take.accepted = some a ∧ reached s a = true) ∧
    (∃ (s : State), live s = true ∧ rdB s R.stgTakeStatOldLive = true ∧ s.take.settling = false ∧ takeInFlight s (rd
      s R.stgTakeStatOld) = false) ∧
    (∃ (s : State), live s = true ∧ rdB s R.stgTakeStatOldLive = true ∧ s.take.settling = false ∧ takeInFlight s (rd
      s R.stgTakeStatOld) = true) ∧
    (∃ (s : State) (t0 : _), live s = true ∧ rdB s R.stgTakeStatOldLive = true ∧ s.take.settling = false ∧
      s.take.drainSince = some t0 ∧ rd s R.stgTakeCfgDrainLimit ≠ 0 ∧ t0 + 1000 * rd s R.stgTakeCfgDrainLimit ≤
      uptime s) ∧
    (∃ (s : State) (t0 : _), live s = true ∧ rdB s R.stgTakeStatOldLive = true ∧ s.take.settling = false ∧
      s.take.drainSince = some t0 ∧ rd s R.stgTakeCfgDrainLimit ≠ 0 ∧ uptime s < t0 + 1000 * rd s
      R.stgTakeCfgDrainLimit) ∧
    (∃ (s : State), live s = true ∧ s.take.settling = true) :=
  ⟨⟨st .serve [(R.stgTakeStatCur, 0xFFFF)], h33, 0, by decide +kernel⟩,
  ⟨st .serve [(R.timStatValid, 1), (R.timNowNs, 5)], h33, 2 ^ 31 + 4, by decide +kernel⟩,
  ⟨(let s := st .serve [(R.stgTakeStatOldLive, 1)]; { s with take := { s.take with settling := true } }), h33,
    by decide +kernel⟩,
  ⟨st .serve [(R.stgTakeStagedChanges, 4)], h33, by decide +kernel⟩,
  ⟨(let s := st .serve [(R.stgTakeStatCur, 0xFFFF), (R.timNowNs, 7)];
    { s with take := { s.take with accepted := some 7 } }), 7, by decide +kernel⟩,
  ⟨st .serve [(R.stgTakeStatOldLive, 1)], by decide +kernel⟩,
  ⟨(let s := st .serve [(R.stgTakeStatOldLive, 1)]; { s with cel := { s.cel with frames := [(1, fr0)] } }),
    by decide +kernel⟩,
  ⟨(let s := st .serve [(R.stgTakeStatOldLive, 1), (R.stgTakeCfgDrainLimit, 1), (R.timUptimeNs, 1000)];
    { s with take := { s.take with drainSince := some 0 } }), 0, by decide +kernel⟩,
  ⟨(let s := st .serve [(R.stgTakeStatOldLive, 1), (R.stgTakeCfgDrainLimit, 1), (R.timUptimeNs, 999)];
    { s with take := { s.take with drainSince := some 0 } }), 0, by decide +kernel⟩,
  ⟨(let s := st .serve [(R.stgTakeStatOldLive, 1)]; { s with take := { s.take with settling := true } }),
    by decide +kernel⟩⟩

theorem witness_BatchesApplyTheirEntries :
    (∃ (s0 s : State) (i : Nat) (es : List (TblDecl × BatchOp)), (applyAll s0 s i es).status ≠ .ok) ∧
    (∃ (s : State) (h : CmdHdr) (b : List Byte) (d : TblDecl) (i a : Nat), live s = true ∧ ByCore h ∧ fieldLe b 0 4 =
      0x42544B53 ∧ fieldLe b 4 4 < 32 ∧ fieldLe b 0x14 4 = b.length ∧ b.length ≤ 1048576 ∧ 48 + 16 * fieldLe b 0x10 4
      ≤ b.length ∧ readEntries s (b.take (b.length - 16)) (fieldLe b 0x10 4) 0 32 = .ok [(d, .directSet i a)] ∧
      d.egress = true ∧ dirAt s d.num i = []) ∧
    (∃ (s : State) (h : CmdHdr) (b : List Byte), live s = true ∧ ByCore h ∧ (fieldLe b 0 4 ≠ 0x42544B53 ∨ fieldLe b
      0x14 4 ≠ b.length)) ∧
    (∃ (s : State) (u tail k : Nat) (d seg : List Byte), live s = true ∧ u < 16 ∧ rd s (R.hifRingCfgSizeLog2 (128 +
      u)) = k ∧ 0 < k ∧ rd s (R.hifRingCfgHead (128 + u)) < 2 ^ k ∧ k ≤ 15 ∧ tail = (rd s (R.hifRingCfgHead (128 +
      u)) + 1) % 2 ^ k ∧ bits (fieldLe d 8 4) 23 8 = 0 ∧ fieldLe d 0x0E 2 = 0 ∧ fieldLe d 0x14 12 = 0 ∧ fieldLe d
      0x30 16 = 0 ∧ bit (fieldLe d 8 4) 21 = true ∧ bit (fieldLe d 8 4) 22 = false ∧ 0 < fieldLe d 8 4 % 2 ^ 21 ∧
      fieldLe d 8 4 % 2 ^ 21 ≤ 1048576) ∧
    (∃ (s : State) (u : Nat) (b : OpenBatch), live s = true ∧ mget s.host.batches u = some b ∧ b.since + 10 ^ 8 ≤
      uptime s) :=
  ⟨⟨sTab [] [], sTab [] [], 0, [(dDir, .directSet 1 7), (dDir, .lpmDelete 0 0 0)], by decide +kernel⟩,
  ⟨sTab [] [], h33, batch1, dDir, 1, 7, by decide +kernel⟩,
  ⟨sTab [] [], h33, batch1.drop 1, by decide +kernel⟩,
  ⟨st .serve [(R.hifRingCfgSizeLog2 143, 15), (R.hifRingCfgHead 143, 2 ^ 15 - 1)], 15, 0, 15, blob 64 [(8, 4), (10,
    0x20)], [1, 2, 3, 4], by decide +kernel⟩,
  ⟨(let s := st .serve [];
    { s with host := { s.host with batches := [(15, ⟨0, [1]⟩)] }, regs := (wr s R.timUptimeNs (10 ^ 8)).regs }), 15,
    ⟨0, [1]⟩, by decide +kernel⟩⟩

theorem witness_TableUpkeepRows :
    (∃ (s : State) (q : Nat), live s = true ∧ q < 4 ∧ rdB s (R.cmsStatRestoring q) = true) ∧
    (∃ (s : State) (q b a : Nat), live s = true ∧ q < 4 ∧ b < 32 ∧ a < 4096) ∧
    (∃ (s : State) (q b a : Nat), live s = true) ∧
    (∃ (s s' : State) (k : Nat) (d : TblDecl) (r : LearnReq) (rs : List LearnReq), live s = true ∧ tblDecl s k = some
      d ∧ mgetD s.tab.queue k [] = r :: rs ∧ r.move = false ∧ learnEntry s d r.key = none ∧ learnedOn (setQueue s k
      rs) r.port < learnLimit (setQueue s k rs) r.port ∧ placeEnt
      { setQueue s k rs with tab := { (setQueue s k rs).tab with log := [] } } d (learnedEnt s d r.key r.port) 2 =
      some s') ∧
    (∃ (s : State) (k : Nat) (d : TblDecl) (r : LearnReq) (rs : List LearnReq) (e : TEnt), live s = true ∧ tblDecl s
      k = some d ∧ mgetD s.tab.queue k [] = r :: rs ∧ r.move = true ∧ learnEntry s d r.key = some e ∧ e.action % 1024
      = r.port) ∧
    (∃ (s : State) (k : Nat) (d : TblDecl) (r : LearnReq) (rs : List LearnReq) (e : TEnt), live s = true ∧ tblDecl s
      k = some d ∧ mgetD s.tab.queue k [] = r :: rs ∧ r.move = true ∧ learnEntry s d r.key = some e ∧ e.action % 1024
      ≠ r.port ∧ e.static = false ∧ inHoldoff (setQueue s k rs) k r = false ∧ learnedOn (setQueue s k rs) r.port <
      learnLimit (setQueue s k rs) r.port) ∧
    (∃ (s : State) (k : Nat) (d : TblDecl), live s = true ∧ k < 256 ∧ tblDecl s k = some d ∧ d.kind = 1 ∧ rd s
      (R.fwdTblAgeAgeMs k) ≠ 0 ∧ (mgetD s.tab.age k ⟨0, uptime s, 0⟩).next < 2 ^ d.sizeLog2) :=
  ⟨⟨st .serve [(R.cmsStatRestoring 3, 1)], 3, by decide +kernel⟩,
  ⟨st .serve [], 3, 31, 4095, by decide +kernel⟩,
  ⟨st .serve [], 3, 31, 4095, by decide +kernel⟩,
  ⟨sTab [] [⟨false, 77, 5, 0, 0, 0⟩], sPlaced, 3, dEm, ⟨false, 77, 5, 0, 0, 0⟩, [], by decide +kernel⟩,
  ⟨sMove 9, 3, dEm, ⟨true, 77, 9, 0, 0, 0⟩, [], ent77, by decide +kernel⟩,
  ⟨sMove 5, 3, dEm, ⟨true, 77, 5, 0, 0, 0⟩, [], ent77, by decide +kernel⟩,
  ⟨(let s := sMove 5; { s with regs := (wr s (R.fwdTblAgeAgeMs 3) 1000).regs }), 3, dEm, by decide +kernel⟩⟩

theorem witness_ContinuitySweepsAndReads :
    (∃ (s : State) (k q b : Nat) (sh : List Byte) (hurt : List (Nat × Nat)) (d : TblDecl), live s = true ∧ k < 257 ∧
      tblDecl s k = some d ∧ rd s (R.conTblPeriodMs k) ≠ 0 ∧ mget s.tab.conSweep k = none ∧ rd s (R.conShadowAddr k)
      ≠ 0 ∧ b < cdiv (imageLen s d) 4096 ∧ q ∈ blockQuads s d b ∧ (q, b) ∈ hurt) ∧
    (∃ (s : State) (k q b ap : Nat) (sh : List Byte) (hurt : List Nat) (d : TblDecl) (c : ConDefer), live s = true ∧
      tblDecl s k = some d ∧ s.tab.conDefer.find? (fun c => c.tbl == k && c.quad == q && c.block == b) = some c ∧
      (s.tab.conDefer.filter (fun x => x != c)).any (fun c => c.tbl == k) = true ∧ c.seq ≤ ap ∧ hurt = [] ∧ (∀ o ∈
      blockEntries s d (4096 * b) sh (blockLen s d b) (blockLen s d b), imageBytes s d o.1 o.2 = slice sh (o.1 - 4096
      * b) o.2)) ∧
    (∃ (s : State) (k q b ap : Nat) (sh : List Byte) (hurt : List Nat) (d : TblDecl) (c : ConDefer), live s = true ∧
      tblDecl s k = some d ∧ s.tab.conDefer.find? (fun c => c.tbl == k && c.quad == q && c.block == b) = some c ∧
      (s.tab.conDefer.filter (fun x => x != c)).any (fun c => c.tbl == k) = true ∧ ap < c.seq ∧
      s.tab.conUnver.contains (k, q, b) = false) ∧
    (∃ (s : State) (h : CmdHdr) (k o n : Nat) (d : TblDecl), live s = true ∧ ByCore h ∧ tblDecl s k = some d ∧ o + n
      ≤ imageLen s d ∧ n ≤ 208) ∧
    (∃ (s : State) (h : CmdHdr) (k o n : Nat) (d : TblDecl), live s = true ∧ ByCore h ∧ tblDecl s k = some d ∧
      imageLen s d < o + n) :=
  ⟨⟨sTab [(R.conTblPeriodMs 2, 1), (R.conShadowAddr 2, 4096)] [], 2, 0, 0, [], [(0, 0)], dDir, by decide +kernel⟩,
  ⟨sCon, 4, 0, 0, 5, imageBytes sCon dWide 0 4096, [], dWide, ⟨4, 0, 0, 5, 0⟩, by decide +kernel, (by decide +kernel),
    by decide +kernel, (by decide +kernel), by decide +kernel, rfl, wide_reads⟩,
  ⟨sCon, 4, 0, 0, 4, [], [], dWide, ⟨4, 0, 0, 5, 0⟩, by decide +kernel⟩,
  ⟨sTab [] [], h33, 2, 3888, 208, dDir, by decide +kernel⟩,
  ⟨sTab [] [], h33, 2, 3888, 209, dDir, by decide +kernel⟩⟩

/-- A memory map with a flow table of 2^10 slots and one cache unit a quadrant, and a flow layout. -/
def memMap10 : SecS := ⟨2, 0, 0, blob 0x40 [(0, 10), (8, 1), (16, 1), (24, 1), (32, 1)]⟩
def layout1 : SecS := ⟨7, 0, 0, blob 0x20 [(8, 1), (12, 2), (16, 3), (20, 4)]⟩

/-- A flow table with every logical channel of a quadrant's stack served; key 5 lives there. -/
def homeQ : Nat := homeOfKey (withSecs [layout1] State.reset) 5
def channels (q : Nat) : List (Fld × Nat) :=
  ((List.range 62).map (fun p => [(R.hbmPcRole q p, 0), (R.hbmPcLogical q p, p)])).flatten
def sFlow (l : List (Fld × Nat)) : State :=
  withSecs [portMap5, memMap10, layout1] (st .serve (channels homeQ ++ l))

/-- The record of key 5, and a cache line that holds it. -/
def rec5 : Nat := 5 + 2 ^ 320
def line5 : Nat := lineKey homeQ (setOf (sFlow []) homeQ 5) 0
def slot5 : Nat := 4 * fb0 (sFlow []) 5
def lineS5 : LineS := ⟨5, .clean, rec5, false, 0, slot5, [], .none, 0⟩
def withLine (x : LineS) (s : State) : State := { s with flo := { s.flo with lines := [(line5, x)] } }

/-- The state a placing leaves. -/
def placedAt : PlaceAns → Option (Nat × State)
  | .at x s => some (x, s)
  | _ => none
def placed5 : Nat × State := (placedAt (placePair (sFlow []) (homeOfKey (sFlow []) (recKey rec5)) rec5)).getD (0, State.reset)
theorem placed5_isAt : placedAt (placePair (sFlow []) (homeOfKey (sFlow []) (recKey rec5)) rec5) = some placed5 := by
  decide +kernel
theorem at_of_placedAt (a : PlaceAns) (p : Nat × State) (h : placedAt a = some p) : a = .at p.1 p.2 := by
  cases a <;> simp only [placedAt, Option.some.injEq, reduceCtorEq] at h
  subst h; rfl

/-- A pin of key 5 that waits for its line. -/
def wait5 : FlowWait := ⟨[], 32, none, 5, .pin⟩

/-- A setup task at its dispatcher. -/
def setup5 : TaskS := ⟨0, homeQ, 0, 8, 0, 0, false, 0, 0, [], [], some line5, none, none, false, false, 0, [], none, false, none⟩

/-- Microcode of class 0 for every kind, on group 0 of quadrant 3. -/
def ucode0 : SecS := ⟨8, 0, 0, blob 0x40 [(3, 0x1F), (0x0E, 2)]⟩
def sSweep (l : List (Fld × Nat)) : State :=
  withSecs [memMap10, layout1, ucode0] (st .serve ([(R.engGrpStatState 3 0, 1), (R.fltAgeCfgPeriodS 3, 1)] ++ l))
def sweepTask (args : List Nat) : TaskS :=
  ⟨1, 3, 0, 8, 2, 0, false, 0, 0, args, [], none, none, none, false, false, 0, [], none, false, none⟩
/-- A running task that repairs bucket 9. -/
def repair9 : TaskS :=
  ⟨2, 3, 0, 8, 2, 0, false, 0, 0, [9], [], none, some 1, none, false, false, 0, [], none, false, none⟩
def removal1 : RemovalS := ⟨4, 9, 0, [0, 0, 0, 128], true⟩

theorem witness_FlowCommandsAreDecided :
    (∃ (s : State) (h : CmdHdr) (key k : Nat), live s = true ∧ ByCore h ∧ modeIn s commandModes = true ∧ k = clrBit
      (key % 2 ^ 320) 31 ∧ keyFilling s k = true) ∧
    (∃ (s : State) (h : CmdHdr) (key k l r : Nat) (x : LineS), live s = true ∧ ByCore h ∧ modeIn s commandModes =
      true ∧ k = clrBit (key % 2 ^ 320) 31 ∧ keyFilling s k = false ∧ findLine s (homeOfKey s k) k = some (l, x) ∧
      mget s.flo.lines l = some x ∧ primaryOf s k = some r ∧ recPin r = false ∧ pinRoom s (homeOfKey s k) (setOf s
      (homeOfKey s k) k) = true) ∧
    (∃ (s : State) (h : CmdHdr) (key k l r : Nat) (x : LineS), live s = true ∧ ByCore h ∧ modeIn s commandModes =
      true ∧ k = clrBit (key % 2 ^ 320) 31 ∧ keyFilling s k = false ∧ findLine s (homeOfKey s k) k = some (l, x) ∧
      mget s.flo.lines l = some x ∧ primaryOf s k = some r ∧ recPin r = true ∧ recSched r = false) ∧
    (∃ (s : State) (h : CmdHdr) (key k r : Nat), live s = true ∧ ByCore h ∧ modeIn s commandModes = true ∧ k = clrBit
      (key % 2 ^ 320) 31 ∧ keyFilling s k = false ∧ primaryOf s k = some r ∧ recKey r = k) ∧
    (∃ (s : State) (h : CmdHdr) (key k : Nat), live s = true ∧ ByCore h ∧ modeIn s commandModes = true ∧ k = clrBit
      (key % 2 ^ 320) 31 ∧ keyFilling s k = false ∧ primaryOf s k = none) ∧
    (∃ (s u : State) (h : CmdHdr) (record r x : Nat), live s = true ∧ ByCore h ∧ modeIn s commandModes = true ∧ r =
      setBit record 320 ∧ recKey r = recKey record ∧ keyFilling s (recKey r) = false ∧ recordNow s (homeOfKey s
      (recKey r)) (recKey r) = none ∧ createOk r = true ∧ recPin r = false ∧ recSched r = false ∧ recBal r = false ∧
      placePair s (homeOfKey s (recKey r)) r = .at x u) ∧
    (∃ (s u : State) (i : Nat) (w : FlowWait), live s = true ∧ s.flo.waiting[i]? = some w ∧ keyFilling s w.matched =
      false ∧ 32 ≤ w.mbx ∧ w.mbx < 64 ∧ u = { s with flo := { s.flo with waiting := s.flo.waiting.eraseIdx i } }) :=
  ⟨⟨withLine { lineS5 with st := .filling } (sFlow []), h33, 5 + 2 ^ 31, 5, by decide +kernel⟩,
  ⟨withLine lineS5 (sFlow [(R.fltPinStatPinLimit homeQ, 1)]), h33, 5 + 2 ^ 31, 5, line5, rec5, lineS5,
    by decide +kernel⟩,
  ⟨withLine { lineS5 with content := setBit rec5 388, pinned := true } (sFlow []), h33, 5, 5, line5, setBit rec5 388,
    { lineS5 with content := setBit rec5 388, pinned := true }, by decide +kernel⟩,
  ⟨withLine lineS5 (sFlow []), h33, 5, 5, rec5, by decide +kernel⟩,
  ⟨sFlow [], h33, 5, 5, by decide +kernel⟩,
  (by refine ⟨sFlow [], placed5.2, h33, rec5, rec5, placed5.1, ?_⟩; (iterate 11 refine ⟨by decide +kernel, ?_⟩);
        exact (at_of_placedAt _ _ placed5_isAt)),
  ⟨(let s := sFlow []; { s with flo := { s.flo with waiting := [wait5] } }), sFlow [], 0, wait5, by decide +kernel⟩⟩

theorem witness_MissesAndWritebacksResolve :
    (∃ (s : State) (l q a : Nat) (x : LineS) (sl : _), live s = true ∧ mget s.flo.lines l = some x ∧ x.st = .filling
      ∧ x.miss = .b0 ∧ x.hold = [] ∧ q = lineQuad l ∧ q < 4 ∧ a = slotAddr s q (4 * fb0 s x.key) ∧ badRange s q a 512
      = false ∧ slotIn s q (fb0 s x.key) x.key = some sl) ∧
    (∃ (s : State) (l q a : Nat) (x : LineS), live s = true ∧ mget s.flo.lines l = some x ∧ x.st = .filling ∧ x.miss
      = .b0 ∧ x.hold = [] ∧ q = lineQuad l ∧ q < 4 ∧ a = slotAddr s q (4 * fb0 s x.key) ∧ badRange s q a 512 = true ∧
      quarantined s q (fb0 s x.key) = false ∧ rdB s (R.fltQuarValid q 0) = false) ∧
    (∃ (s : State) (i : Nat) (v : VictimS), live s = true ∧ s.flo.victims[i]? = some v ∧ ((s.flo.victims.take
      i).filter (fun x => x.quad == v.quad)).length < 256 ∧ (∀ e ∈ s.flo.lines, e.2.miss ≠ .victim)) ∧
    (∃ (s : State) (i l : Nat) (d : TaskS) (x : LineS), live s = true ∧ mget s.eng.tasks i = some d ∧ d.kind = 0 ∧
      d.flag = none ∧ d.ctx = none ∧ d.admitted = false ∧ d.placed = none ∧ d.line = some l ∧ d.quad < 4 ∧ mget
      s.flo.lines l = some x ∧ x.hold = [] ∧ d.since + 1000 * rd s (R.fltSetupCfgLimitUs d.quad) ≤ uptime s) :=
  ⟨⟨withLine { lineS5 with st := .filling, miss := .b0 } (writeSlot (sFlow []) homeQ slot5 rec5), line5, homeQ,
    slotAddr (sFlow []) homeQ slot5, { lineS5 with st := .filling, miss := .b0 }, slot5, by decide +kernel⟩,
  ⟨(let s := withLine { lineS5 with st := .filling, miss := .b0 } (sFlow []); setMark s homeQ (slotAddr s homeQ slot5
    / 64)), line5, homeQ, slotAddr (sFlow []) homeQ slot5, { lineS5 with st := .filling, miss := .b0 },
    by decide +kernel⟩,
  ⟨(let s := sFlow []; { s with flo := { s.flo with victims := [⟨homeQ, slot5, 5, rec5⟩] } }), 0, ⟨homeQ, slot5, 5,
    rec5⟩, by decide +kernel⟩,
  ⟨(let s := withLine { lineS5 with st := .filling, miss := .setup } (sFlow []);
    { s with eng := { s.eng with tasks := [(7, setup5)], inq := [(homeQ, [7])] } }), 7, line5, setup5,
    { lineS5 with st := .filling, miss := .setup }, by decide +kernel⟩⟩

theorem witness_SweepsArePostedAndBucketsRepaired :
    (∃ (s : State) (quad : Nat) (d : TaskS), live s = true ∧ quad < 4 ∧ dispMode s = 1 ∧ mget s.flo.sweep quad = none
      ∧ rd s (R.fltAgeCfgPeriodS quad) ≠ 0 ∧ 0 < recSlots s ∧ sweepMay s quad = true ∧ kindTask s quad 1 [0, 4096,
      flowTick s] = some d ∧ taskRoom s d = true) ∧
    (∃ (s : State) (quad i : Nat) (w : RemovalS) (d : TaskS), live s = true ∧ quad < 4 ∧ dispMode s = 1 ∧
      s.flo.removal[i]? = some w ∧ w.started = true ∧ w.next.getD quad 0 < recSlots s ∧ sweepMay s quad = true ∧
      kindTask s quad 1 [w.next.getD quad 0, 4096, 2 ^ 63 + w.backend * 2 ^ 16 + w.service] = some d ∧ taskRoom s d =
      true) ∧
    (∃ (s : State) (quad i g : Nat) (d : TaskS), live s = true ∧ quad < 4 ∧ i < 64 ∧ dispMode s = 1 ∧ mgetD s.eng.inq
      quad [] = [] ∧ (∀ j, j < 64 → rdB s (R.fltQuarValid quad j) = (j == i)) ∧ s.eng.tasks.any (fun e => repairOf
      quad (rd s (R.fltQuarBucket quad i)) e.2) = false ∧ kindTask s quad 2 [rd s (R.fltQuarBucket quad i), 0, 0] =
      some d ∧ routeGroup s d = some g ∧ grpRoom s g d = true) ∧
    (∃ (s : State) (quad i k : Nat) (d : TaskS) (bad : List Nat), live s = true ∧ quad < 4 ∧ i < 64 ∧ rdB s
      (R.fltQuarValid quad i) = true ∧ repairRuns s quad (rd s (R.fltQuarBucket quad i)) = some (k, d) ∧ mget
      s.eng.tasks k = some d) :=
  ⟨⟨sSweep [], 3, sweepTask [0, 4096, 0], by decide +kernel⟩,
  ⟨(let s := sSweep []; { s with flo := { s.flo with removal := [removal1] } }), 3, 0, removal1, sweepTask [128,
    4096, 2 ^ 63 + 9 * 2 ^ 16 + 4], by decide +kernel⟩,
  ⟨sSweep [(R.fltQuarValid 3 63, 1), (R.fltQuarBucket 3 63, 9)], 3, 63, 24,
    { sweepTask [9, 0, 0] with kind := 2, entry := fieldLe ucode0.bytes 0x10 2 % 16384, prio := fieldLe ucode0.bytes 0x14 1 % 8 },
    by decide +kernel⟩,
  ⟨(let s := sSweep [(R.fltQuarValid 3 63, 1), (R.fltQuarBucket 3 63, 9), (R.fltQuarValid 3 0, 1)];
    { s with eng := { s.eng with tasks := [(7, repair9)] } }), 3, 63, 7, repair9, [], by decide +kernel⟩⟩

/-- Group 7 of quadrant 3 serves class 0 beside group 6; context 63 of it runs task 7. -/
def ctx7 : CtxS := ⟨7, 0, [0, 0, 0, 0, 0, 0, 0, 0], false, false, false, false, [], false, false, none, .no, [], false, none, none, false, none⟩
def task7 : TaskS := ⟨4, 3, 0, 31, 0, 2, false, 9, 0, [1, 2, 3], [], none, some 2047, none, false, false, 0, [], none, false, none⟩
def withEng (f : EngS → EngS) (s : State) : State := { s with eng := f s.eng }
def serving (l : List (Fld × Nat)) : List (Fld × Nat) := [(R.engGrpStatState 3 6, 1), (R.engGrpStatState 3 7, 1)] ++ l
def sEng (l : List (Fld × Nat)) : State := withSecs [memMap10, layout1, ucode0] (st .serve (channels 3 ++ serving l))
def running (x : CtxS) (d : TaskS) (s : State) : State :=
  withEng (fun e => { e with ctxs := [(2047, x)], tasks := [(7, d)], nextTask := 8 }) s

/-- Task 7 at the input of its dispatcher, and in the queue of group 7. -/
def input (d : TaskS) (s : State) : State :=
  withEng (fun e => { e with inq := [(3, [7])], tasks := [(7, { d with ctx := none })], nextTask := 8 }) s
def queued (d : TaskS) (s : State) : State :=
  withEng (fun e => { e with queues := [(8 * 31 + 2, [7])], tasks := [(7, { d with ctx := none })], nextTask := 8 }) s

/-- A control store with one word at address 5: nothing but its ALU operations. -/
def word1 : Nat := 2 ^ 64 * 0x1234 + 2 ^ 96 * 0x2345
def store1 : StoreS := ⟨[(5, word1)], 6, 7, 0, 0, [0, 0, 0], [(4, 2 ^ 14)], false⟩
def withStore (s : State) : State := withEng (fun e => { e with store := [(31, store1)] }) s

/-- Another context of the engine of context 63 is ready and comes before it in the round. -/
def notInTurn (s : State) : State := withEng (fun e => { e with ctxs := (2044, ctx7) :: e.ctxs }) s

/-- A flow-table operation of context 63 on the record of key 5, whose line is given. -/
def handle5 : Nat := homeQ * 2 ^ 27 + slot5
def fopM (fop : Nat) (data : List Byte) : MemOpS := ⟨1, 1, 2, 0, fop + handle5 * 256, 4, 0, 0, data, 1, none, 0, false⟩
def sFop0 (l : List (Fld × Nat)) : State := withSecs [memMap10, layout1, ucode0] (st .serve (channels homeQ ++ serving l))
def sFop (m : MemOpS) (ln : LineS) (l : List (Fld × Nat)) : State :=
  running { ctx7 with mem := some m } task7 (withLine ln (writeSlot (sFop0 l) homeQ slot5 rec5))
def lineWith (r : Nat) (p : Bool) : LineS := { lineS5 with content := r, pinned := p }

/-- A place of the record of key 6. -/
def rec6 : Nat := 6 + 2 ^ 320
def placeM : MemOpS := fopM 1 (toLe 128 rec6)
def sPlace : State := sFop placeM lineS5 []
def placed6 : Nat × State := (placedAt (placeRec sPlace (homeOfKey sPlace (recKey rec6)) rec6)).getD (0, State.reset)
theorem placed6_isAt : placedAt (placeRec sPlace (homeOfKey sPlace (recKey rec6)) rec6) = some placed6 := by
  decide +kernel

/-- An ordered task in domain 9 behind another. -/
def ordered7 : TaskS := { task7 with ordered := true, ctx := none, admitted := true, seq := 1 }
def sOrd : State :=
  withEng (fun e => { e with tasks := [(7, ordered7)], queues := [(8 * 31 + 2, [7])], doms := [(domKey 3 9, (2, 0))], rel := [(relKey 3 9 0, .pending), (relKey 3 9 1, .pending)] }) (sEng [])

/-- A task descriptor for class 0, entry 1. -/
def desc1 : List (Fld × Nat) := [(R.tskPostBytes 3 7 0, 1), (R.tskPostBytes 3 7 1, 7)]

theorem no_queued (s : State) (g : Nat) (P : Nat → TaskS → Prop)
    (h : grpTasks s g ++ mgetD s.eng.affWait g [] = []) :
    ∀ i ∈ grpTasks s g ++ mgetD s.eng.affWait g [], ∀ d, mget s.eng.tasks i = some d → P i d := by
  rw [h]; intro i hi; cases hi
theorem kills_of (s : State) (g : Nat)
    (h : ∀ c ∈ grpCtxs s g, (ctxTask s c).all (fun p => p.2.kind != 0 && !p.2.ordered) = true) :
    ∀ c x d, c ∈ grpCtxs s g → ctxTask s c = some (x, d) → d.kind ≠ 0 ∧ d.ordered = false := by
  intro c x d hc he
  have := h c hc
  rw [he] at this
  simpa using this

theorem witness_TasksAreAdmittedAndDispatched :
    (∃ (s : State) (q i g : Nat) (d : TaskS), live s = true ∧ q < 4 ∧ dispMode s = 1 ∧ (∀ j, j < 64 → rdB s
      (R.fltQuarValid q j) = true → s.eng.tasks.any (fun e => repairOf q (rd s (R.fltQuarBucket q j)) e.2) = true) ∧
      admitNext s q = some i ∧ mget s.eng.tasks i = some d ∧ routeGroup s d = some g ∧ grpRoom s g d = true ∧
      d.ordered = false) ∧
    (∃ (s : State) (q i g : Nat) (d : TaskS), live s = true ∧ q < 4 ∧ dispMode s = 1 ∧ (∀ j, j < 64 → rdB s
      (R.fltQuarValid q j) = true → s.eng.tasks.any (fun e => repairOf q (rd s (R.fltQuarBucket q j)) e.2) = true) ∧
      admitNext s q = some i ∧ mget s.eng.tasks i = some d ∧ routeGroup s d = some g ∧ grpRoom s g d = true ∧
      d.ordered = true ∧ domOut s q d.domain ≠ 1024) ∧
    (∃ (s : State) (q k c i : Nat) (is : List Nat) (d : TaskS), live s = true ∧ q < 4 ∧ k < 8 ∧ dispMode s = 1 ∧
      grpState s (grpOf q k) = 1 ∧ rdB s (R.engGrpStatAffinity q k) = false ∧ grpTasks s (grpOf q k) = i :: is ∧ mget
      s.eng.tasks i = some d ∧ freeContext s (grpOf q k) = some c ∧ (grpStore s (grpOf q k)).std = false) :=
  ⟨⟨input task7 (sEng []), 3, 7, 30, { task7 with ctx := none }, by decide +kernel⟩,
  ⟨input { task7 with ordered := true } (sEng []), 3, 7, 31, { task7 with ctx := none, ordered := true },
    by decide +kernel⟩,
  ⟨queued task7 (sEng []), 3, 7, 1984, 7, [], { task7 with ctx := none }, by decide +kernel⟩⟩

theorem witness_MicrowordsExecute :
    (∃ (s : State) (q k c w : Nat) (x : CtxS) (d : TaskS), live s = true ∧ q < 4 ∧ k < 8 ∧ c < 64 ∧ ctxTask s (ctxOf
      q k c) = some (x, d) ∧ d.decided = none ∧ x.trapWait = none ∧ w = wordAt s (grpOf q k) x.pc ∧ PlainWord w ∧
      (x.waiting = .over ∨ (x.waiting = .no ∧ mwWait w = false)) ∧ inTurn s (ctxOf q k c) = true) ∧
    (∃ (s : State) (q k c w : Nat) (x : CtxS) (d : TaskS), live s = true ∧ q < 4 ∧ k < 8 ∧ c < 64 ∧ ctxTask s (ctxOf
      q k c) = some (x, d) ∧ d.decided = none ∧ x.trapWait = none ∧ w = wordAt s (grpOf q k) x.pc ∧ PlainWord w ∧
      inTurn s (ctxOf q k c) = false) ∧
    (∃ (s : State) (q k c w : Nat) (x : CtxS) (d : TaskS), live s = true ∧ q < 4 ∧ k < 8 ∧ c < 64 ∧ ctxTask s (ctxOf
      q k c) = some (x, d) ∧ d.decided = none ∧ x.trapWait = none ∧ w = wordAt s (grpOf q k) x.pc ∧ PlainWord w ∧
      x.waiting = .mdone ∧ x.mem = none ∧ inTurn s (ctxOf q k c) = false) ∧
    (∃ (s : State) (q k c w : Nat) (x : CtxS) (d : TaskS), live s = true ∧ q < 4 ∧ k < 8 ∧ c < 64 ∧ ctxTask s (ctxOf
      q k c) = some (x, d) ∧ d.decided = none ∧ x.trapWait = none ∧ w = wordAt s (grpOf q k) x.pc ∧ PlainWord w ∧
      x.waiting = .mdone ∧ x.mem = none ∧ inTurn s (ctxOf q k c) = true) ∧
    (∃ (s : State) (q k c : Nat), live s = true ∧ q < 4 ∧ k < 8 ∧ (mget s.eng.store (grpOf q k)).isSome = true ∧
      grpCtxs s (grpOf q k) = [] ∧ grpTasks s (grpOf q k) = [] ∧ mgetD s.eng.affWait (grpOf q k) [] = [] ∧ modeIn s
      [.load, .test, .safe] = true) :=
  ⟨⟨withStore (running { ctx7 with pc := 5 } task7 (sEng [])), 3, 7, 63, word1, { ctx7 with pc := 5 }, task7,
    by decide +kernel⟩,
  ⟨notInTurn (withStore (running { ctx7 with pc := 5 } task7 (sEng []))), 3, 7, 63, word1, { ctx7 with pc := 5 },
    task7, by decide +kernel⟩,
  ⟨notInTurn (withStore (running { ctx7 with pc := 5, waiting := .mdone } task7 (sEng []))), 3, 7, 63, word1,
    { ctx7 with pc := 5, waiting := .mdone }, task7, by decide +kernel⟩,
  ⟨withStore (running { ctx7 with pc := 5, waiting := .mdone } task7 (sEng [])), 3, 7, 63, word1,
    { ctx7 with pc := 5, waiting := .mdone }, task7, by decide +kernel⟩,
  ⟨withStore (st .load (serving [])), 3, 7, 63, by decide +kernel⟩⟩

theorem witness_MemoryOperationsComplete :
    (∃ (s : State) (q k c : Nat) (x : CtxS) (d : TaskS) (m : MemOpS), live s = true ∧ q < 4 ∧ k < 8 ∧ c < 64 ∧
      ctxTask s (ctxOf q k c) = some (x, d) ∧ x.mem = some m ∧ m.sel = none ∧ x.trapWait = none ∧ m.space = 2 ∧ m.op
      = 1 ∧ m.lbOff + m.len ≤ 8 ∧ badRange s q m.addr (64 * m.len) = false) ∧
    (∃ (s : State) (q k c r : Nat) (x : CtxS) (d : TaskS) (m : MemOpS), live s = true ∧ q < 4 ∧ k < 8 ∧ c < 64 ∧
      ctxTask s (ctxOf q k c) = some (x, d) ∧ x.mem = some m ∧ m.sel = none ∧ x.trapWait = none ∧ fopOf s (ctxOf q k
      c) 0 = some (m, d) ∧ m.lbOff + min 2 m.len ≤ 8 ∧ recValid (slotRec s (handleQuad (bits m.addr 8 29))
      (handleSlot (bits m.addr 8 29))) = true ∧ cached s (handleQuad (bits m.addr 8 29)) (recKey (slotRec s
      (handleQuad (bits m.addr 8 29)) (handleSlot (bits m.addr 8 29)))) = some r) :=
  ⟨⟨running { ctx7 with mem := some ⟨1, 2, 8, 0, 128, 4, 0, 0, [], 1, none, 0, false⟩ } task7 (sEng []), 3, 7, 63,
    { ctx7 with mem := some ⟨1, 2, 8, 0, 128, 4, 0, 0, [], 1, none, 0, false⟩ }, task7, ⟨1, 2, 8, 0, 128, 4, 0, 0,
    [], 1, none, 0, false⟩, by decide +kernel⟩,
  ⟨sFop (fopM 0 []) lineS5 [], 3, 7, 63, rec5, { ctx7 with mem := some (fopM 0 []) }, task7, fopM 0 [],
    by decide +kernel⟩⟩

theorem witness_FlowTableOperationsAnswer :
    (∃ (s : State) (q k c h : Nat) (x : CtxS) (d : TaskS) (m : MemOpS) (u : State) (r y : Nat), live s = true ∧ q < 4
      ∧ k < 8 ∧ c < 64 ∧ ctxTask s (ctxOf q k c) = some (x, d) ∧ x.mem = some m ∧ m.sel = none ∧ x.trapWait = none ∧
      h = bits m.addr 8 29 ∧ fopOf s (ctxOf q k c) 1 = some (m, d) ∧ d.abandoned = false ∧ setupTask d = false ∧
      m.len ≠ 4 ∧ r = setBit (leNat (slice m.data 0 128)) 320 ∧ recPin r = false ∧ placeRec s (homeOfKey s (recKey
      r)) r = .at y u) ∧
    (∃ (s : State) (q k c h : Nat) (x : CtxS) (d : TaskS) (m : MemOpS) (r old l : Nat) (ln : LineS), live s = true ∧
      q < 4 ∧ k < 8 ∧ c < 64 ∧ ctxTask s (ctxOf q k c) = some (x, d) ∧ x.mem = some m ∧ m.sel = none ∧ x.trapWait =
      none ∧ h = bits m.addr 8 29 ∧ fopOf s (ctxOf q k c) 2 = some (m, d) ∧ r = setBit (leNat (slice m.data 0 128))
      320 ∧ handleRec s h = some old ∧ recKey old = recKey r ∧ findLine s (handleQuad h) (recKey (putBits r 388 1
      (bits old 388 1))) = some (l, ln) ∧ mget s.flo.lines l = some ln ∧ ln.st ≠ .filling) ∧
    (∃ (s : State) (q k c h : Nat) (x : CtxS) (d : TaskS) (m : MemOpS) (r : _), live s = true ∧ q < 4 ∧ k < 8 ∧ c <
      64 ∧ ctxTask s (ctxOf q k c) = some (x, d) ∧ x.mem = some m ∧ m.sel = none ∧ x.trapWait = none ∧ h = bits
      m.addr 8 29 ∧ fopOf s (ctxOf q k c) 3 = some (m, d) ∧ bit m.addr 4 = false ∧ handleRec s h = some r ∧ recAlias
      r = false ∧ recSched r = false) ∧
    (∃ (s : State) (q k c h : Nat) (x : CtxS) (d : TaskS) (m : MemOpS) (r : _), live s = true ∧ q < 4 ∧ k < 8 ∧ c <
      64 ∧ ctxTask s (ctxOf q k c) = some (x, d) ∧ x.mem = some m ∧ m.sel = none ∧ x.trapWait = none ∧ h = bits
      m.addr 8 29 ∧ fopOf s (ctxOf q k c) 3 = some (m, d) ∧ bit m.addr 4 = false ∧ handleRec s h = some r ∧ recAlias
      r = false ∧ recSched r = true) ∧
    (∃ (s : State) (q k c h : Nat) (x : CtxS) (d : TaskS) (m : MemOpS) (r l : Nat) (ln : LineS), live s = true ∧ q <
      4 ∧ k < 8 ∧ c < 64 ∧ ctxTask s (ctxOf q k c) = some (x, d) ∧ x.mem = some m ∧ m.sel = none ∧ x.trapWait = none
      ∧ h = bits m.addr 8 29 ∧ handleRec s h = some r ∧ findLine s (homeOfKey s (recKey r)) (recKey r) = some (l, ln)
      ∧ mget s.flo.lines l = some ln ∧ fopOf s (ctxOf q k c) 4 = some (m, d) ∧ recPin r = false ∧ ln.st ≠ .filling ∧
      pinRoom s (homeOfKey s (recKey r)) (setOf s (homeOfKey s (recKey r)) (recKey r)) = true) ∧
    (∃ (s : State) (q k c h : Nat) (x : CtxS) (d : TaskS) (m : MemOpS) (r l : Nat) (ln : LineS), live s = true ∧ q <
      4 ∧ k < 8 ∧ c < 64 ∧ ctxTask s (ctxOf q k c) = some (x, d) ∧ x.mem = some m ∧ m.sel = none ∧ x.trapWait = none
      ∧ h = bits m.addr 8 29 ∧ handleRec s h = some r ∧ findLine s (homeOfKey s (recKey r)) (recKey r) = some (l, ln)
      ∧ mget s.flo.lines l = some ln ∧ fopOf s (ctxOf q k c) 5 = some (m, d) ∧ recPin r = true ∧ recSched r = false) :=
  ⟨(by refine ⟨sPlace, 3, 7, 63, handle5, { ctx7 with mem := some placeM }, task7, placeM, placed6.2, rec6,
        placed6.1, ?_⟩; (iterate 15 refine ⟨by decide +kernel, ?_⟩); exact (at_of_placedAt _ _ placed6_isAt)),
  ⟨sFop (fopM 2 (toLe 128 (rec5 + 2 ^ 384))) lineS5 [], 3, 7, 63, handle5,
    { ctx7 with mem := some (fopM 2 (toLe 128 (rec5 + 2 ^ 384))) }, task7, fopM 2 (toLe 128 (rec5 + 2 ^ 384)), rec5 +
    2 ^ 384, rec5, line5, lineS5, by decide +kernel⟩,
  ⟨sFop (fopM 3 []) lineS5 [], 3, 7, 63, handle5, { ctx7 with mem := some (fopM 3 []) }, task7, fopM 3 [], rec5,
    by decide +kernel⟩,
  ⟨sFop (fopM 3 []) (lineWith (rec5 + 2 ^ 389) false) [], 3, 7, 63, handle5, { ctx7 with mem := some (fopM 3 []) },
    task7, fopM 3 [], rec5 + 2 ^ 389, by decide +kernel⟩,
  ⟨sFop (fopM 4 []) lineS5 [(R.fltPinStatPinLimit homeQ, 1)], 3, 7, 63, handle5,
    { ctx7 with mem := some (fopM 4 []) }, task7, fopM 4 [], rec5, line5, lineS5, by decide +kernel⟩,
  ⟨sFop (fopM 5 []) (lineWith (setBit rec5 388) true) [], 3, 7, 63, handle5, { ctx7 with mem := some (fopM 5 []) },
    task7, fopM 5 [], setBit rec5 388, line5, lineWith (setBit rec5 388) true, by decide +kernel⟩⟩

theorem witness_TasksArePostedCancelledAndSignalled :
    (∃ (s : State) (r q k : Nat) (d : TaskS), live s = true ∧ isCore r = true ∧ q < 4 ∧ k < 8 ∧ dispMode s = 1 ∧ d =
      descTask s q 3 ((List.range 4).map (fun j => toLe 8 (rd s (R.tskPostBytes q k j)))).flatten ∧ bits (rd s
      (R.tskPostBytes q k 0)) 18 3 = 0 ∧ servingGroups s q d.cls ≠ [] ∧ d.entry < fieldLe (ucode s d.cls) 0 2 ∧
      taskRoom s d = true) ∧
    (∃ (s : State) (r q dom n i : Nat) (d : TaskS), live s = true ∧ isCore r = true ∧ q < 4 ∧ dom < 65536 ∧ n < 65536
      ∧ s.eng.tasks.find? (fun e => e.2.quad == q && e.2.admitted && e.2.domain == dom && e.2.seq == n &&
      !e.2.abandoned) = some (i, d) ∧ mget s.eng.tasks i = some d ∧ d.ctx = none ∧ d.kind ≠ 0 ∧ d.ordered = true ∧
      mget s.eng.rel (relKey q dom n) = some .pending ∧ (domOf s q dom).2 ≠ n ∧ mget s.eng.rel (relKey q dom (domOf s
      q dom).2) = some .pending) ∧
    (∃ (s : State) (q k c : Nat) (x : CtxS) (d : TaskS), live s = true ∧ q < 4 ∧ k < 8 ∧ c < 64 ∧ ctxTask s (ctxOf q
      k c) = some (x, d) ∧ d.kind ≠ 0 ∧ d.ordered = false ∧ d.cancel = true) ∧
    (∃ (s : State) (q k c : Nat) (x : CtxS) (d : TaskS), live s = true ∧ q < 4 ∧ k < 8 ∧ c < 64 ∧ ctxTask s (ctxOf q
      k c) = some (x, d) ∧ d.kind ≠ 0 ∧ d.ordered = false ∧ (s.eng.ctxs.map (·.1)).filter (staleCtx s) = [ctxOf q k
      c]) ∧
    (∃ (s : State) (r q k c code : Nat) (x : CtxS), live s = true ∧ isCore r = true ∧ q < 4 ∧ k < 8 ∧ c < 64 ∧ mget
      s.eng.ctxs (ctxOf q k c) = some x ∧ x.waiting = .no ∧ x.intr = []) ∧
    (∃ (s : State) (r q k i v : Nat), live s = true ∧ isCore r = true ∧ q < 4 ∧ k < 8 ∧ i < 64) ∧
    (∃ (s : State) (q k : Nat), live s = true ∧ q < 4 ∧ k < 8 ∧ rd s (R.tskFlagCfgTickUs q k) ≠ 0 ∧ dispMode s ≠ 0) :=
  ⟨⟨withSecs [memMap10, layout1, { ucode0 with bytes := blob 0x40 [(0, 2), (3, 0x1F)] }] (st .serve (serving desc1)),
    33, 3, 7, ⟨3, 3, 0, 8, 1, 0, false, 0, 0, [7, 0, 0], [], none, none, none, false, false, 0, [], none, false,
    none⟩, by decide +kernel⟩,
  ⟨sOrd, 33, 3, 9, 1, 7, ordered7, by decide +kernel⟩,
  ⟨running ctx7 { task7 with cancel := true } (sEng []), 3, 7, 63, ctx7, { task7 with cancel := true },
    by decide +kernel⟩,
  ⟨running ctx7 task7 (withSecs [memMap10] (st .safe (serving []))), 3, 7, 63, ctx7, task7, by decide +kernel⟩,
  ⟨running ctx7 task7 (sEng []), 33, 3, 7, 63, 300, ctx7, by decide +kernel⟩,
  ⟨sEng [(R.tskFlagFlags 3 7 63, 2 ^ 31)], 33, 3, 7, 63, 3, by decide +kernel⟩,
  ⟨withStore (sEng [(R.tskFlagCfgTickUs 3 7, 1)]), 3, 7, by decide +kernel⟩⟩

theorem witness_GroupsChangeState :
    (∃ (s : State) (r q k : Nat), live s = true ∧ isCore r = true ∧ q < 4 ∧ k < 8 ∧ splicedClass s = none ∧ grpState
      s (grpOf q k) = 1 ∧ hasSibling s (grpOf q k) = true ∧ grpCtxs s (grpOf q k) = [] ∧ (∀ i ∈ grpTasks s (grpOf q
      k) ++ mgetD s.eng.affWait (grpOf q k) [], ∀ d, mget s.eng.tasks i = some d → servingGroups (setGrpState s
      (grpOf q k) 2) d.quad d.cls ≠ [])) ∧
    (∃ (s : State) (r q k : Nat), live s = true ∧ isCore r = true ∧ q < 4 ∧ k < 8 ∧ splicedClass s = none ∧ grpState
      s (grpOf q k) ≠ 1) ∧
    (∃ (s : State) (r q k : Nat), live s = true ∧ isCore r = true ∧ q < 4 ∧ k < 8 ∧ splicedClass s = none ∧ grpState
      s (grpOf q k) = 3) ∧
    (∃ (s : State) (r q k : Nat) (cls : _), live s = true ∧ isCore r = true ∧ q < 4 ∧ k < 8 ∧ splicedClass s = none ∧
      cls < 8 ∧ (grpState s (grpOf q k) = 0 ∨ grpState s (grpOf q k) = 3 ∨ grpState s (grpOf q k) = 5) ∧ ucodeFor s
      cls ≠ []) ∧
    (∃ (s : State) (q k : Nat), live s = true ∧ q < 4 ∧ k < 8 ∧ grpState s (grpOf q k) = 2 ∧ splicedClass s = none ∧
      (∀ c x d, c ∈ grpCtxs s (grpOf q k) → ctxTask s c = some (x, d) → d.kind ≠ 0 ∧ d.ordered = false)) ∧
    (∃ (s : State) (q k cls : Nat), live s = true ∧ q < 4 ∧ k < 8 ∧ grpState s (grpOf q k) = 2 ∧ splicedClass s =
      some cls ∧ rd s (R.engUcodeVerClass q k) = cls ∧ s.eng.loading = [] ∧ grpCtxs s (grpOf q k) = [] ∧ mget
      s.eng.store (grpOf q k) ≠ some (storeOf (ucodeFor s cls)) ∧ (∀ g, g < 32 → g ≠ grpOf q k → grpState s g ≤ 1)) ∧
    (∃ (s : State) (q k cls : Nat), live s = true ∧ q < 4 ∧ k < 8 ∧ grpState s (grpOf q k) = 4 ∧ cls < 8 ∧
      splicedClass s = none ∧ mget s.eng.loading (grpOf q k) = some cls) ∧
    (∃ (s : State) (h : CmdHdr) (q k cls : Nat), live s = true ∧ ByCore h ∧ modeIn s commandModes = true ∧ q < 4 ∧ k
      < 8 ∧ cls < 8 ∧ splicedClass s = none ∧ grpState s (grpOf q k) = 3) ∧
    (∃ (s : State) (h : CmdHdr) (q k cls : Nat), live s = true ∧ ByCore h ∧ modeIn s commandModes = true ∧ q < 4 ∧ k
      < 8 ∧ cls < 8 ∧ splicedClass s = none ∧ grpState s (grpOf q k) ≠ 3) ∧
    (∃ (s : State) (q k : Nat), live s = true ∧ q < 4 ∧ k < 8 ∧ modeIn s [.sync, .serve, .splice, .safe] = true ∧
      splicedClass s = none ∧ grpState s (grpOf q k) = 3) :=
  ⟨(by refine ⟨sEng [], 33, 3, 7, ?_⟩; (iterate 8 refine ⟨by decide +kernel, ?_⟩); exact (no_queued _ _ _
        (by decide +kernel))),
  ⟨sEng [(R.engGrpStatState 3 7, 3)], 33, 3, 7, by decide +kernel⟩,
  ⟨withStore (sEng [(R.engGrpStatState 3 7, 3)]), 33, 3, 7, by decide +kernel⟩,
  ⟨sEng [(R.engGrpStatState 3 7, 5)], 33, 3, 7, 0, by decide +kernel⟩,
  ⟨running ctx7 task7 (sEng [(R.engGrpStatState 3 7, 2)]), 3, 7, by decide +kernel, (by decide +kernel),
    by decide +kernel, (by decide +kernel), by decide +kernel, kills_of _ _ (by decide +kernel)⟩,
  ⟨(let s := withSecs [] (st .splice [(R.engGrpStatState 3 7, 2)]);
    { s with img := { s.img with part := some ⟨[], [(10, 1)]⟩ } }), 3, 7, 0, by decide +kernel⟩,
  ⟨withEng (fun e => { e with loading := [(31, 0)] }) (sEng [(R.engGrpStatState 3 7, 4)]), 3, 7, 0,
    by decide +kernel⟩,
  ⟨sEng [(R.engGrpStatState 3 7, 3)], h33, 3, 7, 0, by decide +kernel⟩,
  ⟨sEng [(R.engGrpStatState 3 7, 2)], h33, 3, 7, 0, by decide +kernel⟩,
  ⟨sEng [(R.engGrpStatState 3 7, 3)], 3, 7, by decide +kernel⟩⟩

/-- Bytes in a stack. -/
def withMem (q a : Nat) (b : List Byte) (s : State) : State :=
  { s with hbm := { s.hbm with mem := memWrite s.hbm.mem (hkey q a) b } }
def withFlo (f : FloS → FloS) (s : State) : State := { s with flo := f s.flo }

/-- A subscriber with one block of pool 9: block 100 of address 33, bitmap slot 3, held since 0 with two ports. -/
def sub1 : SubId := ⟨2, false, 0x0A000001⟩
def subI : Nat := (subSlots sub1).headD 0
def subR (cnt : Nat) (held : Bool) : Nat :=
  sub1.addr + 2 * 2 ^ 128 + 2 ^ 142 + 9 * 2 ^ 144 + 2 ^ 160 + 2 ^ 256 * (33 + 100 * 2 ^ 20 + 3 * 2 ^ 32) +
  cnt * 2 ^ 320 + b2n held * 2 ^ 333
def pool9 : Nat := 1 + 2 * 2 ^ 8 + 64 * 2 ^ 16 + 32 * 2 ^ 32 + 2 * 2 ^ 64
def sSub (r : Nat) (l : List (Fld × Nat)) : State :=
  let s := withSecs [memMap10, layout1] (st .serve (channels (subHome sub1) ++ l))
  let s := withMem (subHome sub1) (subAddr s (subHome sub1) subI) (toLe 256 r) s
  let s := withMem (subHome sub1) (mapAddr s (subHome sub1) 3) [2] s
  withFlo (fun f => { f with pools := [(9, pool9)], maps := [subHome sub1 * 2 ^ 20 + 3] }) s

/-- Service 65,535 with four backends from entry 8 on; backend 2 is in the given state. -/
def svc3 : Nat := 1 + 4 * 2 ^ 16 + 8 * 2 ^ 64
def sSvc (state : Nat) : State :=
  let s := withSecs [memMap10, layout1] (st .serve (channels 3 ++ [(R.hbmMapBaseMib 3 1, 1024)]))
  let s := withMem 3 (svcAddr s 65535) (toLe 32 svc3) s
  withMem 3 (bkAddr s 65535 10) (toLe 32 (state * 2 ^ 144 + 5 * 2 ^ 224)) s
def removal2 (started : Bool) : RemovalS := ⟨65535, 2, 0, [256, 256, 256, 256], started⟩

/-- An export record 100 ms old, and the registers that turn export on. -/
def exp1 : Nat × Bool × List Byte := (0, false, List.replicate 81 7)
def sExp (mtu : Nat) : State :=
  let s := st .load [(R.fltTelCfgExportEn, 1), (R.fltTelHdrCfgHdrLen, 42), (R.fltTelPortMtu, mtu), (R.timUptimeNs, 10 ^ 8), (R.fltTelSeqSeq 3, 2 ^ 32 - 1), (R.timStatValid, 1)]
  withFlo (fun f => { f with expBuf := [(3, [exp1])] }) s

theorem witness_PortsAreAllocatedAndReleased :
    (∃ (s : State) (u : SubId) (pool task i r j o : Nat), live s = true ∧ u.vrf < 2 ^ 14 ∧ u.addr < 2 ^ 128 ∧ pool <
      4096 ∧ subFind s u = some i ∧ r = subRec s (subHome u) i ∧ 0 < subBlocks r ∧ subPool r = pool ∧ heldPort s
      (poolEnt s pool) (subHome u) r = some (j, o)) ∧
    (∃ (s : State) (u : SubId) (pool task i : Nat), live s = true ∧ u.vrf < 2 ^ 14 ∧ u.addr < 2 ^ 128 ∧ pool < 4096 ∧
      subFind s u = some i ∧ 0 < subBlocks (subRec s (subHome u) i) ∧ subPool (subRec s (subHome u) i) ≠ pool) ∧
    (∃ (s : State) (e : Nat) (x : TentS), live s = true ∧ s.flo.tentative[e]? = some x ∧ x.since + 20000 ≤ uptime s)
      ∧
    (∃ (s : State) (u : SubId) (index port i r p j m o : Nat), live s = true ∧ u.vrf < 2 ^ 14 ∧ u.addr < 2 ^ 128 ∧
      subFind s u = some i ∧ r = subRec s (subHome u) i ∧ p = poolEnt s (subPool r) ∧ (List.range (subBlocks
      r)).find? (fun j => bits r (subBlk j) 20 == index && decide (blockPort s p (bits r (subBlk j + 20) 10) ≤ port)
      && decide (port < blockPort s p (bits r (subBlk j + 20) 10) + poolSize p)) = some j ∧ m = bits r (subBlk j +
      32) 20 ∧ o = port - blockPort s p (bits r (subBlk j + 20) 10) ∧ bit (mapBits s (subHome u) m) o = true ∧ 2 ≤
      bits r (subBlk j + 64) 13 ∧ NoDead s (subHome u) ∧ plainArea s (subHome u) (mapAddr s (subHome u) m) 512 =
      true) ∧
    (∃ (s : State) (q i : Nat), live s = true ∧ q < 4 ∧ listedSubs s q = [i] ∧ bit (subRec s q i) 142 = true ∧
      subBlocks (subRec s q i) = 1 ∧ holdOver s (subRec s q i) 0 = true) :=
  ⟨⟨sSub (subR 2 false) [], sub1, 9, 7, subI, subR 2 false, 0, 2, by decide +kernel⟩,
  ⟨sSub (subR 2 false) [], sub1, 8, 7, subI, by decide +kernel⟩,
  ⟨withFlo (fun f => { f with tentative := [⟨subHome sub1, subI, 33, 6401, 0, 7⟩] }) (sSub (subR 2 false)
    [(R.timUptimeNs, 20000)]), 0, ⟨subHome sub1, subI, 33, 6401, 0, 7⟩, by decide +kernel⟩,
  ⟨sSub (subR 2 false) [], sub1, 33, 6401, subI, subR 2 false, pool9, 0, 3, 1, by decide +kernel⟩,
  ⟨sSub (subR 0 true) [], subHome sub1, subI, by decide +kernel⟩⟩

theorem witness_ServicesAndBackendsAreSet :
    (∃ (s : State) (h : CmdHdr) (sv policy seed pool max base : Nat) (hp : Bool), live s = true ∧ ByCore h ∧ modeIn s
      commandModes = true ∧ isCrew s = false ∧ sv < 65536 ∧ policy < 3 ∧ max ≤ 4096 ∧ (svcDefined (svcEnt s sv) =
      true → svcMax (svcEnt s sv) = max) ∧ svcSeed (svcEnt s sv) = seed % 2 ^ 32 ∧ (if svcDefined (svcEnt s sv) then
      some (svcBase (svcEnt s sv)) else if max = 0 then some 0 else backendRun s (svcHome sv) max) = some base ∧
      NoDead s (svcHome sv) ∧ plainArea s (svcHome sv) (svcAddr s sv) 32 = true) ∧
    (∃ (s : State) (h : CmdHdr) (sv policy seed pool max : Nat) (hp : Bool), live s = true ∧ ByCore h ∧ modeIn s
      commandModes = true ∧ isCrew s = false ∧ 65536 ≤ sv ∧ policy < 3 ∧ max ≤ 4096) ∧
    (∃ (s : State) (h : CmdHdr) (sv : Nat), live s = true ∧ ByCore h ∧ modeIn s commandModes = true ∧ isCrew s =
      false ∧ sv < 65536 ∧ NoDead s (svcHome sv) ∧ plainArea s (svcHome sv) (svcAddr s sv) 32 = true ∧ (svcDefined
      (svcEnt s sv) = false ∨ (List.range (svcMax (svcEnt s sv))).all (fun i => bkState (bkEnt s sv i) == 0) = true))
      ∧
    (∃ (s : State) (h : CmdHdr) (sv i addr port zone weight : Nat), live s = true ∧ ByCore h ∧ modeIn s commandModes
      = true ∧ isCrew s = false ∧ sv < 65536 ∧ svcDefined (svcEnt s sv) = true ∧ i < svcMax (svcEnt s sv) ∧ (bkState
      (bkEnt s sv i) = 1 ∨ bkState (bkEnt s sv i) = 2) ∧ s.flo.removal = []) ∧
    (∃ (s : State) (h : CmdHdr) (sv i addr port zone weight want : Nat) (v6 : Bool), live s = true ∧ ByCore h ∧
      modeIn s commandModes = true ∧ isCrew s = false ∧ sv < 65536 ∧ svcDefined (svcEnt s sv) = true ∧ i < svcMax
      (svcEnt s sv) ∧ bkState (bkEnt s sv i) = 3) ∧
    (∃ (s : State) (i : Nat) (w : RemovalS), live s = true ∧ s.flo.removal[i]? = some w ∧ w.since + 20000 ≤ uptime s)
      ∧
    (∃ (s : State) (i : Nat) (w : RemovalS), live s = true ∧ s.flo.removal[i]? = some w ∧ w.started = true ∧
      w.next.all (fun n => decide (recSlots s ≤ n)) = true ∧ removalTasks s w = 0 ∧ w.service < 65536 ∧ NoDead s
      (svcHome w.service) ∧ plainArea s (svcHome w.service) (bkAddr s w.service (svcBase (svcEnt s w.service) +
      w.backend)) 32 = true) :=
  ⟨⟨withSecs [memMap10, layout1] (st .serve (channels 3)), h33, 65535, 2, 2 ^ 32, 4095, 4096, 0, true,
    by decide +kernel⟩,
  ⟨st .serve [], h33, 65536, 2, 0, 0, 4096, true, by decide +kernel⟩,
  ⟨sSvc 0, h33, 65535, by decide +kernel⟩,
  ⟨sSvc 2, h33, 65535, 2, 0x0A000001, 80, 0, 0, by decide +kernel⟩,
  ⟨sSvc 3, h33, 65535, 2, 0x0A000001, 80, 0, 5, 1, true, by decide +kernel⟩,
  ⟨withFlo (fun f => { f with removal := [removal2 false] }) (st .serve [(R.timUptimeNs, 20000)]), 0, removal2 false,
    by decide +kernel⟩,
  ⟨withFlo (fun f => { f with removal := [removal2 true] }) (sSvc 3), 0, removal2 true, by decide +kernel⟩⟩

theorem witness_PoolsAndClassesAreSet :
    (∃ (s : State) (h : CmdHdr) (pool entry : Nat) (addrs : List Nat), live s = true ∧ ByCore h ∧ modeIn s
      commandModes = true ∧ pool < 4096 ∧ poolOk s entry addrs = true ∧ poolRoom s (poolEnt s pool) entry = true ∧
      poolBusy s (poolEnt s pool) = false) ∧
    (∃ (s : State) (h : CmdHdr) (pool entry : Nat) (addrs : List Nat), live s = true ∧ ByCore h ∧ modeIn s
      commandModes = true ∧ pool < 4096 ∧ poolOk s entry addrs = false) ∧
    (∃ (s : State) (h : CmdHdr) (pool entry : Nat) (addrs : List Nat), live s = true ∧ ByCore h ∧ modeIn s
      commandModes = true ∧ pool < 4096 ∧ bit (poolEnt s pool) 0 = true ∧ poolBusy s (poolEnt s pool) = false) ∧
    (∃ (s : State) (h : CmdHdr) (pool entry : Nat) (addrs : List Nat), live s = true ∧ ByCore h ∧ modeIn s
      commandModes = true ∧ pool < 4096 ∧ poolBusy s (poolEnt s pool) = true) ∧
    (∃ (s : State) (h : CmdHdr) (pool entry : Nat) (addrs : List Nat), live s = true ∧ ByCore h ∧ modeIn s
      commandModes = true ∧ poolOk s entry addrs = true ∧ (4096 ≤ pool ∨ poolRoom s (poolEnt s pool) entry = false))
      ∧
    (∃ (s : State) (h : CmdHdr) (c rate burst : Nat), live s = true ∧ ByCore h ∧ modeIn s commandModes = true ∧ c <
      65536) :=
  ⟨⟨st .serve (channels 0 ++ channels 1), h33, 4095, pool9, [7, 8], by decide +kernel⟩,
  ⟨st .serve [], h33, 4095, pool9, [7], by decide +kernel⟩,
  ⟨withFlo (fun f => { f with pools := [(4095, pool9)], rewrite := [(32, 7), (33, 8), (34, 9)] }) (st .serve
    (channels 0 ++ channels 1)), h33, 4095, 0, [], by decide +kernel⟩,
  ⟨withMem 1 (256 * 8) (toLe 256 (2 ^ 144)) (withFlo (fun f => { f with pools := [(4095, pool9)] }) (st .serve [])),
    h33, 4095, 0, [], by decide +kernel⟩,
  ⟨st .serve [], h33, 4096, pool9, [7, 8], by decide +kernel⟩,
  ⟨st .serve [], h33, 65535, 2 ^ 32, 2 ^ 16 - 1, by decide +kernel⟩⟩

theorem witness_SamplesReturnAndExportsLeave :
    (∃ (s : State) (q slot l ln : Nat) (x : SampS) (y : LineS), live s = true ∧ q < 4 ∧ slot < 4096 ∧ mget
      s.flo.samples (q * 4096 + slot) = some x ∧ x.lat = some l ∧ findLine s q x.key = some (ln, y) ∧ mget
      s.flo.lines ln = some y ∧ y.st ≠ .filling ∧ fieldLe (sec s 7 0) 0 1 ≠ 1 ∧ rd s R.fltTelCfgHistBaseNs ≠ 0) ∧
    (∃ (s : State) (q slot l ln : Nat) (x : SampS) (y : LineS), live s = true ∧ q < 4 ∧ slot < 4096 ∧ mget
      s.flo.samples (q * 4096 + slot) = some x ∧ x.since + 10 ^ 6 ≤ uptime s) ∧
    (∃ (s : State) (q n : Nat) (e : Nat × Bool × List Byte) (es : List (Nat × Bool × List Byte)), live s = true ∧ q <
      4 ∧ modeIn s [.load, .test, .safe] = true ∧ exportOn s = true ∧ mgetD s.flo.expBuf q [] = e :: es ∧ e.1 + 10 ^
      8 ≤ uptime s ∧ n = fitCount (rd s R.fltTelHdrCfgHdrLen) (rd s R.fltTelPortMtu) ((e :: es).map (·.2)) ∧ n ≠ 0) ∧
    (∃ (s : State) (q n : Nat) (e : Nat × Bool × List Byte) (es : List (Nat × Bool × List Byte)), live s = true ∧ q <
      4 ∧ modeIn s [.load, .test, .safe] = true ∧ exportOn s = true ∧ mgetD s.flo.expBuf q [] = e :: es ∧ e.1 + 10 ^
      8 ≤ uptime s ∧ n = fitCount (rd s R.fltTelHdrCfgHdrLen) (rd s R.fltTelPortMtu) ((e :: es).map (·.2)) ∧ n = 0) ∧
    (∃ (s : State) (q : Nat), live s = true ∧ q < 4 ∧ modeIn s [.load, .test, .safe] = true ∧ exportOn s = true ∧
      templateDue s q = true) :=
  ⟨⟨withFlo (fun f => { f with samples := [(homeQ * 4096 + 4095, ⟨5, 0, some 900⟩)] }) (withLine lineS5 (sFlow
    [(R.fltTelCfgHistBaseNs, 8)])), homeQ, 4095, 900, line5, ⟨5, 0, some 900⟩, lineS5, by decide +kernel⟩,
  ⟨withFlo (fun f => { f with samples := [(homeQ * 4096 + 4095, ⟨5, 0, some 900⟩)] }) (withLine lineS5 (sFlow
    [(R.timUptimeNs, 10 ^ 6)])), homeQ, 4095, 900, line5, ⟨5, 0, some 900⟩, lineS5, by decide +kernel⟩,
  ⟨sExp 1500, 3, 1, exp1, [], by decide +kernel⟩,
  ⟨sExp 100, 3, 0, exp1, [], by decide +kernel⟩,
  ⟨sExp 1500, 3, by decide +kernel⟩⟩

/-! Frames of the cluster agent: the tag is an opaque value, so a tagged frame is built with the tag it needs. -/

theorem slice_left (a b : List Byte) (o n : Nat) (h : o + n ≤ a.length) : slice (a ++ b) o n = slice a o n := by
  have e : ((a ++ b).drop o).take n = (a.drop o).take n := by
    rw [List.drop_append_of_le_length (by omega), List.take_append_of_le_length (by simp; omega)]
  simp [slice, e]
theorem slice_all (a b c : List Byte) (o n : Nat) (ha : a.length = o) (hb : b.length = n) :
    slice (a ++ (b ++ c)) o n = b := by
  subst ha hb
  simp [slice]
theorem fieldBe_left (a b : List Byte) (o n : Nat) (h : o + n ≤ a.length) : fieldBe (a ++ b) o n = fieldBe a o n := by
  simp [fieldBe, slice_left a b o n h]
theorem toLe_len : ∀ n v, (toLe n v).length = n
  | 0, _ => rfl
  | n + 1, v => by simp only [toLe, List.length_cons, toLe_len n]
theorem toBe_length (n v : Nat) : (toBe n v).length = n := by simp only [toBe, List.length_reverse, toLe_len]
theorem cmacBytes_length (k m : List Byte) : (cmacBytes k m).length = 16 := by
  simp only [cmacBytes, aesE, toBe_length]

/-- The state after a message's arrival is counted, and the state once it has passed its checks. -/
def counted (s : State) (p n : Nat) : State :=
  bumpBy (bump s (R.ctrPortCount p 0)) (R.ctrPortCount p 1) (n + 114)
def accepted (s : State) (p : Nat) (h : List Byte) : State :=
  let s := counted s p (bhLen h)
  let s := putPeer s (bhSrc h) (markSeq (peerOf s (bhSrc h)) (bhBoot h) (bhSeq h))
  let s := wr s (R.cluPeerBootBoot (bhSrc h)) (bhBoot h)
  bump { s with clu := { s.clu with seenTerm := max s.clu.seenTerm (bhTerm h) } } (R.cluCntCount 1)

/-- The 94 bytes of a frame up to its payload pass the checks of R372. -/
def hdrOk (s : State) (typ p : Nat) (h : List Byte) : Bool :=
  let s1 := counted s p (bhLen h)
  let s2 := putPeer s1 (bhSrc h) (markSeq (peerOf s1 (bhSrc h)) (bhBoot h) (bhSeq h))
  h.length == 94 && inCluster s && decide (p < 512) && toAgent s h && bhType h == typ && bhVer h == 1 &&
  bolvisType (bhType h) && bhCluster h == rd s1 R.cluStatClusterId && decide (bhLen h ≤ 1024) && bolvisFrom s1 p h &&
  slotLoaded s1 (cluSlot (bhEpoch h)) && !isReplay (peerOf s1 (bhSrc h)) (bhBoot h) (bhSeq h) &&
  bhLineage h == rd s2 R.imgLineageLineage

/-- The whole frame: header, payload and tag. -/
def tagged (s : State) (p : Nat) (h pl : List Byte) : List Byte :=
  h ++ (pl ++ cmacBytes (slotKey (counted s p (bhLen h)) (cluSlot (bhEpoch h))) (h.drop 62 ++ pl))
def bmsgOf (h pl : List Byte) : BMsg := ⟨bhSrc h, bhTerm h, bhBoot h, pl⟩

theorem received_of (s : State) (typ p : Nat) (h pl : List Byte) (ok : hdrOk s typ p h = true)
    (hp : pl.length = bhLen h) : Received s typ p (tagged s p h pl) (bmsgOf h pl) (accepted s p h) := by
  simp only [hdrOk, Bool.and_eq_true, beq_iff_eq, decide_eq_true_eq, Bool.not_eq_true'] at ok
  obtain ⟨⟨⟨⟨⟨⟨⟨⟨⟨⟨⟨⟨hl, h1⟩, h2⟩, h3⟩, h4⟩, h5⟩, h6⟩, h7⟩, h8⟩, h9⟩, h10⟩, h11⟩, h12⟩ := ok
  have hlen : (tagged s p h pl).length = 110 + bhLen h := by
    simp only [tagged, List.length_append, cmacBytes_length, hl, hp]; omega
  have hf : ∀ o n, o + n ≤ 94 → fieldBe (tagged s p h pl) o n = fieldBe h o n := fun o n hn =>
    fieldBe_left _ _ _ _ (by omega)
  have e1 : bhType (tagged s p h pl) = bhType h := hf _ _ (by decide)
  have e2 : toAgent s (tagged s p h pl) = toAgent s h := by
    simp only [toAgent]; rw [hf _ _ (by decide), hf _ _ (by decide), hf _ _ (by decide), hf _ _ (by decide)]
  have e3 : bhVer (tagged s p h pl) = bhVer h := hf _ _ (by decide)
  have e4 : bhSrc (tagged s p h pl) = bhSrc h := by simp only [bhSrc]; rw [hf _ _ (by decide)]
  have e5 : bhLen (tagged s p h pl) = bhLen h := hf _ _ (by decide)
  have e6 : bhCluster (tagged s p h pl) = bhCluster h := by simp only [bhCluster]; rw [hf _ _ (by decide)]
  have e7 : bhEpoch (tagged s p h pl) = bhEpoch h := hf _ _ (by decide)
  have e8 : bhSeq (tagged s p h pl) = bhSeq h := hf _ _ (by decide)
  have e9 : bhLineage (tagged s p h pl) = bhLineage h := hf _ _ (by decide)
  have e10 : bhTerm (tagged s p h pl) = bhTerm h := hf _ _ (by decide)
  have e11 : bhBoot (tagged s p h pl) = bhBoot h := hf _ _ (by decide)
  have e12 : ∀ t, bolvisFrom t p (tagged s p h pl) = bolvisFrom t p h := by
    intro t
    simp only [bolvisFrom, e4, bhAll, bhDst]
    rw [hf _ _ (by decide), hf _ _ (by decide)]
  have e13 : slice (tagged s p h pl) (94 + bhLen h) 16 =
      cmacBytes (slotKey (counted s p (bhLen h)) (cluSlot (bhEpoch h))) (h.drop 62 ++ pl) := by
    have := slice_all (h ++ pl) (cmacBytes (slotKey (counted s p (bhLen h)) (cluSlot (bhEpoch h))) (h.drop 62 ++ pl)) []
      (94 + bhLen h) 16 (by simp [hl, hp]) (cmacBytes_length _ _)
    simpa [tagged] using this
  have e14 : slice (tagged s p h pl) 62 (32 + bhLen h) = h.drop 62 ++ pl := by
    have := slice_all (h.take 62) (h.drop 62 ++ pl)
      (cmacBytes (slotKey (counted s p (bhLen h)) (cluSlot (bhEpoch h))) (h.drop 62 ++ pl))
      62 (32 + bhLen h) (by simp [hl]) (by simp [hl, hp])
    rw [← this, tagged]
    congr 1
    rw [List.append_assoc, ← List.append_assoc (h.take 62), List.take_append_drop]
  have e15 : slice (tagged s p h pl) 94 (bhLen h) = pl := slice_all h pl _ _ _ hl hp
  unfold Received bolvisCheck
  rw [if_neg (by simp [h1, e2, h3, e1, h4]; omega)]
  simp only [hlen, e1, e3, e4, e5, e6, e7, e8, e9, e10, e11, e12, e13, e14, e15]
  have e16 : 110 + bhLen h + 4 = bhLen h + 114 := by omega
  rw [e16]
  rw [if_neg (by
    show ¬ _
    simp only [counted] at h7 h9
    simp [h5, h6, h7, h9]; omega)]
  simp only [counted] at h10 h11 h12 ⊢
  simp only [h10, h11, h12, Bool.not_true, Bool.false_eq_true, ne_eq, not_true_eq_false, or_self, if_false]
  rfl

/-- The code of OK, wherever a payload carries it. -/
theorem ok_code (a b : List Byte) (o : Nat) (h : a.length = o) :
    statusOf (fieldBe (a ++ (statusBytes .ok ++ b)) o 2) = .ok := by
  have e : slice (a ++ (statusBytes .ok ++ b)) o 2 = statusBytes .ok := slice_all _ _ _ _ _ h (toBe_length _ _)
  have hb : beNat (statusBytes .ok) = (Config.statusCode .ok).toNat := by
    have := (Config.statusCode .ok).isLt
    simp only [statusBytes, toBe, toLe, beNat, List.reverse_cons, List.reverse_nil, List.nil_append,
      List.cons_append, List.foldl_cons, List.foldl_nil, BitVec.toNat_ofNat]
    omega
  simp only [fieldBe, e, hb, statusOf]
  simp [List.find?]

/-- Frame bytes up to the payload: from peer 1 to device 2, both at the model addresses of `cluS`. -/
def bHdr (cluster typ len term boot : Nat) : List Byte :=
  List.replicate 12 0 ++ toBe 2 0x86DD ++ toBe 4 (6 * 2 ^ 28) ++ [0, 0, 17, 64] ++ toBe 16 0x11 ++ toBe 16 0x22 ++
  toBe 2 5000 ++ toBe 2 5000 ++ [0, 0, 0, 0] ++ [1] ++ toBe 1 typ ++ [1, 2] ++ toBe 1 cluster ++ [0] ++ toBe 2 len ++
  toBe 8 1 ++ toBe 8 0 ++ toBe 4 term ++ toBe 4 boot

/-- Device 2 of cluster 3, acting as `role` (1 Director, 2 Crew) under director `dir`, with peer 1 on Bolvis port 5. -/
def bolvisMap : SecS := ⟨1, 0, 0, blob 0x50 [(0, 1), (0x48, 5), (0x4A, 1), (0x4B, 2)]⟩
def roleSec : SecS := ⟨0xD, 0, 0, blob 0x28 [(4, 0x88), (5, 0x13), (0x18, 0x22)]⟩
def cluS (m : Mode) (role dir : Nat) (l : List (Fld × Nat)) : State :=
  withSecs [bolvisMap, roleSec, memMap10, layout1] (st m ([(R.cluStatRole, 2), (R.cluStatActing, role),
    (R.cluStatDirectorId, dir), (R.cluStatDeviceId, 2), (R.cluStatClusterId, 3), (R.cluPeerValid 1, 1),
    (R.cluPeerState 1, 1), (R.cluPeerPort 1, 5), (R.cluPeerAddrAddr 1 0, 0x11), (R.keySlotState 5, 2),
    (R.cluStatTerm, 7), (R.timStatValid, 1), (R.timNowNs, 5000000)] ++ l))
def withClu (f : ClusterS → ClusterS) (s : State) : State := { s with clu := f s.clu }
def withTake (x : TakeS) (s : State) : State := { s with take := x }
def crewS : State := cluS .serve 2 1 []
def dirS : State := cluS .serve 1 2 []

/-- A service entry and payloads. -/
def svcPl (v : Nat) : List Byte := toBe 2 3 ++ [0, 0] ++ toBe 4 v ++ toLe 32 svc3 ++ [0, 0, 0, 0]
def ringPl : List Byte := toBe 2 3 ++ toBe 2 65535 ++ toBe 4 0 ++ toBe 2 1 ++ [0, 0] ++ toBe 2 0x8001
def leasePl (ms : Nat) : List Byte := toBe 2 9 ++ [0, 0] ++ toBe 4 32 ++ toBe 4 2 ++ toBe 4 ms
def syncPl : List Byte := toBe 2 9 ++ [0, 0] ++ toBe 4 32 ++ toBe 4 2 ++ [1, 0, 0, 0] ++ toBe 4 3 ++ toBe 8 4
def commit1 (crew : List Nat) (go : Bool) : CommitS := ⟨4, 9000000, crew, [], go, [], [], 32, none⟩
def prepared (l : List (Fld × Nat)) : State :=
  withTake ⟨none, some 9000000, none, false, true⟩ (cluS .serve 2 1 ([(R.cluCommitStatPhase, 2),
    (R.cluCommitStatCommitId, 4), (R.cluCommitActTAct, 9000000)] ++ l))

theorem witness_MembersExchangeHeartbeats :
    (∃ (s : State) (i : Nat), live s = true ∧ inCluster s = true ∧ CanSend s i ∧ rd s R.cluCfgHbMs ≠ 0) ∧
    (∃ (s : State) (i : Nat), live s = true ∧ inCluster s = true ∧ CanSend s i ∧ actsCrew s = true ∧ rdB s
      R.cluStatJoined = false) ∧
    (∃ (s : State) (i port : Nat) (ptp : List Byte), live s = true ∧ inCluster s = true ∧ CanSend s i ∧ (actsDirector
      s = true ∨ (actsCrew s = true ∧ rd s R.cluStatDirectorId = i))) ∧
    (∃ (s u : State) (port : Nat) (f : List Byte) (m : BMsg), live s = true ∧ Received s 0x01 port f m u) ∧
    (∃ (s u : State) (port : Nat) (f : List Byte) (m : BMsg), live s = true ∧ Received s 0x02 port f m u ∧
      actsDirector u = true ∧ CanSend u m.src) ∧
    (∃ (s u : State) (port : Nat) (f : List Byte) (m : BMsg), live s = true ∧ Received s 0x03 port f m u ∧ actsCrew s
      = true ∧ rd s R.cluStatTerm ≤ m.term ∧ m.term < 2 ^ 32 ∧ statusOf (fieldBe m.payload 0 2) = .ok) ∧
    (∃ (s u : State) (port : Nat) (f : List Byte) (m : BMsg), live s = true ∧ Received s 0x04 port f m u ∧
      actsDirector s = true) :=
  ⟨⟨cluS .serve 2 1 [(R.cluCfgHbMs, 10)], 1, by decide +kernel⟩,
  ⟨crewS, 1, by decide +kernel⟩,
  ⟨dirS, 1, 1, [1, 2], by decide +kernel⟩,
  ⟨crewS, accepted (crewS) 5 (bHdr 3 0x01 12 8 1), 5, tagged (crewS) 5 (bHdr 3 0x01 12 8 1) ([1, 0, 0, 0] ++ toBe 4 0
    ++ toBe 4 0), bmsgOf (bHdr 3 0x01 12 8 1) ([1, 0, 0, 0] ++ toBe 4 0 ++ toBe 4 0), by decide +kernel, received_of
    _ _ _ _ _ (by decide +kernel) (by decide +kernel)⟩,
  ⟨dirS, accepted (dirS) 5 (bHdr 3 0x02 8 7 1), 5, tagged (dirS) 5 (bHdr 3 0x02 8 7 1) (List.replicate 8 0), bmsgOf
    (bHdr 3 0x02 8 7 1) (List.replicate 8 0), by decide +kernel, received_of _ _ _ _ _ (by decide +kernel)
    (by decide +kernel), by decide +kernel, by decide +kernel⟩,
  ⟨crewS, accepted (crewS) 5 (bHdr 3 0x03 8 7 1), 5, tagged (crewS) 5 (bHdr 3 0x03 8 7 1) ([] ++ (statusBytes .ok ++
    List.replicate 6 0)), bmsgOf (bHdr 3 0x03 8 7 1) ([] ++ (statusBytes .ok ++ List.replicate 6 0)),
    by decide +kernel, received_of _ _ _ _ _ (by decide +kernel) (by decide +kernel), by decide +kernel,
    (by decide +kernel), by decide +kernel, ok_code _ _ _ rfl⟩,
  ⟨dirS, accepted (dirS) 5 (bHdr 3 0x04 1 7 1), 5, tagged (dirS) 5 (bHdr 3 0x04 1 7 1) ([7]), bmsgOf (bHdr 3 0x04 1 7
    1) ([7]), by decide +kernel, received_of _ _ _ _ _ (by decide +kernel) (by decide +kernel), by decide +kernel⟩⟩

theorem witness_RolesFollowLossAndTerm :
    (∃ (s : State) (i : Nat), live s = true ∧ inCluster s = true ∧ i < 64 ∧ peerLive s i = true ∧ rd s R.cluCfgHbMs ≠
      0 ∧ rd s R.cluCfgMissCount ≠ 0 ∧ (peerOf s i).heard + rd s R.cluCfgMissCount * rd s R.cluCfgHbMs * 10 ^ 6 ≤
      uptime s) ∧
    (∃ (s : State), live s = true ∧ actsCrew s = true ∧ rd s R.cluStatDeputyId = deviceId s ∧ rdB s R.cluStatDirLost
      = true ∧ modeIn s [.serve, .splice, .safe] = true) ∧
    (∃ (s : State) (h : CmdHdr), live s = true ∧ ByCore h ∧ modeIn s commandModes = true ∧ rd s R.cluStatRole = 1) ∧
    (∃ (s : State) (h : CmdHdr), live s = true ∧ ByCore h ∧ modeIn s commandModes = true ∧ rd s R.cluStatRole ≠ 1) ∧
    (∃ (s : State) (h : CmdHdr) (id : _), live s = true ∧ ByCore h ∧ modeIn s commandModes = true ∧ rd s
      R.cluStatRole ≠ 0 ∧ id < 64 ∧ (rd s R.cluStatActing ≠ 2 ∨ id ≠ deviceId s)) ∧
    (∃ (s : State) (h : CmdHdr) (i addr mac port : Nat), live s = true ∧ ByCore h ∧ modeIn s commandModes = true ∧ rd
      s R.cluStatRole ≠ 0 ∧ i < 64 ∧ i ≠ deviceId s ∧ isBolvis s port = true ∧ port < 1024 ∧ mac < 2 ^ 48) ∧
    (∃ (s : State) (h : CmdHdr) (i addr mac port : Nat), live s = true ∧ ByCore h ∧ modeIn s commandModes = true ∧ rd
      s R.cluStatRole ≠ 0 ∧ i < 64 ∧ i ≠ deviceId s) :=
  ⟨⟨cluS .serve 2 1 [(R.cluCfgHbMs, 10), (R.cluCfgMissCount, 3), (R.timUptimeNs, 30000000), (R.timStatState, 1),
    (R.timStatSource, 3), (R.timCfgHoldS, 9)], 1, by decide +kernel⟩,
  ⟨cluS .safe 2 1 [(R.cluStatDeputyId, 2), (R.cluStatDirLost, 1)], by decide +kernel⟩,
  ⟨cluS .serve 2 1 [(R.cluStatRole, 1), (R.cluStatTerm, 2 ^ 32 - 1)], h33, by decide +kernel⟩,
  ⟨crewS, h33, by decide +kernel⟩,
  ⟨dirS, h33, 2, by decide +kernel⟩,
  ⟨dirS, h33, 63, 2 ^ 128 - 1, 2 ^ 48 - 1, 5, by decide +kernel⟩,
  ⟨dirS, h33, 1, 0, 0, 0, by decide +kernel⟩⟩

theorem witness_RingsFollowTheDirector :
    (∃ (s u : State) (port : Nat) (f : List Byte) (m : BMsg) (sv : Nat), live s = true ∧ sv = fieldBe m.payload 0 2 ∧
      Received s 0x05 port f m u ∧ fromDirector u m = true ∧ (fieldBe m.payload 4 4 = (ringVer s sv + 1) % 2 ^ 32 ∨
      sv ∈ s.clu.missed) ∧ fieldBe m.payload 0x28 1 = 0 ∧ NoDead s (svcHome sv) ∧ plainArea s (svcHome sv) (svcAddr s
      sv) 32 = true) ∧
    (∃ (s u : State) (port : Nat) (f : List Byte) (m : BMsg) (sv : Nat), live s = true ∧ sv = fieldBe m.payload 0 2 ∧
      Received s 0x05 port f m u ∧ fromDirector u m = true ∧ fieldBe m.payload 4 4 ≠ (ringVer s sv + 1) % 2 ^ 32 ∧ sv
      ∉ s.clu.missed ∧ CanSend u m.src) ∧
    (∃ (s u : State) (port : Nat) (f : List Byte) (m : BMsg) (sv : Nat), live s = true ∧ sv = fieldBe m.payload 0 2 ∧
      Received s 0x06 port f m u ∧ fromDirector u m = true ∧ fieldBe m.payload 4 4 = ringVer s sv ∧ (sv ∉
      s.clu.missed ∨ mget s.clu.resync sv = some (fieldBe m.payload 2 2)) ∧ NoDead s (svcHome sv) ∧ plainArea s
      (svcHome sv) (ringBase s sv) 131072 = true) ∧
    (∃ (s u : State) (port : Nat) (f : List Byte) (m : BMsg) (sv : Nat) (i : _), live s = true ∧ sv = fieldBe
      m.payload 0 2 ∧ Received s 0x07 port f m u ∧ actsDirector u = true ∧ sv ≠ 0xFFFF ∧ CanSend u i) :=
  ⟨⟨cluS .serve 2 1 (channels 3), accepted (cluS .serve 2 1 (channels 3)) 5 (bHdr 3 0x05 44 7 1), 5, tagged (cluS
    .serve 2 1 (channels 3)) 5 (bHdr 3 0x05 44 7 1) (svcPl 1), bmsgOf (bHdr 3 0x05 44 7 1) (svcPl 1), 3,
    by decide +kernel, by decide +kernel, received_of _ _ _ _ _ (by decide +kernel) (by decide +kernel),
    by decide +kernel⟩,
  ⟨crewS, accepted (crewS) 5 (bHdr 3 0x05 44 7 1), 5, tagged (crewS) 5 (bHdr 3 0x05 44 7 1) (svcPl 2), bmsgOf (bHdr 3
    0x05 44 7 1) (svcPl 2), 3, by decide +kernel, by decide +kernel, received_of _ _ _ _ _ (by decide +kernel)
    (by decide +kernel), by decide +kernel⟩,
  ⟨cluS .serve 2 1 (channels 3), accepted (cluS .serve 2 1 (channels 3)) 5 (bHdr 3 0x06 14 7 1), 5, tagged (cluS
    .serve 2 1 (channels 3)) 5 (bHdr 3 0x06 14 7 1) (ringPl), bmsgOf (bHdr 3 0x06 14 7 1) (ringPl), 3,
    by decide +kernel, by decide +kernel, received_of _ _ _ _ _ (by decide +kernel) (by decide +kernel),
    by decide +kernel⟩,
  ⟨dirS, accepted (dirS) 5 (bHdr 3 0x07 4 7 1), 5, tagged (dirS) 5 (bHdr 3 0x07 4 7 1) (toBe 2 3 ++ [0, 0]), bmsgOf
    (bHdr 3 0x07 4 7 1) (toBe 2 3 ++ [0, 0]), 3, 1, by decide +kernel, by decide +kernel, received_of _ _ _ _ _
    (by decide +kernel) (by decide +kernel), by decide +kernel⟩⟩

theorem witness_LeasesAreHeldAndRenewed :
    (∃ (s u : State) (port : Nat) (f : List Byte) (m : BMsg), live s = true ∧ fromDirector u m = true ∧ Received s
      0x08 port f m u ∧ fieldBe m.payload 12 4 ≠ 0) ∧
    (∃ (s u : State) (port : Nat) (f : List Byte) (m : BMsg), live s = true ∧ fromDirector u m = true ∧ Received s
      0x08 port f m u ∧ fieldBe m.payload 12 4 = 0) ∧
    (∃ (s u : State) (port : Nat) (f : List Byte) (m : BMsg), live s = true ∧ fromDirector u m = true ∧ Received s
      0x09 port f m u ∧ rd s R.cluStatDeputyId = deviceId s) ∧
    (∃ (s : State) (pool first n d : Nat), live s = true ∧ actsDirector s = true ∧ d < 64 ∧ d ≠ deviceId s ∧
      s.clu.grants = [⟨pool, first, n, 2 ^ d⟩] ∧ mayGrant s d = true ∧ CanSend s d) ∧
    (∃ (s : State), live s = true ∧ s.clu.held.any (fun x => decide (x.expiry ≤ uptime s)) = true) ∧
    (∃ (s : State) (h : CmdHdr) (pool first count mask : Nat), live s = true ∧ ByCore h ∧ modeIn s commandModes =
      true ∧ actsDirector s = true ∧ pool < 4096 ∧ bit (poolEnt s pool) 0 = true ∧ poolFirst (poolEnt s pool) ≤ first
      ∧ first + count ≤ poolFirst (poolEnt s pool) + poolCount (poolEnt s pool) ∧ 0 < count ∧ 0 < mask ∧ mask < 2 ^
      64) :=
  ⟨⟨crewS, accepted (crewS) 5 (bHdr 3 0x08 16 7 1), 5, tagged (crewS) 5 (bHdr 3 0x08 16 7 1) (leasePl 10000), bmsgOf
    (bHdr 3 0x08 16 7 1) (leasePl 10000), by decide +kernel, by decide +kernel, received_of _ _ _ _ _
    (by decide +kernel) (by decide +kernel), by decide +kernel⟩,
  ⟨withClu (fun c => { c with held := [⟨9, 30, 10, 7⟩] }) crewS, accepted (withClu (fun c =>
    { c with held := [⟨9, 30, 10, 7⟩] }) crewS) 5 (bHdr 3 0x08 16 7 1), 5, tagged (withClu (fun c =>
    { c with held := [⟨9, 30, 10, 7⟩] }) crewS) 5 (bHdr 3 0x08 16 7 1) (leasePl 0), bmsgOf (bHdr 3 0x08 16 7 1)
    (leasePl 0), by decide +kernel, by decide +kernel, received_of _ _ _ _ _ (by decide +kernel) (by decide +kernel),
    by decide +kernel⟩,
  ⟨cluS .serve 2 1 [(R.cluStatDeputyId, 2)], accepted (cluS .serve 2 1 [(R.cluStatDeputyId, 2)]) 5 (bHdr 3 0x09 28 7
    1), 5, tagged (cluS .serve 2 1 [(R.cluStatDeputyId, 2)]) 5 (bHdr 3 0x09 28 7 1) (syncPl), bmsgOf (bHdr 3 0x09 28
    7 1) (syncPl), by decide +kernel, by decide +kernel, received_of _ _ _ _ _ (by decide +kernel)
    (by decide +kernel), by decide +kernel⟩,
  ⟨withClu (fun c => { c with grants := [⟨9, 32, 2, 2 ^ 1⟩] }) (cluS .serve 1 2 [(R.cluStatDeputyId, 2)]), 9, 32, 2,
    1, by decide +kernel⟩,
  ⟨withClu (fun c => { c with held := [⟨9, 30, 10, 0⟩, ⟨9, 40, 1, 9⟩] }) crewS, by decide +kernel⟩,
  ⟨withFlo (fun f => { f with pools := [(4095, pool9)] }) dirS, h33, 4095, 32, 2, 2 ^ 64 - 1, by decide +kernel⟩⟩

theorem witness_ClusterCommitsDecide :
    (∃ (s : State) (h : CmdHdr) (at_ : Nat), live s = true ∧ ByCore h ∧ modeIn s commandModes = true ∧ rd s
      R.cluStatRole ≠ 0 ∧ actsDirector s = true ∧ s.clu.commit = none ∧ s.take.timed = none ∧ timeValid s = true ∧
      at_ < 2 ^ 32 ∧ 1000000 ≤ nsDiff at_ (nowNs s) ∧ nsDiff at_ (nowNs s) < 2 ^ 31 ∧ livePeers s ≠ []) ∧
    (∃ (s : State) (c : CommitS), live s = true ∧ s.clu.commit = some c ∧ c.go = false ∧ pastLead s c.tAct 600 = true
      ∧ allVoted c = false ∧ c.votes.all (fun v => v.2 == .ok) = true) ∧
    (∃ (s : State) (c : CommitS) (i : _), live s = true ∧ s.clu.commit = some c ∧ c.go = true ∧ pastLead s c.tAct 100
      = false ∧ i ∈ c.crew ∧ i ∉ c.acked ∧ CanSend s i) ∧
    (∃ (s : State) (c : CommitS) (u : State) (port : Nat) (f : List Byte) (m : BMsg), live s = true ∧ s.clu.commit =
      some c ∧ fieldBe m.payload 0 4 = c.id ∧ m.src ∈ c.crew ∧ Received s 0x0B port f m u ∧ c.go = false ∧ (∀ v ∈
      c.votes, v.1 ≠ m.src) ∧ (∃ i ∈ c.crew, i ≠ m.src ∧ ∀ v ∈ c.votes, v.1 ≠ i)) ∧
    (∃ (s : State) (c : CommitS) (u : State) (port : Nat) (f : List Byte) (m : BMsg), live s = true ∧ s.clu.commit =
      some c ∧ fieldBe m.payload 0 4 = c.id ∧ m.src ∈ c.crew ∧ Received s 0x0B port f m u ∧ c.go = false ∧ c.crew =
      [m.src] ∧ c.votes = [] ∧ statusOf (fieldBe m.payload 4 2) = .ok) ∧
    (∃ (s : State) (c : CommitS) (u : State) (port : Nat) (f : List Byte) (m : BMsg), live s = true ∧ s.clu.commit =
      some c ∧ fieldBe m.payload 0 4 = c.id ∧ m.src ∈ c.crew ∧ Received s 0x0D port f m u ∧ m.src ∉ c.acked) ∧
    (∃ (s u : State) (port : Nat) (f : List Byte) (m : BMsg), live s = true ∧ fromDirector u m = true ∧ Received s
      0x0A port f m u ∧ s.take.cluster = false ∧ CanSend u m.src ∧ (commitTimed u (fieldBe m.payload 4 4)
      true).status = .ok) ∧
    (∃ (s u : State) (port : Nat) (f : List Byte) (m : BMsg), live s = true ∧ fromDirector u m = true ∧ Received s
      0x0C port f m u ∧ crewCommit u (fieldBe m.payload 0 4) 2 = true ∧ pastLead u (rd s R.cluCommitActTAct) 100 =
      false ∧ CanSend u m.src) ∧
    (∃ (s u : State) (port : Nat) (f : List Byte) (m : BMsg), live s = true ∧ fromDirector u m = true ∧ Received s
      0x0C port f m u ∧ crewCommit u (fieldBe m.payload 0 4) 2 = true ∧ pastLead u (rd s R.cluCommitActTAct) 100 =
      true ∧ s.take.timed.isSome = true) ∧
    (∃ (s u : State) (port : Nat) (f : List Byte) (m : BMsg), live s = true ∧ fromDirector u m = true ∧ Received s
      0x0E port f m u ∧ crewCommit u (fieldBe m.payload 0 4) 2 = true ∧ s.take.timed.isSome = true) ∧
    (∃ (s : State), live s = true ∧ s.take.cluster = true ∧ rd s R.cluCommitStatPhase = 2 ∧ pastLead s (rd s
      R.cluCommitActTAct) 100 = true ∧ s.take.timed.isSome = true) :=
  ⟨⟨dirS, h33, 6000000, by decide +kernel⟩,
  ⟨withTake ⟨none, some 9000000, none, false, true⟩ (withClu (fun x =>
    { x with commit := some (commit1 [1, 4] false) }) (cluS .serve 1 2 [(R.timNowNs, 8400000)])), commit1 [1, 4]
    false, by decide +kernel⟩,
  ⟨withClu (fun x => { x with commit := some (commit1 [1, 4] true) }) dirS, commit1 [1, 4] true, 1,
    by decide +kernel⟩,
  ⟨withClu (fun x => { x with commit := some (commit1 [1, 4] false) }) dirS, commit1 [1, 4] false, accepted (withClu
    (fun x => { x with commit := some (commit1 [1, 4] false) }) dirS) 5 (bHdr 3 0x0B 6 7 1), 5, tagged (withClu (fun
    x => { x with commit := some (commit1 [1, 4] false) }) dirS) 5 (bHdr 3 0x0B 6 7 1) (toBe 4 4 ++ (statusBytes .ok
    ++ [])), bmsgOf (bHdr 3 0x0B 6 7 1) (toBe 4 4 ++ (statusBytes .ok ++ [])), by decide +kernel, rfl,
    by decide +kernel, by decide +kernel, received_of _ _ _ _ _ (by decide +kernel) (by decide +kernel),
    by decide +kernel⟩,
  ⟨withClu (fun x => { x with commit := some (commit1 [1] false) }) dirS, commit1 [1] false, accepted (withClu (fun x
    => { x with commit := some (commit1 [1] false) }) dirS) 5 (bHdr 3 0x0B 6 7 1), 5, tagged (withClu (fun x =>
    { x with commit := some (commit1 [1] false) }) dirS) 5 (bHdr 3 0x0B 6 7 1) (toBe 4 4 ++ (statusBytes .ok ++ [])),
    bmsgOf (bHdr 3 0x0B 6 7 1) (toBe 4 4 ++ (statusBytes .ok ++ [])), by decide +kernel, rfl, by decide +kernel,
    by decide +kernel, received_of _ _ _ _ _ (by decide +kernel) (by decide +kernel), by decide +kernel,
    (by decide +kernel), by decide +kernel, ok_code _ _ _ rfl⟩,
  ⟨withClu (fun x => { x with commit := some (commit1 [1, 4] true) }) dirS, commit1 [1, 4] true, accepted (withClu
    (fun x => { x with commit := some (commit1 [1, 4] true) }) dirS) 5 (bHdr 3 0x0D 4 7 1), 5, tagged (withClu (fun x
    => { x with commit := some (commit1 [1, 4] true) }) dirS) 5 (bHdr 3 0x0D 4 7 1) (toBe 4 4), bmsgOf (bHdr 3 0x0D 4
    7 1) (toBe 4 4), by decide +kernel, rfl, by decide +kernel, by decide +kernel, received_of _ _ _ _ _
    (by decide +kernel) (by decide +kernel), by decide +kernel⟩,
  ⟨crewS, accepted (crewS) 5 (bHdr 3 0x0A 8 7 1), 5, tagged (crewS) 5 (bHdr 3 0x0A 8 7 1) (toBe 4 4 ++ toBe 4
    9000000), bmsgOf (bHdr 3 0x0A 8 7 1) (toBe 4 4 ++ toBe 4 9000000), by decide +kernel, by decide +kernel,
    received_of _ _ _ _ _ (by decide +kernel) (by decide +kernel), by decide +kernel⟩,
  ⟨prepared [], accepted (prepared []) 5 (bHdr 3 0x0C 4 7 1), 5, tagged (prepared []) 5 (bHdr 3 0x0C 4 7 1) (toBe 4
    4), bmsgOf (bHdr 3 0x0C 4 7 1) (toBe 4 4), by decide +kernel, by decide +kernel, received_of _ _ _ _ _
    (by decide +kernel) (by decide +kernel), by decide +kernel⟩,
  ⟨prepared [(R.timNowNs, 8900000)], accepted (prepared [(R.timNowNs, 8900000)]) 5 (bHdr 3 0x0C 4 7 1), 5, tagged
    (prepared [(R.timNowNs, 8900000)]) 5 (bHdr 3 0x0C 4 7 1) (toBe 4 4), bmsgOf (bHdr 3 0x0C 4 7 1) (toBe 4 4),
    by decide +kernel, by decide +kernel, received_of _ _ _ _ _ (by decide +kernel) (by decide +kernel),
    by decide +kernel⟩,
  ⟨prepared [], accepted (prepared []) 5 (bHdr 3 0x0E 4 7 1), 5, tagged (prepared []) 5 (bHdr 3 0x0E 4 7 1) (toBe 4
    4), bmsgOf (bHdr 3 0x0E 4 7 1) (toBe 4 4), by decide +kernel, by decide +kernel, received_of _ _ _ _ _
    (by decide +kernel) (by decide +kernel), by decide +kernel, by decide +kernel⟩,
  ⟨prepared [(R.timNowNs, 8900000)], by decide +kernel⟩⟩

theorem witness_EpochsRollAndFramesAreSteered :
    (∃ (s u : State) (port : Nat) (f : List Byte) (m : BMsg), live s = true ∧ Received s 0x0F port f m u ∧
      fromDirector u m = true) ∧
    (∃ (s : State), live s = true ∧ rdB s R.cluKeyRollPend = true ∧ (reached s (rd s R.cluKeySwitchAt) = true ∨
      timeValid s = false)) ∧
    (∃ (s : State) (h : CmdHdr) (epoch at_ : Nat), live s = true ∧ ByCore h ∧ modeIn s commandModes = true ∧ rd s
      R.cluStatRole ≠ 0 ∧ actsDirector s = true ∧ epoch < 256 ∧ slotLoaded s (cluSlot epoch) = true ∧ timeValid s =
      true) ∧
    (∃ (s u : State) (p : Nat) (b : List Byte) (align : Nat) (w : Bool), live s = true ∧ p < 512 ∧ isBolvis s p =
      true ∧ portUp s p = true ∧ mode s = .safe ∧ (rxOf s p).frame.isNone = true ∧ (rxOf s p).discard = false ∧
      diverted s p b = true ∧ bhVer b = 1 ∧ bhType b = 0x20 ∧ b.length ≤ frameMax s p ∧ u = countBytes (bump s
      (R.ctrPortCount p 0)) p b.length ∧ bhCluster b ≠ rd s R.cluStatClusterId) ∧
    (∃ (s u : State) (p : Nat) (b : List Byte) (align : Nat) (w : Bool), live s = true ∧ p < 512 ∧ isBolvis s p =
      true ∧ portUp s p = true ∧ mode s = .safe ∧ (rxOf s p).frame.isNone = true ∧ (rxOf s p).discard = false ∧
      diverted s p b = true ∧ bhVer b = 1 ∧ bhType b = 0x20 ∧ b.length ≤ frameMax s p ∧ u = countBytes (bump s
      (R.ctrPortCount p 0)) p b.length ∧ bhCluster b = rd s R.cluStatClusterId ∧ bolvisFrom s p b = true ∧ b.length =
      98 + bhLen b) :=
  ⟨⟨crewS, accepted (crewS) 5 (bHdr 3 0x0F 8 7 1), 5, tagged (crewS) 5 (bHdr 3 0x0F 8 7 1) ([255, 0, 0, 0] ++ toBe 4
    9000000), bmsgOf (bHdr 3 0x0F 8 7 1) ([255, 0, 0, 0] ++ toBe 4 9000000), by decide +kernel, received_of _ _ _ _ _
    (by decide +kernel) (by decide +kernel), by decide +kernel⟩,
  ⟨withClu (fun c => { c with rollTo := 255 }) (cluS .serve 2 1 [(R.cluKeyRollPend, 1), (R.cluKeySwitchAt,
    5000000)]), by decide +kernel⟩,
  ⟨cluS .serve 1 2 [(R.keySlotState 6, 2)], h33, 255, 9000000, by decide +kernel⟩,
  ⟨cluS .safe 2 1 [(R.pwrPortState 5, 2), (R.macFrameMaxMax 0 5, 1500)], countBytes (bump (cluS .safe 2 1
    [(R.pwrPortState 5, 2), (R.macFrameMaxMax 0 5, 1500)]) (R.ctrPortCount 5 0)) 5 162, 5, bHdr 4 0x20 64 7 1 ++
    List.replicate 68 9, 0, false, by decide +kernel⟩,
  ⟨cluS .safe 2 1 [(R.pwrPortState 5, 2), (R.macFrameMaxMax 0 5, 1500)], countBytes (bump (cluS .safe 2 1
    [(R.pwrPortState 5, 2), (R.macFrameMaxMax 0 5, 1500)]) (R.ctrPortCount 5 0)) 5 162, 5, bHdr 3 0x20 64 7 1 ++
    List.replicate 68 9, 0, false, by decide +kernel⟩⟩

/-- A frame of port 5 in the one cell 9: its bytes are given. -/
def fr9 (phase : Ingress) (ended writer : Bool) (copies : List Nat) (len : Nat) : FrameS :=
  ⟨5, 0, 0, 0, 0, 20, 0, ts1, 0, 0, 0, 0, len, 9, ended, writer, phase, 0, 0, copies, none, none, none⟩
def cell9 (eof : Bool) (b : List Byte) : CellS := ⟨0, 1, true, eof, 0, b.length, false, 0, 20, 0, b⟩
def copy9 (st : CopySt) : CopyS := ⟨9, 5, 7, false, false, 0, 0, st, 1, 0, 0, none, false, 0⟩
def withCel (f : CelS → CelS) (s : State) : State := { s with cel := f s.cel }
def body60 : List Byte := List.replicate 60 7
def frame64 : List Byte := body60 ++ fcsOf body60

/-- Port 5 is up and its cells may be taken. -/
def sPort (m : Mode) (l : List (Fld × Nat)) : State :=
  withSecs [portMap5, memMap10] (st m ([(R.pwrPortState 5, 2), (R.macFrameMaxMax 0 5, 1500), (R.celClassLimit 0 0, 9),
    (R.celClassLimit 0 1, 9), (R.celClassLimit 0 2, 9), (R.celClassLimit 0 3, 9), (R.celStatP0Free 0, 10), (R.celCfgTailRsv 0, 0),
    (R.celOwnerMax 0 20, 100), (R.celOwnerMax 0 21, 100), (R.celOwnerMax 0 22, 100), (R.celOwnerMax 0 23, 100)] ++ l))

/-- A frame that arrives, with `b` in its first cell. -/
def sArr (b : List Byte) : State :=
  withCel (fun c => { c with cells := [(9, cell9 false b)], frames := [(9, fr9 .arriving false true [] b.length)], rx := [(5, ⟨some 9, false, b.length, false⟩)] }) (sPort .serve [])

/-- A frame that has ended and waits for its section, with a parser for pipe 0. -/
def accept14 : List Byte := blob 0x100 [(0x41, 0x10), (0x42, 14)]
def layer3 : List Byte := blob 0x100 [(0x41, 0x13), (0x42, 2)]
def farRead : List Byte := blob 0x100 [(0x44, 0xFF), (0x45, 0x2F)]
def pkt9 (e : Bool) : FrameS := fr9 .arriving e (!e) [] 64
def sPkt (e : Bool) (g : List Byte) : State :=
  let s := withCel (fun c => { c with cells := [(9, cell9 e frame64)], frames := [(9, pkt9 e)] }) (sPort .safe [])
  { s with pipe := { s.pipe with prog := [(0, ⟨g, [], 0⟩)] } }
def parsed (e : Bool) (g : List Byte) : ParseS := (parsePacket (sPkt e g) g 9 (pkt9 e)).1
def sampled : Option Nat × State := 
  samplePacket (parsePacket (sPkt true accept14) accept14 9 (pkt9 true)).2 (pkt9 true).quad (pkt9 true).inPort
def counted14 : State :=
  countParse (updFrame sampled.2 9 (fun f => { f with pipe := pipeOf (sPkt true accept14) (pkt9 true).inPort, bus := (parsed true accept14).bus, ipid := (parsed true accept14).ipid, lastState := (parsed true accept14).last, sel := sampled.1 })) (pkt9 true).quad (pipeOf (sPkt true accept14) (pkt9 true).inPort) (parsed true accept14).bus

/-- A frame of which 13 bytes have come in, under a parser that meets an IPv4 header. -/
def part9 : FrameS := fr9 .arriving false true [] 13
def sPart : State :=
  let s := withCel (fun c => { c with cells := [(9, cell9 false (List.replicate 13 7))], frames := [(9, part9)] }) (sPort .safe [])
  { s with pipe := { s.pipe with prog := [(0, ⟨layer3, [], 0⟩)] } }
theorem waits_of_past (r : ParseS) (b : List Byte) (h : r.past = true) (hb : b.length < 516) :
    parseReady r false b = false := by
  simp [parseReady, h, hb]
/-- The tree of port 0's group gives its queue 0. -/
def sFwd : State :=
  let s := sPkt true accept14
  { s with regs := (st .serve []).regs, cel := { s.cel with treeHdr := [(0, ⟨4, 0, 1, 0, 0⟩)], nodes := [(0, tnode 0 0 0 0 []), (1, tnode 1 0 0 0 []), (2, tnode 2 0 1 0 []), (3, tnode 3 0 2 9 [])] } }

/-- A frame with one copy in queue 7 of port 5, or being sent. -/
def withTree3 (f14 : Nat) (frames : List Nat) (s : State) : State :=
  { s with cel := { s.cel with treeHdr := [(0, ⟨4, 7, 1, 0, 0⟩)], nodes := [(0, tnode 0 0 0 5 []), (1, tnode 1 0 0 0 []), (2, tnode 2 0 1 0 []), (3, { tnode 3 0 2 0 frames with f14 := f14 })] } }
def sCopy (st : CopySt) (l : List (Fld × Nat)) : State :=
  withCel (fun c => { c with cells := [(9, cell9 true frame64)], frames := [(9, fr9 .done true false [9] 64)], copies := [(9, copy9 st)] }) (sPort .serve ([(R.shtPortStatGates 0 5, 0xFFFF)] ++ l))
def sQueued : State := withTree3 0 [9] (sCopy .queued [])
def selected : Option Nat × State := selectHead 5 2 [] (earnAll sQueued 5)

/-- A tree written to the shadow bank of port group 0, which only port 5 has yet to take. -/
def shadow0 : ShadowS := ⟨64, 0, ⟨3, 7, 1, 0, 0⟩, [tnode 0 0 0 5 []], 2 ^ 32 - 1⟩

/-- Stack 3 serves. -/
def sHbm (l : List (Fld × Nat)) : State :=
  st .serve (channels 3 ++ [(R.hbmStatState 3, 3), (R.hbmIdPcMib 3, 1), (R.hbmIdRating 3, 1)] ++ l)
def withHbm (f : HbmS → HbmS) (s : State) : State := { s with hbm := f s.hbm }

/-- Quadrant 3: pipe 2 serves port group 0, pipe 8 is the spare; both hold the same programs. -/
def portMap389 : SecS := ⟨1, 0, 0, blob 0x50 [(0, 1), (0x48, 0x85), (0x49, 1), (0x4A, 1)]⟩
def sHand (m : Mode) (l : List (Fld × Nat)) (f : PipeS → PipeS) : State :=
  let s := withSecs [portMap389] (st m ([(R.modSpareSpare 3, 8), (R.modXbarPg 3 0, 2)] ++ l))
  { s with pipe := f { s.pipe with prog := [(29, ⟨[], [], 0⟩), (35, ⟨[], [], 0⟩)] } }
def hand0 (switched ended : List Nat) : HandS := ⟨2, 8, [0], switched, ended, []⟩

theorem witness_FramesArriveInCells :
    (∃ (s : State) (p pool c o : Nat) (b : List Byte) (align : Nat) (clean : Bool), live s = true ∧ p < 512 ∧
      (portDecl s p).isSome = true ∧ portUp s p = true ∧ carries s = true ∧ rxOf s p = ⟨none, false, 0, false⟩ ∧ b ≠
      [] ∧ b.length ≤ 192 ∧ diverted s p b = false ∧ b.length ≤ frameMax s p ∧ c = ownerClass s p b ∧ o = 4 * p + c ∧
      choosePool s (portQuad p) c = some pool ∧ grants s (portQuad p) pool o (cellUnits pool) = true ∧ (pool = 1 →
      cellDescAt s (pickCell s pool (portQuad p)) + 16 ≤ cellDataAt s (pickCell s pool (portQuad p)))) ∧
    (∃ (s : State) (p h : Nat) (b : List Byte) (f : FrameS) (c : CellS), live s = true ∧ p < 512 ∧ (rxOf s p).discard
      = false ∧ (rxOf s p).frame = some h ∧ b ≠ [] ∧ b.length ≤ 256 ∧ (rxOf s p).bytes + b.length ≤ frameMax s p ∧
      mget s.cel.frames h = some f ∧ mget s.cel.cells f.last = some c ∧ f.pool = 0 ∧ freeCount s 0 f.quad ≠ 0 ∧
      grants s f.quad 0 f.owner 1 = true) ∧
    (∃ (s u : State) (p h : Nat) (b : List Byte) (f : FrameS) (w : Bool), live s = true ∧ p < 512 ∧ (rxOf s
      p).discard = false ∧ (rxOf s p).frame = some h ∧ b.length ≤ 256 ∧ (rxOf s p).bytes + b.length ≤ frameMax s p ∧
      64 ≤ (rxOf s p).bytes + b.length ∧ u = (if b = [] then countBytes s p b.length else addCell (countBytes s p
      b.length) h b) ∧ mget u.cel.frames h = some f ∧ f.abortUnsent = 0 ∧ f.phase = .arriving ∧ f.copies = [] ∧
      fcsGood (frameBytes u h) = true) ∧
    (∃ (s u : State) (p h : Nat) (b : List Byte) (f : FrameS) (w : Bool), live s = true ∧ p < 512 ∧ (rxOf s
      p).discard = false ∧ (rxOf s p).frame = some h ∧ b.length ≤ 256 ∧ (rxOf s p).bytes + b.length ≤ frameMax s p ∧
      64 ≤ (rxOf s p).bytes + b.length ∧ u = (if b = [] then countBytes s p b.length else addCell (countBytes s p
      b.length) h b) ∧ mget u.cel.frames h = some f ∧ f.abortUnsent = 0 ∧ f.phase = .arriving ∧ f.copies = [] ∧
      fcsGood (frameBytes u h) = false) ∧
    (∃ (s : State) (p h : Nat) (f : FrameS), live s = true ∧ p < 512 ∧ (rxOf s p).frame = some h ∧ mget s.cel.frames
      h = some f ∧ f.phase = .arriving ∧ f.copies = []) :=
  ⟨⟨sPort .serve [], 5, 0, ownerClass (sPort .serve []) 5 (List.replicate 192 0), 20 + ownerClass (sPort .serve []) 5
    (List.replicate 192 0), List.replicate 192 0, 0, true, by decide +kernel⟩,
  ⟨sArr (List.replicate 192 7), 5, 9, List.replicate 256 1, fr9 .arriving false true [] 192, cell9 false
    (List.replicate 192 7), by decide +kernel⟩,
  ⟨sArr frame64, countBytes (sArr frame64) 5 0, 5, 9, [], fr9 .arriving false true [] 64, false, by decide +kernel⟩,
  ⟨sArr (List.replicate 192 7), addCell (countBytes (sArr (List.replicate 192 7)) 5 1) 9 [1], 5, 9, [1], (mget
    (addCell (countBytes (sArr (List.replicate 192 7)) 5 1) 9 [1]).cel.frames 9).getD (fr9 .done false false [] 0),
    false, by decide +kernel⟩,
  ⟨sArr frame64, 5, 9, fr9 .arriving false true [] 64, by decide +kernel⟩⟩

theorem witness_PacketsRunTheIngressSection :
    (∃ (s : State) (head ecc : Nat) (w : Bool) (f : FrameS) (pr : ProgS) (r : ParseS), live s = true ∧ carries s =
      true ∧ mget s.cel.frames head = some f ∧ f.phase = .arriving ∧ f.abortUnsent = 0 ∧ bit (rd s R.pwrParkParked)
      f.quad = false ∧ pr = progOf s f.quad (pipeOf s f.inPort) ∧ r = (parsePacket s pr.parser head f).1 ∧ parseReady
      r f.ended (frameBytes s head) = false) ∧
    (∃ (s : State) (head ecc : Nat) (w : Bool) (f : FrameS) (pr : ProgS) (r : ParseS), live s = true ∧ carries s =
      true ∧ mget s.cel.frames head = some f ∧ f.phase = .arriving ∧ f.abortUnsent = 0 ∧ bit (rd s R.pwrParkParked)
      f.quad = false ∧ pr = progOf s f.quad (pipeOf s f.inPort) ∧ r = (parsePacket s pr.parser head f).1 ∧ parseReady
      r f.ended (frameBytes s head) = true ∧ r.drop = true) ∧
    (∃ (s : State) (head ecc : Nat) (w : Bool) (f : FrameS) (pr : ProgS) (r : ParseS) (k : Nat) (n : NodeS), live s =
      true ∧ carries s = true ∧ mget s.cel.frames head = some f ∧ f.phase = .arriving ∧ f.abortUnsent = 0 ∧ bit (rd s
      R.pwrParkParked) f.quad = false ∧ pr = progOf s f.quad (pipeOf s f.inPort) ∧ r = (parsePacket s pr.parser head
      f).1 ∧ parseReady r f.ended (frameBytes s head) = true ∧ r.drop = false ∧ pr.stages = [] ∧ busPtp r.bus = false
      ∧ busDisp r.bus = 0 ∧ busMirror r.bus = 0 ∧ busSched r.bus = false ∧ bits r.bus (replPos s) 16 = 0 ∧ busEgress
      r.bus < 512 ∧ mget s.pipe.hand f.quad = none ∧ f.ended = true ∧ mode s = .serve ∧ mget s.tim.rsv (busQueue
      r.bus) = none ∧ queueNode s (busQueue r.bus) = some k ∧ mget s.cel.nodes k = some n ∧ n.units < n.f10 % 2 ^ 27
      ∧ rdB s (R.pwrPortPd (busEgress r.bus)) = false) ∧
    (∃ (s : State) (head ecc : Nat) (w : Bool) (f : FrameS) (pr : ProgS) (r : ParseS) (x : Option Nat × State) (v u :
      State), live s = true ∧ carries s = true ∧ mget s.cel.frames head = some f ∧ f.phase = .arriving ∧
      f.abortUnsent = 0 ∧ bit (rd s R.pwrParkParked) f.quad = false ∧ pr = progOf s f.quad (pipeOf s f.inPort) ∧ r =
      (parsePacket s pr.parser head f).1 ∧ parseReady r f.ended (frameBytes s head) = true ∧ r.drop = false ∧ x =
      samplePacket (parsePacket s pr.parser head f).2 f.quad f.inPort ∧ v = countParse (updFrame x.2 head (fun f =>
      { f with pipe := pipeOf s f.inPort, bus := r.bus, ipid := r.ipid, lastState := r.last, sel := x.1 })) f.quad
      (pipeOf s f.inPort) r.bus ∧ u = runSection (if busPtp r.bus then storeRx v head f else v) head f.quad r.bus ecc
      w pr) :=
  ⟨⟨sPart, 9, 0, false, part9, ⟨layer3, [], 0⟩, (parsePacket sPart layer3 9 part9).1, by decide +kernel,
    (by decide +kernel), by decide +kernel, (by decide +kernel), by decide +kernel, (by decide +kernel), by decide +kernel,
    rfl, waits_of_past _ _ (by decide +kernel) (by decide +kernel)⟩,
  ⟨sPkt true farRead, 9, 0, false, pkt9 true, ⟨farRead, [], 0⟩, parsed true farRead, by decide +kernel,
    (by decide +kernel), by decide +kernel, (by decide +kernel), by decide +kernel, (by decide +kernel), by decide +kernel,
    rfl, by decide +kernel, by decide +kernel⟩,
  ⟨sFwd, 9, 0, false, pkt9 true, ⟨accept14, [], 0⟩, (parsePacket sFwd accept14 9 (pkt9 true)).1, 3, tnode 3 0 2 9 [],
    by decide +kernel, (by decide +kernel), by decide +kernel, (by decide +kernel), by decide +kernel, (by decide +kernel),
    by decide +kernel, rfl, by decide +kernel⟩,
  ⟨sPkt true accept14, 9, 0, false, pkt9 true, ⟨accept14, [], 0⟩, parsed true accept14, sampled, counted14,
    runSection (if busPtp (parsed true accept14).bus then storeRx counted14 9 (pkt9 true) else counted14) 9 (pkt9
    true).quad (parsed true accept14).bus 0 false ⟨accept14, [], 0⟩, by decide +kernel, (by decide +kernel),
    by decide +kernel, (by decide +kernel), by decide +kernel, (by decide +kernel), by decide +kernel, rfl,
    by decide +kernel, by decide +kernel, rfl, rfl, rfl⟩⟩

theorem witness_CopiesAreSelectedAndSent :
    (∃ (s u : State) (p cp : Nat) (hurt : List Byte) (c : CopyS), live s = true ∧ canAccept s p = true ∧ selectHead p
      (s.cel.copies.length + 1) hurt (earnAll s p) = (some cp, u) ∧ mget u.cel.copies cp = some c) ∧
    (∃ (s : State) (q k cp : Nat) (n : NodeS) (c : CopyS), live s = true ∧ q < 4 ∧ s.cel.nodes.filter (fun e =>
      e.2.level == 3 && e.2.frames != [] && nodePg e.1 % 64 / 16 == q) = [(k, n)] ∧ mget s.cel.nodes k = some n ∧
      n.frames = [cp] ∧ mget s.cel.copies cp = some c ∧ expired s n c = true ∧ abortCode s c = 0 ∧ queueNode s
      c.queue = some k ∧ c.port < 552) ∧
    (∃ (s : State) (p cp align : Nat) (out : Option (List Byte)) (c : CopyS) (f : FrameS) (b : List Byte), live s =
      true ∧ p < 512 ∧ mget s.cel.tx p = some cp ∧ mget s.cel.copies cp = some c ∧ mget s.cel.frames c.head = some f
      ∧ c.dropAs = 0 ∧ f.abortUnsent = 0 ∧ f.ended = true ∧ c.port < 552 ∧ (f.pool = 1 → (cellsIn s (frameCells s
      c.head) 0).1 = none) ∧ b = (if c.mirror then mirrorForm c.trunc (body (frameBytes s c.head)) else egressBody s
      c out (body (frameBytes s c.head))) ∧ (((portDecl s p).map (·.bolvis)).getD false = false ∨ b.length + 4 ≤
      frameMax s p)) :=
  ⟨⟨sQueued, selected.2, 5, 9, [], (mget selected.2.cel.copies 9).getD (copy9 .queued), by decide +kernel⟩,
  ⟨withTree3 1 [9] (sCopy .queued [(R.timNowNs, 5000)]), 0, 3, 9, { tnode 3 0 2 0 [9] with f14 := 1 }, copy9 .queued,
    by decide +kernel⟩,
  ⟨withCel (fun c => { c with tx := [(5, 9)] }) (sCopy .sending []), 5, 9, 0, none, copy9 .sending, fr9 .done true
    false [9] 64, body60, by decide +kernel⟩⟩

theorem witness_ChainsAreReleasedAndFreed :
    (∃ (s : State) (head cp : Nat) (e : CellS) (f : FrameS) (c : CopyS), live s = true ∧ mget s.cel.cells head = some
      e ∧ mget s.cel.frames head = some f ∧ mget s.cel.copies cp = some c ∧ c.head = head ∧ c.st = .sending) ∧
    (∃ (s : State) (head cp : Nat) (e : CellS) (f : FrameS) (c : CopyS), live s = true ∧ mget s.cel.cells head = some
      e ∧ mget s.cel.frames head = some f ∧ mget s.cel.copies cp = some c ∧ c.head = head ∧ c.st ≠ .sending) ∧
    (∃ (s : State) (r q ptr : Nat) (c : CellS), live s = true ∧ isCore r = true ∧ q < 4 ∧ ptr < 2 ^ 28 ∧ ptrIndex ptr
      < poolCells s (ptrPool ptr) (ptrQuad ptr) ∧ inUse s ptr = false ∧ mget s.cel.cells ptr = some c ∧ c.eof = true)
      ∧
    (∃ (s : State) (r q ptr : Nat) (c : CellS), live s = true ∧ isCore r = true ∧ q < 4 ∧ ptr < 2 ^ 28 ∧ ptrIndex ptr
      < poolCells s (ptrPool ptr) (ptrQuad ptr) ∧ inUse s ptr = true) ∧
    (∃ (s : State) (r q ptr : Nat) (c : CellS), live s = true ∧ isCore r = true ∧ q < 4 ∧ ptr < 2 ^ 28 ∧ poolCells s
      (ptrPool ptr) (ptrQuad ptr) ≤ ptrIndex ptr) :=
  ⟨⟨withCel (fun c => { c with tx := [(5, 9)] }) (sCopy .sending []), 9, 9, cell9 true frame64, fr9 .done true false
    [9] 64, copy9 .sending, by decide +kernel⟩,
  ⟨sCopy .queued [], 9, 9, cell9 true frame64, fr9 .done true false [9] 64, copy9 .queued, by decide +kernel⟩,
  ⟨withSecs [{ memMap10 with bytes := blob 0x40 [(9, 1)] }] (withCel (fun c =>
    { c with cells := [(9, cell9 true [])] }) (st .serve [])), 33, 3, 9, cell9 true [], by decide +kernel⟩,
  ⟨withSecs [{ memMap10 with bytes := blob 0x40 [(9, 1)] }] (sCopy .queued []), 33, 3, 9, cell9 true frame64,
    by decide +kernel⟩,
  ⟨withSecs [{ memMap10 with bytes := blob 0x40 [(9, 1)] }] (st .serve []), 33, 3, 65536, cell9 true [],
    by decide +kernel⟩⟩

theorem witness_TreesSwitchAndGroupsAreSet :
    (∃ (s : State) (p g : Nat) (x : ShadowS), live s = true ∧ mode s = .splice ∧ s.cel.toSwitch.find? (fun e =>
      e.2.contains p) = some (g, [p]) ∧ mget s.cel.toSwitch g = some [p] ∧ mget s.cel.shadow g = some x ∧ mget
      s.cel.tx p = none ∧ x.ver < 2 ^ 32) ∧
    (∃ (s : State) (p : Nat), live s = true ∧ mode s ≠ .splice) ∧
    (∃ (s : State) (h : CmdHdr) (g : Nat) (ms : List (Nat × Nat × Bool)) (a : _), live s = true ∧ ByCore h ∧ modeIn s
      commandModes = true ∧ 0 < g ∧ g < 65536 ∧ ms ≠ [] ∧ ms.length ≤ 4096 ∧ (∀ m ∈ ms, m.1 < 1024 ∧ m.2.1 < 2 ^ 21)
      ∧ freeRun s ms.length = some a) ∧
    (∃ (s : State) (h : CmdHdr) (g : Nat) (ms : List (Nat × Nat × Bool)), live s = true ∧ ByCore h ∧ modeIn s
      commandModes = true ∧ 0 < g ∧ g < 65536 ∧ ms ≠ [] ∧ ms.length ≤ 4096 ∧ (∀ m ∈ ms, m.1 < 1024 ∧ m.2.1 < 2 ^ 21)
      ∧ freeRun s ms.length = none) ∧
    (∃ (s : State), live s = true) :=
  ⟨⟨withCel (fun c => { c with shadow := [(0, shadow0)], toSwitch := [(0, [5])] }) (sPort .splice []), 5, 0, shadow0,
    by decide +kernel⟩,
  ⟨sPort .serve [], 5, by decide +kernel⟩,
  ⟨withCel (fun c => { c with replGroup := [(7, (0, 5))] }) (st .serve []), h33, 65535, [(1023, 2 ^ 21 - 1, true),
    (5, 0, false)], 5, by decide +kernel⟩,
  ⟨withCel (fun c => { c with replGroup := [(7, (0, 2 ^ 18))] }) (st .serve []), h33, 65535, [(1023, 2 ^ 21 - 1,
    true)], by decide +kernel⟩,
  ⟨withCel (fun c => { c with replOld := [(0, 5, 0), (5, 1, 9)] }) (st .serve [(R.timUptimeNs, 2000)]),
    by decide +kernel⟩⟩

theorem witness_MemoryRequestsAreServed :
    (∃ (s : State) (q sh a len h req : Nat) (data : List Byte) (fw : Bool) (first again : List (Nat × Nat)), live s =
      true ∧ q < 4 ∧ memServes s q = true ∧ a < hbmU s q ∧ badRange s q a len = false ∧ first = []) ∧
    (∃ (s : State) (q sh a len h req : Nat) (data : List Byte) (fw : Bool) (first again : List (Nat × Nat)), live s =
      true ∧ q < 4 ∧ memServes s q = true ∧ a < hbmU s q ∧ badRange s q a len = false ∧ fw = true ∧ queuedRange s q a
      len = true) ∧
    (∃ (s : State) (q sh a len h req : Nat) (data : List Byte) (fw : Bool), live s = true ∧ q < 4 ∧ memServes s q =
      true ∧ a < hbmU s q ∧ NoDead s q ∧ rd s (R.hbmErrStatNext q) < 64) ∧
    (∃ (s : State) (q sh a len h req old : Nat) (data : List Byte) (fw : Bool), live s = true ∧ q < 4 ∧ memServes s q
      = true ∧ a < hbmU s q ∧ NoDead s q ∧ badRange s q a 8 = false ∧ plainArea s q a 8 = true ∧ old = leNat (memRead
      s.hbm.mem (hkey q a) 8)) ∧
    (∃ (s : State) (q sh a len h req e1 e2 : Nat) (data : List Byte), live s = true ∧ q < 4 ∧ memServes s q = true ∧
      a < hbmU s q ∧ 0 < len ∧ a % 64 + len ≤ 64 ∧ badRange s q a len = false ∧ 0 < e1 ∧ e1 < 2 ^ 32 ∧ e2 < 2 ^ 32 ∧
      (e1 ≠ 0xFFFFFFFF ∨ e2 ≠ 0xFFFFFFFF) ∧ rd s (R.hbmErrStatNext q) < 64) :=
  ⟨⟨sHbm [], 3, 0, 130, 64, 0, 0, [], false, [], [], by decide +kernel⟩,
  ⟨withHbm (fun h => { h with queued := [hkey 3 128] }) (sHbm []), 3, 0, 130, 64, 0, 0, [], true, [(0, 1)], [(0, 1)],
    by decide +kernel⟩,
  ⟨sHbm [], 3, 0, 128, 64, 0, 0, List.replicate 64 5, false, by decide +kernel⟩,
  ⟨withMem 3 136 [4] (sHbm []), 3, 0, 136, 8, 0, 0, 4, toLe 8 4 ++ toLe 8 9, false, by decide +kernel⟩,
  ⟨sHbm [], 3, 0, 128, 64, 0, 0, 1, 5, [], by decide +kernel⟩⟩

theorem witness_MemoryIsMaintained :
    (∃ (s : State) (q pc d : Nat) (w : Bool), live s = true ∧ q < 4 ∧ pc < 64 ∧ d = mgetD s.hbm.debt (64 * q + pc) 0)
      ∧
    (∃ (s : State) (q temp : Nat), live s = true ∧ q < 4 ∧ temp < 256) ∧
    (∃ (s : State) (q pc k : Nat), live s = true ∧ q < 4 ∧ pc < 64 ∧ k = 64 * q + pc ∧ memServes s q = true ∧ mget
      s.hbm.pass k = none ∧ rdB s (R.hbmRateGo q) = false ∧ catching s q = false ∧ rd s (R.hbmPcRole q pc) ≠ 2 ∧
      passDue s q pc = true) ∧
    (∃ (s : State) (q pc k : Nat), live s = true ∧ q < 4 ∧ pc < 64 ∧ k = 64 * q + pc ∧ passDue s q pc = false) ∧
    (∃ (s : State) (q pc k : Nat), live s = true ∧ q < 4 ∧ pc < 64 ∧ k = 64 * q + pc ∧ (mget s.hbm.pass k).isSome =
      true ∧ rdB s (R.hbmRateGo q) = false ∧ s.hbm.again.contains k = false ∧ rd s (R.hbmPcRole q pc) < 2) ∧
    (∃ (s : State) (q pc k : Nat), live s = true ∧ q < 4 ∧ pc < 64 ∧ k = 64 * q + pc ∧ (mget s.hbm.pass k).isSome =
      true ∧ rdB s (R.hbmRateGo q) = false ∧ s.hbm.again.contains k = false) ∧
    (∃ (s : State) (q pc k : Nat), live s = true ∧ q < 4 ∧ pc < 64 ∧ k = 64 * q + pc ∧ passesOf s q = [k] ∧
      s.hbm.again.contains k = true ∧ rdB s (R.hbmRateGo q) = true ∧ s.hbm.initial.contains q = false) ∧
    (∃ (s : State) (h : CmdHdr) (q rate : Nat) (g : List Nat), live s = true ∧ ByCore h ∧ modeIn s commandModes =
      true ∧ q < 4 ∧ rate ≤ 2 ∧ g = (passesOf s q).filter (gathering s) ∧ rd s (R.hbmIdRating q) < rate) ∧
    (∃ (s : State) (h : CmdHdr) (q rate : Nat) (g : List Nat), live s = true ∧ ByCore h ∧ modeIn s commandModes =
      true ∧ q < 4 ∧ rate ≤ 2 ∧ g = (passesOf s q).filter (gathering s) ∧ rate ≤ rd s (R.hbmIdRating q) ∧ memBusy s q
      = true) ∧
    (∃ (s : State) (h : CmdHdr) (q rate : Nat) (g : List Nat), live s = true ∧ ByCore h ∧ modeIn s commandModes =
      true ∧ q < 4 ∧ rate ≤ 2 ∧ g = (passesOf s q).filter (gathering s) ∧ rate ≤ rd s (R.hbmIdRating q) ∧ memBusy s q
      = false) ∧
    (∃ (s : State) (q p : Nat), live s = true ∧ q < 4 ∧ rd s (R.hbmStatState q) = 5 ∧ rd s (R.hbmRateTarget q) ≤ 2 ∧
      (∀ e ∈ s.hbm.autoWait, e.1 ≠ q) ∧ p < 64 ∧ rd s (R.hbmPcRole q p) < 2) ∧
    (∃ (s : State) (q p : Nat), live s = true ∧ q < 4 ∧ rd s (R.hbmStatState q) = 5 ∧ rd s (R.hbmRateTarget q) ≤ 2 ∧
      (∀ e ∈ s.hbm.autoWait, e.1 ≠ q)) ∧
    (∃ (s : State) (h : CmdHdr) (q pc rmode : Nat), live s = true ∧ ByCore h ∧ modeIn s commandModes = true ∧ q < 4 ∧
      pc < 64 ∧ rmode < 2 ∧ rd s (R.hbmPcRole q pc) = 0 ∧ rd s (R.hbmPcLogical q pc) < 62 ∧ memBusy s q = true) ∧
    (∃ (s : State) (h : CmdHdr) (q pc rmode d : Nat) (ds : List Nat), live s = true ∧ ByCore h ∧ modeIn s
      commandModes = true ∧ q < 4 ∧ pc < 64 ∧ rmode < 2 ∧ rd s (R.hbmPcRole q pc) = 0 ∧ rd s (R.hbmPcLogical q pc) <
      62 ∧ memBusy s q = false ∧ pcsWith s q 1 = d :: ds) ∧
    (∃ (s : State) (h : CmdHdr) (q pc rmode : Nat), live s = true ∧ ByCore h ∧ modeIn s commandModes = true ∧ q < 4 ∧
      pc < 64 ∧ rmode < 2 ∧ rd s (R.hbmPcRole q pc) = 0 ∧ rd s (R.hbmPcLogical q pc) < 62 ∧ memBusy s q = false ∧
      pcsWith s q 1 = []) ∧
    (∃ (s : State) (q i e1 e2 g : Nat) (m : MigS), live s = true ∧ q < 4 ∧ mget s.hbm.mig q = some m ∧ m.src < 64 ∧
      m.dst < 64 ∧ m.src ≠ m.dst ∧ m.logical < 62 ∧ (∀ e ∈ s.hbm.autoWait, e.1 ≠ q) ∧ NoDead s q ∧ rd s
      (R.hbmMigStatMark q) + 1 < 2 ^ 21 ∧ rd s (R.hbmMigStatMark q) + 1 < blkCount s q) ∧
    (∃ (s : State) (q i e1 e2 g : Nat) (m : MigS), live s = true ∧ q < 4 ∧ mget s.hbm.mig q = some m ∧ m.src < 64 ∧
      m.dst < 64 ∧ m.src ≠ m.dst ∧ m.logical < 62 ∧ (∀ e ∈ s.hbm.autoWait, e.1 ≠ q) ∧ NoDead s q ∧ rd s
      (R.hbmMigStatMark q) + 1 < 2 ^ 21 ∧ i < 16 ∧ 0 < e1 ∧ e1 < 2 ^ 32 ∧ 0 < e2 ∧ e2 < 0xFFFFFFFF ∧ rd s
      (R.hbmErrStatNext q) < 64 ∧ g = (rd s (R.hbmMigStatMark q) * 62 + m.logical) * 16 + i ∧ marked s q g = false) ∧
    (∃ (s : State) (q i e1 e2 g : Nat) (m : MigS), live s = true ∧ q < 4 ∧ mget s.hbm.mig q = some m ∧ m.src < 64 ∧
      m.dst < 64 ∧ m.src ≠ m.dst ∧ m.logical < 62 ∧ (∀ e ∈ s.hbm.autoWait, e.1 ≠ q) ∧ NoDead s q ∧ rd s
      (R.hbmMigStatMark q) + 1 < 2 ^ 21 ∧ blkCount s q ≤ rd s (R.hbmMigStatMark q) + 1) :=
  ⟨⟨withHbm (fun h => { h with debt := [(255, 8)] }) (sHbm []), 3, 63, 8, true, by decide +kernel⟩,
  ⟨sHbm [], 3, 96, by decide +kernel⟩,
  ⟨withHbm (fun h => { h with passTemp := [(255, 30)] }) (sHbm [(R.hbmTrainCfgDeltaC 3, 10), (R.hbmThermTemp 3,
    40)]), 3, 63, 255, by decide +kernel⟩,
  ⟨sHbm [(R.hbmTrainCfgPeriodMs 3, 0), (R.hbmTrainCfgDeltaC 3, 0)], 3, 63, 255, by decide +kernel⟩,
  ⟨withHbm (fun h => { h with pass := [(255, 9)] }) (sHbm []), 3, 63, 255, by decide +kernel⟩,
  ⟨withHbm (fun h => { h with pass := [(255, 9)] }) (sHbm []), 3, 63, 255, by decide +kernel⟩,
  ⟨withHbm (fun h => { h with pass := [(255, 9)], again := [255] }) (sHbm [(R.hbmRateHeld 3, 1), (R.hbmRateGo 3,
    1)]), 3, 63, 255, by decide +kernel⟩,
  ⟨sHbm [], h33, 3, 2, [], by decide +kernel⟩,
  ⟨sHbm [(R.hbmStatState 3, 5)], h33, 3, 1, [], by decide +kernel⟩,
  ⟨withHbm (fun h => { h with pass := [(255, 9)] }) (sHbm []), h33, 3, 1, [255], by decide +kernel⟩,
  ⟨withHbm (fun h => { h with again := [255] }) (sHbm [(R.hbmStatState 3, 5), (R.hbmRateTarget 3, 2)]), 3, 5,
    by decide +kernel⟩,
  ⟨withHbm (fun h => { h with again := [255] }) (sHbm [(R.hbmStatState 3, 5), (R.hbmRateTarget 3, 2)]), 3, 0,
    by decide +kernel⟩,
  ⟨sHbm [(R.hbmStatState 3, 5)], h33, 3, 5, 1, by decide +kernel⟩,
  ⟨sHbm [(R.hbmPcRole 3 63, 1), (R.hbmPcRole 3 62, 2)], h33, 3, 5, 0, 63, [], by decide +kernel⟩,
  ⟨sHbm [(R.hbmPcRole 3 63, 2), (R.hbmPcRole 3 62, 2)], h33, 3, 5, 1, by decide +kernel⟩,
  ⟨withHbm (fun h => { h with mig := [(3, ⟨5, 5, 63⟩)] }) (sHbm [(R.hbmPcRole 3 5, 3), (R.hbmPcRole 3 63, 4)]), 3, 0,
    0, 0, 0, ⟨5, 5, 63⟩, by decide +kernel⟩,
  ⟨withHbm (fun h => { h with mig := [(3, ⟨5, 5, 63⟩)] }) (sHbm [(R.hbmPcRole 3 5, 3), (R.hbmPcRole 3 63, 4)]), 3,
    15, 7, 5, 95, ⟨5, 5, 63⟩, by decide +kernel⟩,
  ⟨withHbm (fun h => { h with mig := [(3, ⟨5, 5, 63⟩)] }) (sHbm [(R.hbmPcRole 3 5, 3), (R.hbmPcRole 3 63, 4),
    (R.hbmMigStatMark 3, 1023)]), 3, 0, 0, 0, 0, ⟨5, 5, 63⟩, by decide +kernel⟩⟩

theorem witness_HandoversRotateThePipes :
    (∃ (s : State) (r q t : Nat), live s = true ∧ isCore r = true ∧ q < 4 ∧ t < 16 ∧ handRefusal s q t = none) ∧
    (∃ (s : State) (r q t : Nat) (c : _), live s = true ∧ isCore r = true ∧ q < 4 ∧ t < 16 ∧ handRefusal s q t = some
      c) ∧
    (∃ (s : State) (p : Nat) (h : HandS), live s = true ∧ p < 552 ∧ portQuad p < 4 ∧ mget s.pipe.hand (portQuad p) =
      some h ∧ rd s (R.modHandoverState (portQuad p)) = 1 ∧ p ∈ handPorts s (portQuad p) h.pgs ∧ p ∉ h.switched ∧
      atBoundary s p = true) ∧
    (∃ (s : State) (q g : Nat) (e : Bool) (h : HandS), live s = true ∧ q < 4 ∧ mget s.pipe.hand q = some h ∧ rd s
      (R.modHandoverState q) = 2 ∧ g ∈ h.pgs ∧ g ∉ h.ended ∧ (∀ f ∈ h.waiting, (mget s.cel.frames f).bind (·.heldPg)
      ≠ some g)) ∧
    (∃ (s : State) (q : Nat) (h : HandS), live s = true ∧ q < 4 ∧ mget s.pipe.hand q = some h ∧ rd s
      (R.modHandoverState q) = 2 ∧ (∀ g ∈ h.pgs, g ∈ h.ended ∧ g < 16) ∧ pipeEmpty s q h.target = true ∧ h.target < 9
      ∧ h.spare < 9) ∧
    (∃ (s : State) (q p : Nat), live s = true ∧ q < 4 ∧ p < 9 ∧ mget s.pipe.testing q = some p ∧ mode s = .safe) ∧
    (∃ (s : State) (q t : Nat), live s = true ∧ q < 4 ∧ t < 9 ∧ modeIn s [.sync, .serve, .splice, .safe] = true ∧
      quadParked s q = false ∧ rd s (R.modHandoverState q) = 0 ∧ mget s.pipe.load q = none ∧ spareOf s q ≠ 15 ∧
      chooseTarget s q = some t ∧ groupsOf s q t = []) ∧
    (∃ (s : State) (q t : Nat), live s = true ∧ q < 4 ∧ t < 9 ∧ modeIn s [.sync, .serve, .splice, .safe] = true ∧
      quadParked s q = false ∧ rd s (R.modHandoverState q) = 0 ∧ mget s.pipe.load q = none ∧ spareOf s q ≠ 15 ∧
      chooseTarget s q = some t ∧ groupsOf s q t ≠ [] ∧ spareReady s q t = true) ∧
    (∃ (s : State) (q t : Nat), live s = true ∧ q < 4 ∧ t < 9 ∧ modeIn s [.sync, .serve, .splice, .safe] = true ∧
      quadParked s q = false ∧ rd s (R.modHandoverState q) = 0 ∧ mget s.pipe.load q = none ∧ spareOf s q ≠ 15 ∧
      chooseTarget s q = some t ∧ groupsOf s q t ≠ [] ∧ spareReady s q t = false) ∧
    (∃ (s : State) (q t : Nat), live s = true ∧ q < 4 ∧ mget s.pipe.load q = some t ∧ spareOf s q < 9) ∧
    (∃ (s : State) (l n : Nat) (fs : List Nat), live s = true ∧ l < 10 ∧ rd s (R.fabLinkState l) = 1 ∧ mode s = .safe
      ∧ n < 3) ∧
    (∃ (s : State) (l n : Nat) (fs : List Nat), live s = true ∧ l < 10 ∧ rd s (R.fabLinkState l) = 1 ∧ mode s = .safe
      ∧ 3 ≤ n) ∧
    (∃ (s : State) (h : CmdHdr) (q t : Nat), live s = true ∧ ByCore h ∧ q < 4 ∧ t < 9 ∧ modeIn s [.sync, .serve,
      .splice, .safe] = true ∧ rotOn s q = true ∧ mget s.pipe.want q = none ∧ spareOf s q ≠ 15 ∧ groupsOf s q t ≠ [])
      ∧
    (∃ (s : State) (h : CmdHdr) (q t : Nat), live s = true ∧ ByCore h ∧ q < 4 ∧ t < 9 ∧ modeIn s [.sync, .serve,
      .splice, .safe] = true ∧ rotOn s q = true ∧ groupsOf s q t = [] ∧ mget s.pipe.want q = none) ∧
    (∃ (s : State) (h : CmdHdr) (q t : Nat), live s = true ∧ ByCore h ∧ q < 4 ∧ t < 9 ∧ modeIn s [.sync, .serve,
      .splice, .safe] = true ∧ rotOn s q = false ∧ handRefusal s q t = none) ∧
    (∃ (s : State) (h : CmdHdr) (v : Nat), live s = true ∧ ByCore h ∧ modeIn s commandModes = true ∧ v < 16 ∧ isS s =
      false ∧ (∀ q, q < 4 → rd s (R.modSpareRetired q) = 0)) ∧
    (∃ (s : State) (h : CmdHdr) (v : Nat), live s = true ∧ ByCore h ∧ modeIn s commandModes = true ∧ v < 16 ∧ isS s =
      true ∧ (rd s R.modRotEn &&& (15 - v)) ≠ 0) ∧
    (∃ (s : State) (r v : Nat) (secs : List SecS), live s = true ∧ mode s = .splice ∧ s.img.part = some ⟨secs, [(r,
      v)]⟩ ∧ r < 192 ∧ v < 2 ^ 32 ∧ regionDone s r secs = true) ∧
    (∃ (s : State) (r q t : Nat), live s = true ∧ isCore r = false) :=
  ⟨⟨sHand .serve [] id, 33, 3, 2, by decide +kernel⟩,
  ⟨sHand .serve [(R.modHandoverState 3, 1)] id, 33, 3, 15, Status.busy, by decide +kernel⟩,
  ⟨sHand .serve [(R.modHandoverState 3, 1)] (fun p => { p with hand := [(3, hand0 [] [])] }), 550, hand0 [] [],
    by decide +kernel⟩,
  ⟨sHand .serve [(R.modHandoverState 3, 2)] (fun p => { p with hand := [(3, hand0 [] [])] }), 3, 0, false, hand0 []
    [], by decide +kernel⟩,
  ⟨sHand .serve [(R.modHandoverState 3, 2)] (fun p => { p with hand := [(3, hand0 [] [0])] }), 3, hand0 [] [0],
    by decide +kernel⟩,
  ⟨sHand .safe [(R.modHandoverState 3, 3)] (fun p => { p with testing := [(3, 8)] }), 3, 8, by decide +kernel⟩,
  ⟨sHand .serve [] (fun p => { p with want := [(3, 8)] }), 3, 8, by decide +kernel⟩,
  ⟨sHand .serve [] (fun p => { p with want := [(3, 2)] }), 3, 2, by decide +kernel⟩,
  ⟨sHand .serve [] (fun p => { p with want := [(3, 2)], prog := [(29, ⟨[1], [], 0⟩)] }), 3, 2, by decide +kernel⟩,
  ⟨sHand .serve [] (fun p => { p with load := [(3, 2)], prog := [(29, ⟨[1], [], 0⟩)] }), 3, 2, by decide +kernel⟩,
  ⟨st .safe [(R.fabLinkState 9, 1)], 9, 2, [], by decide +kernel⟩,
  ⟨st .safe [(R.fabLinkState 9, 1)], 9, 3, [9], by decide +kernel⟩,
  ⟨sHand .serve [(R.modRotEn, 8)] id, h33, 3, 2, by decide +kernel⟩,
  ⟨sHand .serve [(R.modRotEn, 8)] id, h33, 3, 8, by decide +kernel⟩,
  ⟨sHand .serve [(R.modRotEn, 7)] id, h33, 3, 2, by decide +kernel⟩,
  ⟨st .serve [], h33, 15, by decide +kernel⟩,
  ⟨st .serve [(R.idPartVariant, 1), (R.modRotEn, 15)], h33, 14, by decide +kernel⟩,
  ⟨(let s := st .splice []; { s with img := { s.img with part := some ⟨[], [(127, 2 ^ 32 - 1)]⟩ } }), 127, 2 ^ 32 -
    1, [], by decide +kernel⟩,
  ⟨st .serve [], 1, 3, 8, by decide +kernel⟩⟩

def withCtr (f : CtrS → CtrS) (s : State) : State := { s with ctr := f s.ctr }
def withSaf (f : SafeS → SafeS) (s : State) : State := { s with saf := f s.saf }
def withHost (f : HostS → HostS) (s : State) : State := { s with host := f s.host }
def withMod (f : ModS → ModS) (s : State) : State := { s with mod := f s.mod }

/-- Window 7 shows space 1, 6 or 2 of quadrant 3. -/
def sWin (sp base : Nat) : State :=
  st .serve ([(R.hifWinSelSpace 7, sp), (R.hifWinSelQuad 7, 3), (R.hifWinSelBase 7, base), (R.hbmIdPcMib 3, 1)] ++ channels 3)

/-- One record in the journal's tail. -/
def rec1 : JRec := jRec (st .serve []) 0x0031 1 0 0 (.num 0) 1 2 3
def sJnl (l : List (Fld × Nat)) : State := withSaf (fun f => { f with jTail := [rec1] }) (st .serve ([(R.jnlCfgTailMax, 4096)] ++ l))
theorem one_record : (heldRecs (sJnl [])).filter (fun r => notOlder r.seq 0) = [rec1] := by decide +kernel
theorem one_read : ((readRecs (sJnl []) 0 1).foldl (fun a r => a ++ recBytes r) []).length ≤ 64 := by
  have h : readRecs (sJnl []) 0 1 = [rec1] := by simp only [readRecs, one_record, List.mergeSort_singleton]; rfl
  rw [h]; decide +kernel
def hRead : CmdHdr := ⟨32, 33, List.replicate 0x18 0 ++ toLe 4 64, 0, false⟩

/-- Transmit ring 63 with one descriptor posted, and a copy for receive ring 127. -/
def sTx : State := withHost (fun h => { h with ringTail := [(63, 0)] }) (st .serve [(R.hifRingCfgSizeLog2 63, 15), (R.hifRingCfgHead 63, 2 ^ 15 - 1)])
def txDesc (n : Nat) : List Byte := blob 32 [(8, n)]
def sRx : State :=
  withHost (fun h => { h with ringTail := [(127, 1)] }) (withCel (fun c => { c with tx := [(551, 9)], copies := [(9, { copy9 .sending with port := 551 })] }) (sCopy .sending [(R.hifRingCfgSizeLog2 127, 4), (R.hifRingCfgBufKib 127, 9)]))

/-- A TEST in which every stack has trained and been cleared. -/
def sTest (m : ModS → ModS) : State :=
  withMod (fun x => m { x with trained := [(0, true), (1, true), (2, true), (3, true)], cleared := [0, 1, 2, 3], holdup := some true }) (st .test [])

theorem witness_CountersAndSamplesAreKept :
    (∃ (s : State) (n v : Nat), clocked s = true ∧ n < 512 ∧ selOk n v = true) ∧
    (∃ (s : State) (n v : Nat), clocked s = true ∧ n < 512 ∧ selOk n v = false) ∧
    (∃ (s : State) (n v inc : Nat), clocked s = true ∧ n < 512 ∧ v < 2 ^ 48 ∧ inc < 2 ^ 48) ∧
    (∃ (s : State) (n inc : Nat), live s = true ∧ n < 512 ∧ rd s (R.ctrSelSrc n) = 2 ∧ rdB s (R.ctrSelChain n) =
      false ∧ 2 ^ 48 ≤ rd s (R.ctrValCount n) + inc) ∧
    (∃ (s : State) (j n inc : Nat), live s = true ∧ j < 4 ∧ n = rd s (R.ctrMatchCounter j) ∧ n < 512 ∧ rd s
      (R.ctrSelSrc n) = 2 ∧ rdB s (R.ctrSelChain n) = false ∧ rd s (R.ctrMatchValue j) ≠ 0 ∧ rd s (R.ctrValCount n) <
      rd s (R.ctrMatchValue j) ∧ rd s (R.ctrMatchValue j) ≤ rd s (R.ctrValCount n) + inc ∧ rd s (R.ctrValCount n) +
      inc < 2 ^ 48) ∧
    (∃ (s : State) (r k i : Nat), clocked s = true ∧ i < 256 ∧ reachesPage r k = true ∧ rdB s (R.ctrUserEnEn k) =
      true ∧ i < rd s (R.ctrUserEnCount k) ∧ rd s (R.ctrUserEnBase k) + i < 512) ∧
    (∃ (s : State) (r k i : Nat), clocked s = true ∧ i < 256 ∧ reachesPage r k = true ∧ rdB s (R.ctrUserEnEn k) =
      false) ∧
    (∃ (s : State) (r k i : Nat), clocked s = true ∧ i < 256 ∧ reachesPage r k = true) ∧
    (∃ (s : State) (r k i : Nat) (w n : Bool), clocked s = true ∧ reachesPage r k = false) ∧
    (∃ (s : State) (q : Nat) (r : List Byte) (l : List (List Byte)), live s = true ∧ mgetD s.ctr.smpFifo q [] = r ::
      l ∧ rdB s R.smpCtlStop = false ∧ s.ctr.smpBuf.length < 2048) ∧
    (∃ (s : State) (q : Nat) (r : List Byte) (l : List (List Byte)), live s = true ∧ mgetD s.ctr.smpFifo q [] = r ::
      l ∧ rdB s R.smpCtlStop = false ∧ 2048 ≤ s.ctr.smpBuf.length) ∧
    (∃ (s : State), clocked s = true) :=
  ⟨⟨st .serve [], 511, 2 + 18 * 2 ^ 16 + 2 ^ 33, by decide +kernel⟩,
  ⟨st .serve [], 510, 2 + 18 * 2 ^ 16 + 2 ^ 33, by decide +kernel⟩,
  ⟨st .serve [], 511, 2 ^ 48 - 1, 1, by decide +kernel⟩,
  ⟨st .serve [(R.ctrSelSrc 511, 2), (R.ctrValCount 511, 2 ^ 48 - 1)], 511, 1, by decide +kernel⟩,
  ⟨st .serve [(R.ctrSelSrc 511, 2), (R.ctrMatchCounter 3, 511), (R.ctrMatchValue 3, 10), (R.ctrValCount 511, 9)], 3,
    511, 1, by decide +kernel⟩,
  ⟨st .serve [(R.ctrUserEnEn 16, 1), (R.ctrUserEnCount 16, 4), (R.ctrUserEnBase 16, 508), (R.ctrValCount 511, 77)],
    18, 16, 3, by decide +kernel⟩,
  ⟨st .serve [], 1, 255, 255, by decide +kernel⟩,
  ⟨st .serve [], 1, 255, 255, by decide +kernel⟩,
  ⟨st .serve [], 3, 2, 0, false, false, by decide +kernel⟩,
  ⟨withCtr (fun c => { c with smpFifo := [(3, [List.replicate 64 1])], smpSeq := 5 }) (st .serve []), 3,
    List.replicate 64 1, [], by decide +kernel⟩,
  ⟨withCtr (fun c => { c with smpFifo := [(3, [List.replicate 64 1])], smpBuf := List.replicate 2048 [] }) (st .serve
    []), 3, List.replicate 64 1, [], by decide +kernel⟩,
  ⟨withCtr (fun c => { c with smpBuf := [[1]], smpSeq := 9 }) (st .serve [(R.smpStatCount, 1), (R.smpStatFull, 1)]),
    by decide +kernel⟩⟩

theorem witness_WindowsPortsAndFreezeAct :
    (∃ (s : State) (r a sp q x : Nat) (b o : _), clocked s = true ∧ 0x8000000 ≤ a ∧ a < 0x10000000 ∧ winByte s (a / 8
      * 8) = (sp, q, x) ∧ x < winSize s sp q ∧ sp ≠ 6 ∧ spaceItem s sp q x = some (b, o)) ∧
    (∃ (s : State) (r a sp q x : Nat), clocked s = true ∧ 0x8000000 ≤ a ∧ a < 0x10000000 ∧ winByte s (a / 8 * 8) =
      (sp, q, x) ∧ x < winSize s sp q ∧ sp = 6 ∧ q < 4 ∧ badRange s q x 8 = false) ∧
    (∃ (s : State) (r a sp q x : Nat), clocked s = true ∧ 0x8000000 ≤ a ∧ a < 0x10000000 ∧ winByte s (a / 8 * 8) =
      (sp, q, x) ∧ x < winSize s sp q ∧ sp = 6 ∧ q < 4 ∧ badRange s q x 8 = false ∧ queuedRange s q x 8 = false) ∧
    (∃ (s : State) (r a sp q x : Nat), clocked s = true ∧ 0x8000000 ≤ a ∧ a < 0x10000000 ∧ winByte s (a / 8 * 8) =
      (sp, q, x) ∧ winSize s sp q ≤ x) ∧
    (∃ (s : State) (a : Nat), clocked s = true ∧ 0x8000000 ≤ a ∧ a < 0x10000000) ∧
    (∃ (s u : State) (a c w : Nat), powered s = true ∧ a = 0x58 + s.mod.strapSmb % 8 ∧ mode s ≠ .freeze ∧ smbWord s c
      = (some w, u)) ∧
    (∃ (s u : State) (a c w : Nat), powered s = true ∧ a = 0x58 + s.mod.strapSmb % 8 ∧ mode s ≠ .freeze) ∧
    (∃ (s : State) (cells : List (String × Bool)) (i : _), s.mod.seq ≠ .off ∧ rushesIr i = true ∧ mode s ≠ .freeze) ∧
    (∃ (s : State) (cells : List (String × Bool)), s.mod.seq ≠ .off) ∧
    (∃ (s : State) (h : CmdHdr), live s = true ∧ ByCore h) ∧
    (∃ (s : State), freezable s = true ∧ rdB s R.frzCfgPinEn = true ∧ s.ctr.frzReq = none) ∧
    (∃ (s : State), freezable s = true ∧ rdB s R.frzCfgPinEn = false) ∧
    (∃ (s : State) (c u : _), freezable s = true ∧ s.ctr.frzReq = some (c, u) ∧ c < 16 ∧ u < 512) ∧
    (∃ (s : State) (r a : _), freezable s = true ∧ s.ctr.frzReq = none ∧ s.ctr.frzCmd = some r ∧ s.ctr.frzAt = some a
      ∧ r < 512 ∧ a + 100000 ≤ uptime s) ∧
    (∃ (s : State) (r a : _), freezable s = true ∧ s.ctr.frzReq = none ∧ s.ctr.frzCmd = some r ∧ s.ctr.frzAt = some a
      ∧ r < 512 ∧ uptime s < a + 100000) ∧
    (∃ (s : State) (sp tag q a n : Nat) (v sec : Bool) (hurt : List Nat) (c : _), mode s = .freeze ∧ s.ctr.rushesTo =
      false ∧ rushesRefusal s sp q a n v = some c) ∧
    (∃ (s : State) (sp tag q a n : Nat) (v sec : Bool) (hurt : List Nat), mode s = .freeze ∧ s.ctr.rushesTo = false ∧
      rushesRefusal s 2 q a n v = none) ∧
    (∃ (s : State) (m : Nat), mode s = .freeze ∧ s.ctr.frzStep = 7) ∧
    (∃ (s : State) (m : Nat), mode s = .freeze ∧ s.ctr.frzStep ≠ 7) ∧
    (∃ (s : State) (m : Nat), mode s = .freeze) :=
  ⟨⟨sWin 1 0, 1, 0xF000008, 1, 3, 8, ((spaceItem (sWin 1 0) 1 3 8).getD ([], 0)).1, ((spaceItem (sWin 1 0) 1 3
    8).getD ([], 0)).2, by decide +kernel⟩,
  ⟨sWin 6 0, 1, 0xF000008, 6, 3, 8, by decide +kernel⟩,
  ⟨sWin 6 0, 1, 0xF000008, 6, 3, 8, by decide +kernel⟩,
  ⟨sWin 2 255, 1, 0xF000008, 2, 3, 255 * 2 ^ 24 + 8, by decide +kernel⟩,
  ⟨st .serve [], 0xFFFFFFF, by decide +kernel⟩,
  ⟨st .serve [], st .serve [], 0x58, 4, ((smbWord (st .serve []) 4).1).getD 0, by decide +kernel⟩,
  ⟨st .serve [], st .serve [], 0x58, 4, 0, by decide +kernel⟩,
  ⟨st .serve [], [], JtagIr.rushesReq, by decide +kernel⟩,
  ⟨withCtr (fun c => { c with preload := [("FAULT_N", true)] }) (st .freeze []), [("FAULT_N", true), ("no cell",
    true)], by decide +kernel⟩,
  ⟨st .serve [], h33, by decide +kernel⟩,
  ⟨st .serve [(R.frzCfgPinEn, 1)], by decide +kernel⟩,
  ⟨st .serve [], by decide +kernel⟩,
  ⟨withCtr (fun c => { c with frzReq := some (15, 511) }) (st .serve []), 15, 511, by decide +kernel⟩,
  ⟨withCtr (fun c => { c with frzCmd := some 33, frzAt := some 0 }) (st .serve [(R.timUptimeNs, 100000)]), 33, 0,
    by decide +kernel⟩,
  ⟨withCtr (fun c => { c with frzCmd := some 33, frzAt := some 0 }) (st .serve [(R.timUptimeNs, 99999)]), 33, 0,
    by decide +kernel⟩,
  ⟨st .freeze [], 4, 7, 0, 0, 64, true, false, [], Status.invalid, by decide +kernel⟩,
  ⟨withCtr (fun c => { c with frzDataRo := true, frzDump := 8 }) (st .freeze [(R.hbmIdPcMib 3, 1)]), 2, 7, 3, 64, 64,
    true, false, [], by decide +kernel⟩,
  ⟨withCtr (fun c => { c with frzStep := 7, frzDump := 1 }) (st .freeze []), 8, by decide +kernel⟩,
  ⟨st .freeze [], 8, by decide +kernel⟩,
  ⟨withCtr (fun c => { c with frzDump := 9 }) (st .freeze []), 8, by decide +kernel⟩⟩

theorem witness_FaultsAreRaisedAndCleared :
    (∃ (s : State) (c u d : Nat) (st : Bool), powered s = true ∧ c < 23 ∧ u < 65536 ∧ mode s = .safe) ∧
    (∃ (s : State) (c u d : Nat) (st : Bool), powered s = true ∧ c < 19 ∧ mode s = .serve ∧ rdB s R.frzCfgSafetyEn =
      false ∧ s.tim.rsv = [] ∧ s.eng.tasks = [] ∧ s.eng.ctxs = []) ∧
    (∃ (s : State) (r c : Nat), clocked s = true ∧ isCore r = true ∧ c < 23 ∧ ackClears s c = true ∧ 64 *
      (s.saf.jTail.length + 1) ≤ rd s R.jnlCfgTailMax) ∧
    (∃ (s : State) (r c : Nat), clocked s = true ∧ isCore r = true ∧ c < 23 ∧ ackClears s c = false) ∧
    (∃ (s : State) (r v : Nat), clocked s = true ∧ isCore r = false) ∧
    (∃ (s : State) (c u : Nat), powered s = true ∧ selfClearing c = true ∧ s.saf.standing.contains (c, u) = true ∧
      rotHolds s c u = false ∧ (∀ e ∈ s.saf.standing, e.1 = c → e = (c, u)) ∧ s.saf.uncRead = false) ∧
    (∃ (s : State) (u : Nat), powered s = true ∧ mode s = .safe) ∧
    (∃ (s : State) (d a b c : Nat), powered s = true ∧ mode s = .safe ∧ d < 9) ∧
    (∃ (s : State) (d : Nat) (x y : Bool), powered s = true ∧ mode s = .safe ∧ d < 4) ∧
    (∃ (s : State) (q p : Nat), live s = true ∧ mode s = .safe ∧ q < 4 ∧ p < 9 ∧ pipeOld s (9 * q + p) = true) :=
  ⟨⟨st .safe [], 22, 65535, 3, true, by decide +kernel⟩,
  ⟨st .serve [(R.timStatValid, 1), (R.frzCfgSafetyEn, 0)], 18, 0, 0, false, by decide +kernel⟩,
  ⟨st .safe [(R.safFaultFault, 2 ^ 22), (R.jnlCfgTailMax, 4096)], 33, 22, by decide +kernel⟩,
  ⟨st .safe [(R.safFaultFault, 2)], 33, 1, by decide +kernel⟩,
  ⟨st .safe [], 18, 0, by decide +kernel⟩,
  ⟨withSaf (fun f => { f with standing := [(20, 7)] }) (st .safe [(R.safFaultFault, 2 ^ 20)]), 20, 7,
    by decide +kernel⟩,
  ⟨st .safe [], 3, by decide +kernel⟩,
  ⟨st .safe [], 8, 106, 20, 107, by decide +kernel⟩,
  ⟨st .safe [], 3, true, true, by decide +kernel⟩,
  ⟨st .safe [(R.modRotEn, 8), (R.modXbarPg 3 0, 8), (R.timUptimeNs, 8000001)], 3, 8, by decide +kernel⟩⟩

theorem witness_JournalRecordsAreKept :
    (∃ (s : State), powered s = true ∧ s.saf.pfwN = false ∧ mode s = .safe ∧ 64 * (s.saf.jTail.length + 1) ≤ rd s
      R.jnlCfgTailMax) ∧
    (∃ (s : State), clocked s = true ∧ s.saf.pfwN = true ∧ rdB s R.jnlStatPfDone = false) ∧
    (∃ (s : State), powered s = true) ∧
    (∃ (s : State) (ty sev req u a b c : Nat) (st : JStatus), live s = true ∧ ty ∈ jTypes ∧ sev < 4 ∧ 64 *
      (s.saf.jTail.length + 1) ≤ rd s R.jnlCfgTailMax ∧ rd s R.jnlCfgTailMax ≤ 65536) ∧
    (∃ (s : State) (n : Nat), clocked s = true ∧ rdB s R.jnlStatPfDone = false ∧ s.saf.jTail ≠ [] ∧ s.saf.jOver = []
      ∧ s.saf.jLost = 0) ∧
    (∃ (s : State) (n : Nat), clocked s = true ∧ rdB s R.jnlStatPfDone = false ∧ s.saf.jTail ≠ [] ∧ s.saf.jRetry =
      false) ∧
    (∃ (s : State) (n : Nat), clocked s = true ∧ rdB s R.jnlStatPfDone = false ∧ s.saf.jTail ≠ [] ∧ s.saf.jRetry =
      true) ∧
    (∃ (s : State) (h : CmdHdr) (a n : Nat), live s = true ∧ ByCore h ∧ n ≤ 4096 ∧ ((readRecs s a n).foldl (fun a r
      => a ++ recBytes r) []).length ≤ cmdBufLen h) ∧
    (∃ (s : State) (r : Nat), live s = true ∧ isCore r = true ∧ rdB s R.keyStatZeroized = true) ∧
    (∃ (s : State) (r : Nat), live s = true ∧ isCore r = true ∧ rdB s R.keyStatZeroized = false) ∧
    (∃ (s : State) (cells : List (String × Bool)), s.mod.seq ≠ .off ∧ rdB s R.keyStatZeroized = true) ∧
    (∃ (s : State) (cells : List (String × Bool)), s.mod.seq ≠ .off ∧ rdB s R.keyStatZeroized = false) :=
  ⟨⟨st .safe [(R.jnlCfgTailMax, 4096)], by decide +kernel⟩,
  ⟨withSaf (fun f => { f with pfwN := true }) (sJnl []), by decide +kernel⟩,
  ⟨withSaf (fun f => { f with pfwN := true }) (sJnl [(R.jnlStatPfDone, 1)]), by decide +kernel⟩,
  ⟨sJnl [], 0x0031, 3, 33, 1, 2, 3, 4, .code .busy, by decide +kernel⟩,
  ⟨sJnl [], 1, by decide +kernel⟩,
  ⟨sJnl [], 1, by decide +kernel⟩,
  ⟨withSaf (fun f => { f with jRetry := true }) (sJnl []), 1, by decide +kernel⟩,
  ⟨sJnl [], hRead, 0, 1, by decide +kernel, (by decide +kernel), by decide +kernel, one_read⟩,
  ⟨st .serve [(R.keyStatZeroized, 1)], 33, by decide +kernel⟩,
  ⟨st .serve [], 33, by decide +kernel⟩,
  ⟨st .freeze [(R.keyStatZeroized, 1)], [], by decide +kernel⟩,
  ⟨st .freeze [], [("FAULT_N", true)], by decide +kernel⟩⟩

theorem witness_RingsAndLinksCarry :
    (∃ (s : State) (r x tail : Nat), live s = true ∧ r < 128 ∧ ringSize s r ≠ 0) ∧
    (∃ (s : State) (r x tail : Nat), live s = true ∧ r < 128 ∧ ringSize s r = 0) ∧
    (∃ (s : State) (r x tail : Nat), live s = true ∧ r < 128 ∧ (x % 0x40 ≠ 0 ∨ 128 ≤ x / 0x40)) ∧
    (∃ (s v : State) (r p : Nat) (desc frame d b : List Byte), live s = true ∧ r < 64 ∧ p = 544 + r / 8 ∧ carries s =
      true ∧ bit (rd s R.pwrParkParked) (portQuad p) = false ∧ txTurn s p = some r ∧ rd s (R.hifRingCfgSizeLog2 r) ≤
      15 ∧ rd s (R.hifRingCfgHead r) < ringSize s r ∧ d = slice desc 0 32 ∧ txDescBad d = true) ∧
    (∃ (s v : State) (r p : Nat) (desc frame d b : List Byte), live s = true ∧ r < 64 ∧ p = 544 + r / 8 ∧ carries s =
      true ∧ bit (rd s R.pwrParkParked) (portQuad p) = false ∧ txTurn s p = some r ∧ rd s (R.hifRingCfgSizeLog2 r) ≤
      15 ∧ rd s (R.hifRingCfgHead r) < ringSize s r ∧ d = slice desc 0 32 ∧ txDescBad d = false ∧ bits (fieldLe d 8
      4) 0 14 < 60) ∧
    (∃ (s v : State) (r p : Nat) (desc frame d b : List Byte), live s = true ∧ r < 64 ∧ p = 544 + r / 8 ∧ carries s =
      true ∧ bit (rd s R.pwrParkParked) (portQuad p) = false ∧ txTurn s p = some r ∧ rd s (R.hifRingCfgSizeLog2 r) ≤
      15 ∧ rd s (R.hifRingCfgHead r) < ringSize s r ∧ d = slice desc 0 32 ∧ txDescBad d = false ∧ 9212 < bits
      (fieldLe d 8 4) 0 14) ∧
    (∃ (s v : State) (r p : Nat) (desc frame d b : List Byte), live s = true ∧ r < 64 ∧ p = 544 + r / 8 ∧ carries s =
      true ∧ bit (rd s R.pwrParkParked) (portQuad p) = false ∧ txTurn s p = some r ∧ rd s (R.hifRingCfgSizeLog2 r) ≤
      15 ∧ rd s (R.hifRingCfgHead r) < ringSize s r ∧ d = slice desc 0 32 ∧ txDescBad d = false ∧ 60 ≤ bits (fieldLe
      d 8 4) 0 14 ∧ bits (fieldLe d 8 4) 0 14 ≤ 9212 ∧ b = slice frame 0 (bits (fieldLe d 8 4) 0 14) ∧ v =
      completeDesc { s with host := { s.host with txNext := mset s.host.txNext p ((r + 1) % 8) } } r (putBytes d 8
      (toLe 4 (setBit (fieldLe d 8 4) 31)))) ∧
    (∃ (s : State) (p cp r : Nat) (desc : List Byte) (out : Option (List Byte)) (c : CopyS) (f : FrameS), live s =
      true ∧ 544 ≤ p ∧ p < 552 ∧ mget s.cel.tx p = some cp ∧ mget s.cel.copies cp = some c ∧ mget s.cel.frames c.head
      = some f ∧ r = rxRing s p c.queue ∧ ringPosted s r ≠ 0 ∧ c.dropAs = 0 ∧ f.abortUnsent = 0 ∧ f.ended = true ∧
      c.port < 552 ∧ rxDescBad desc = false ∧ (f.pool = 1 → (cellsIn s (frameCells s c.head) 0).1 = none)) ∧
    (∃ (s : State) (p cp r : Nat) (desc : List Byte) (out : Option (List Byte)) (c : CopyS) (f : FrameS), live s =
      true ∧ 544 ≤ p ∧ p < 552 ∧ mget s.cel.tx p = some cp ∧ mget s.cel.copies cp = some c ∧ mget s.cel.frames c.head
      = some f ∧ r = rxRing s p c.queue ∧ ringPosted s r ≠ 0 ∧ c.dropAs = 0 ∧ f.abortUnsent = 0 ∧ f.ended = true ∧
      c.port < 552 ∧ rxDescBad desc = true ∧ r < 128 ∧ rd s (R.hifRingCfgSizeLog2 r) ≤ 15) ∧
    (∃ (s : State) (ty q : Nat) (ctl : Bool) (b : List Byte), live s = true ∧ 1 ≤ ty ∧ ty ≤ 5 ∧ b ≠ [] ∧ b.length ≤
      64 ∧ (rd s R.hifEvtStatTail + 2 ^ 17 - rd s R.hifEvtStatHead) % 2 ^ 17 < evSize s) ∧
    (∃ (s : State) (ty q : Nat) (ctl : Bool) (b : List Byte), live s = true ∧ 1 ≤ ty ∧ ty ≤ 5 ∧ b ≠ [] ∧ b.length ≤
      64 ∧ evSize s ≤ (rd s R.hifEvtStatTail + 2 ^ 17 - rd s R.hifEvtStatHead) % 2 ^ 17) ∧
    (∃ (s : State) (v : Nat), clocked s = true) ∧
    (∃ (s : State) (a b : Nat) (x : Bool) (idle : LinkState) (mask : List (Nat × Nat)), clocked s = true ∧
      s.host.refclk = true ∧ a < 8 ∧ b < 16) ∧
    (∃ (s : State) (p : Nat), live s = true ∧ p < 512 ∧ rd s (R.pwrPortState p) = 2 ∧ (mget s.cel.rx p).bind
      (·.frame) = none) :=
  ⟨⟨sTx, 63, 0, 2 ^ 15 + 3, by decide +kernel⟩,
  ⟨st .serve [], 127, 0, 1, by decide +kernel⟩,
  ⟨st .serve [], 0, 0x2000, 1, by decide +kernel⟩,
  ⟨sTx, sTx, 63, 551, blob 32 [(10, 1)], [], blob 32 [(10, 1)], [], by decide +kernel⟩,
  ⟨sTx, sTx, 63, 551, txDesc 59, [], txDesc 59, [], by decide +kernel⟩,
  ⟨sTx, sTx, 63, 551, blob 32 [(8, 0xFF), (9, 0x3F)], [], blob 32 [(8, 0xFF), (9, 0x3F)], [], by decide +kernel⟩,
  ⟨sTx, completeDesc { sTx with host := { sTx.host with txNext := mset sTx.host.txNext 551 ((63 + 1) % 8) } } 63
    (putBytes (txDesc 60) 8 (toLe 4 (setBit (fieldLe (txDesc 60) 8 4) 31))), 63, 551, txDesc 60, body60, txDesc 60,
    body60, by decide +kernel⟩,
  ⟨sRx, 551, 9, 127, blob 8 [(1, 16)], none, { copy9 .sending with port := 551 }, fr9 .done true false [9] 64,
    by decide +kernel⟩,
  ⟨sRx, 551, 9, 127, blob 32 [(11, 1)], none, { copy9 .sending with port := 551 }, fr9 .done true false [9] 64,
    by decide +kernel⟩,
  ⟨st .serve [(R.hifEvtCfgSizeLog2, 3), (R.hifEvtStatTail, 7), (R.hifEvtBaseAddr, 1)], 5, 3, true, List.replicate 64
    9, by decide +kernel⟩,
  ⟨st .serve [(R.hifEvtCfgSizeLog2, 3), (R.hifEvtStatTail, 8)], 1, 3, true, [1], by decide +kernel⟩,
  ⟨st .serve [], 2 ^ 17 - 1, by decide +kernel⟩,
  ⟨withHost (fun h => { h with refclk := true, vecHeld := [(1, 5), (0, 64)], msixPend := [(0, 84)] }) (st .serve []),
    7, 15, true, .l2, [(1, 5)], by decide +kernel⟩,
  ⟨st .serve [(R.pwrPortState 511, 2), (R.timSyncePort 1, 511), (R.timSynceSquelched 1, 0)], 511, by decide +kernel⟩⟩

theorem witness_ModesFollowTestAndSafe :
    (∃ (s : State) (q p : Nat) (bad : List Nat), live s = true ∧ q < 4 ∧ q ∈ s.hbm.initial ∧ rdB s (R.hbmRateHeld q)
      = false ∧ p < 64 ∧ rd s (R.hbmPcRole q p) < 2) ∧
    (∃ (s : State) (q p : Nat) (bad : List Nat), live s = true ∧ q < 4 ∧ q ∈ s.hbm.initial ∧ rdB s (R.hbmRateHeld q)
      = false) ∧
    (∃ (s : State) (q p : Nat) (bad : List Nat), live s = true ∧ q < 4 ∧ q ∈ s.hbm.initial ∧ rdB s (R.hbmRateHeld q)
      = true ∧ rd s (R.hbmRateTarget q) ≤ 2) ∧
    (∃ (s : State) (q : Nat), live s = true ∧ q < 4 ∧ mode s = .test ∧ memServes s q = true ∧ q ∉ s.mod.cleared) ∧
    (∃ (s : State) (v c : Nat), live s = true ∧ mode s = .test ∧ s.saf.holdupTest = true ∧ v < 65536 ∧
      s.saf.modeSince + 10 ^ 6 ≤ uptime s ∧ c = holdupCause s (rd s R.safHoldupCfgVminMv) s.saf.v0 v (usableEnergy
      (rd s R.safHoldupCfgLoadMw) (rd s R.safHoldupCfgVminMv) s.saf.v0 v)) ∧
    (∃ (s : State), live s = true ∧ mode s = .test ∧ s.mod.tested = false ∧ testJudged s = true ∧ s.mod.failed = [] ∧
      kindsHold s = true ∧ classSFaults s = 0 ∧ (∀ d ∈ portDecls (sec s 1 0), d.port < 512)) ∧
    (∃ (s : State) (pipes grps : List Nat), live s = true ∧ mode s = .test ∧ s.mod.tested = false ∧ testJudged s =
      true ∧ s.mod.failed ≠ []) ∧
    (∃ (s : State), live s = true ∧ mode s = .sync ∧ timeValid s = true ∧ (s.tim.oper.all (fun e => e.2.cycle == 0 ||
      rdB s (R.shtPortBaseRun (macQ e.1) (macM e.1)))) = true) ∧
    (∃ (s : State) (h : CmdHdr), live s = true ∧ ByCore h ∧ mode s = .test ∧ isS s = false ∧ s.mod.failed = [4] ∧
      s.mod.tested = false) ∧
    (∃ (s : State) (h : CmdHdr), live s = true ∧ ByCore h ∧ mode s = .test ∧ isS s = true) ∧
    (∃ (s : State) (h : CmdHdr), live s = true ∧ ByCore h ∧ mode s = .safe ∧ classSFaults s = 0) ∧
    (∃ (s : State) (h : CmdHdr), live s = true ∧ ByCore h ∧ mode s = .safe ∧ classSFaults s ≠ 0) :=
  ⟨⟨withHbm (fun h => { h with initial := [3] }) (st .test []), 3, 5, [], by decide +kernel⟩,
  ⟨withHbm (fun h => { h with initial := [3] }) (st .test []), 3, 0, [63], by decide +kernel⟩,
  ⟨withHbm (fun h => { h with initial := [3] }) (st .test [(R.hbmRateHeld 3, 1), (R.hbmRateTarget 3, 2)]), 3, 0,
    [63], by decide +kernel⟩,
  ⟨withMem 3 64 [7] (withSecs [memMap10] (st .test (channels 3 ++ [(R.hbmStatState 3, 3), (R.hbmMapBaseMib 3 5,
    1)]))), 3, by decide +kernel⟩,
  ⟨withSaf (fun f => { f with holdupTest := true, v0 := 5000 }) (st .test [(R.timUptimeNs, 1000000)]), 65535,
    holdupCause (withSaf (fun f => { f with holdupTest := true, v0 := 5000 }) (st .test [(R.timUptimeNs, 1000000)]))
    (rd (st .test []) R.safHoldupCfgVminMv) 5000 65535 (usableEnergy (rd (st .test []) R.safHoldupCfgLoadMw) (rd (st
    .test []) R.safHoldupCfgVminMv) 5000 65535), by decide +kernel⟩,
  ⟨sTest id, by decide +kernel⟩,
  ⟨sTest (fun m => { m with failed := [5] }), [35, 34], [31], by decide +kernel⟩,
  ⟨st .sync [(R.timStatValid, 1)], by decide +kernel⟩,
  ⟨sTest (fun m => { m with failed := [4], holdup := some false }), h33, by decide +kernel⟩,
  ⟨st .test [(R.idPartVariant, 1)], h33, by decide +kernel⟩,
  ⟨st .safe [], h33, by decide +kernel⟩,
  ⟨st .safe [(R.safFaultFault, 2 ^ 18)], h33, by decide +kernel⟩⟩

theorem witness_PortsTrainAndQuadrantsPark :
    (∃ (s : State) (r p : Nat), live s = true ∧ isCore r = true ∧ p < 512 ∧ portReserved s p = false ∧ rdB s
      (R.pwrPortPd p) = false) ∧
    (∃ (s : State) (r p : Nat), live s = true ∧ isCore r = true ∧ p < 512 ∧ portReserved s p = true) ∧
    (∃ (s : State) (r p : Nat), live s = true ∧ isCore r = true ∧ p < 512 ∧ quadParked s (macQ p) = false ∧ rdB s
      (R.pwrPortPd p) = true) ∧
    (∃ (s : State) (r p : Nat), live s = true ∧ isCore r = true ∧ p < 512 ∧ linkMay s p = true) ∧
    (∃ (s : State) (r p : Nat), live s = true ∧ isCore r = true ∧ p < 512 ∧ (rd s (R.pwrPortState p) = 1 ∨ rd s
      (R.pwrPortState p) = 3 ∧ linkMay s p = true)) ∧
    (∃ (s : State) (r p q : Nat) (c : Instr), live s = true ∧ isCore r = false ∧ p < 512 ∧ q < 4 ∧ c ∈
      [.portPowerDown r p, .portPowerUp r p, .portRetrain r p, .quadrantPark r q, .quadrantUnpark r q]) ∧
    (∃ (s : State) (r q : Nat), live s = true ∧ isCore r = true ∧ q < 4 ∧ quadParked s q = false ∧ mget s.mod.parking
      q = none ∧ parkRefusal s q = none) ∧
    (∃ (s : State) (r q : Nat) (c : _), live s = true ∧ isCore r = true ∧ q < 4 ∧ quadParked s q = false ∧ mget
      s.mod.parking q = none ∧ parkRefusal s q = some c) ∧
    (∃ (s : State) (q a : Nat), live s = true ∧ q < 4 ∧ mget s.mod.parking q = some a ∧ poolsHold s q = false) ∧
    (∃ (s : State) (q a : Nat), live s = true ∧ q < 4 ∧ mget s.mod.parking q = some a ∧ poolsHold s q = true ∧ a + 10
      ^ 9 ≤ uptime s) ∧
    (∃ (s : State) (r q : Nat), live s = true ∧ isCore r = true ∧ q < 4 ∧ quadParked s q = true ∧ mget
      s.mod.unparking q = none) ∧
    (∃ (s : State) (r q : Nat), live s = true ∧ isCore r = true ∧ q < 4 ∧ quadParked s q = false) :=
  ⟨⟨sPort .serve [], 33, 5, by decide +kernel⟩,
  ⟨sRsv 600000, 33, 5, by decide +kernel⟩,
  ⟨sPort .serve [(R.pwrPortPd 5, 1)], 33, 5, by decide +kernel⟩,
  ⟨sPort .serve [], 33, 5, by decide +kernel⟩,
  ⟨sPort .serve [(R.pwrPortState 5, 3), (R.pwrPortRetrain 5, 1)], 33, 5, by decide +kernel⟩,
  ⟨sPort .serve [], 1, 511, 3, .quadrantUnpark 1 3, by decide +kernel⟩,
  ⟨sPort .serve [(R.hbmStatState 3, 3)], 33, 3, by decide +kernel⟩,
  ⟨sPort .serve [], 33, 0, Status.invalid, by decide +kernel⟩,
  ⟨withMod (fun m => { m with parking := [(3, 0)] }) (st .serve [(R.hbmStatState 3, 3)]), 3, 0, by decide +kernel⟩,
  ⟨withMod (fun m => { m with parking := [(0, 5)] }) (sCopy .queued [(R.timUptimeNs, 1000000005)]), 0, 5,
    by decide +kernel⟩,
  ⟨st .serve [(R.pwrParkParked, 8), (R.pwrParkReq, 8)], 33, 3, by decide +kernel⟩,
  ⟨withMod (fun m => { m with parking := [(3, 0)] }) (st .serve [(R.pwrParkReq, 8)]), 33, 3, by decide +kernel⟩⟩

/-- CRC-32C register with its value computed at every byte. -/
def crcF : Nat → List Byte → Nat
  | c, [] => c
  | c, b :: bs => match crcReg 0x82F63B78 c [b] with
    | 0 => crcF 0 bs
    | n + 1 => crcF (n + 1) bs

theorem crcF_eq (c : Nat) (l : List Byte) : crcReg 0x82F63B78 c l = crcF c l := by
  induction l generalizing c with
  | nil => rfl
  | cons b bs ih =>
    unfold crcF
    rw [show crcReg 0x82F63B78 c (b :: bs) = crcReg 0x82F63B78 (crcReg 0x82F63B78 c [b]) bs from rfl]
    split <;> rename_i h <;> rw [h] <;> exact ih _

def crcT (b : List Byte) : Nat := crcF (0xFFFFFFFF % 2 ^ 32) b ^^^ 0xFFFFFFFF
theorem crcT_eq (b : List Byte) : crc32c 0xFFFFFFFF b = crcT b := by simp only [crc32c, crcT, crcF_eq]

/-- No section of the table fails its CRC. -/
def crcsOk (b : List Byte) : Bool := (secTable b).all (fun e => crcT (slice b e.off e.len) == e.crc)
theorem crcsOk_none (b : List Byte) (h : crcsOk b = true) : badCrc b [] = none := by
  simp only [badCrc, crcT_eq, List.find?_eq_none]
  intro i _
  cases hi : (secTable b)[i]? with
  | none => simp
  | some e => simpa using List.all_eq_true.mp h e (List.mem_of_getElem? hi)

def pad64 (b : List Byte) : List Byte := b ++ List.replicate (cdiv b.length 64 * 64 - b.length) 0

/-- Section-table entries (kind, region, instance, payload) whose payloads stand at multiples of 64 from `o` on. -/
def secEntries : Nat → List (Nat × Nat × Nat × List Byte) → List Byte
  | _, [] => []
  | o, (k, r, i, p) :: l =>
    toLe 2 k ++ toLe 2 r ++ toLe 2 i ++ toLe 2 0 ++ toLe 4 o ++ toLe 4 p.length ++ toLe 4 (crcT p) ++
      List.replicate 12 0 ++ secEntries (o + (pad64 p).length) l

/-- An image in the clear, laid out by R45–R49, its signature block filled but for its magic with zeros. -/
def image (kind : Nat) (regs : List (Nat × Nat)) (secs : List (Nat × Nat × Nat × List Byte)) : List Byte :=
  let ro := 128 + (pad64 (List.replicate (32 * secs.length) 0)).length
  let po := ro + (pad64 (List.replicate (16 * regs.length) 0)).length
  let body := (secs.map (fun x => pad64 x.2.2.2)).flatten
  let sig := po + body.length
  pad64 (toLe 4 0x53494B53 ++ toLe 2 0x100 ++ toLe 2 128 ++ toLe 4 1 ++ toLe 2 0 ++ toLe 1 kind ++ toLe 1 6 ++
    toLe 4 (sig + 14856) ++ toLe 2 secs.length ++ toLe 2 regs.length ++ toLe 4 128 ++ toLe 4 ro ++ toLe 4 sig) ++
    List.replicate 64 0 ++ pad64 (secEntries po secs) ++
    pad64 ((regs.map (fun e => toLe 2 e.1 ++ toLe 2 0 ++ toLe 4 e.2 ++ List.replicate 8 0)).flatten) ++ body ++
    toLe 4 0x53424B53 ++ toLe 2 1

/-- A full image without front ports: every pipe of class 0, no engine group, no table, no stage. -/
def imgFull : List Byte :=
  image 0 [(0, 1), (1, 1), (2, 1)]
    [(1, 0, 0, List.replicate 0x28 0 ++ List.replicate 0x20 0xFF),
     (2, 0, 0, blob 0x26 [(0, 24), (8, 4), (9, 6), (10, 6), (16, 4), (17, 6), (18, 6), (24, 4), (25, 6), (26, 6),
       (32, 4), (33, 6), (34, 6)]),
     (3, 1, 0, blob 0x108 [(0, 1), (6, 128), (7, 2), (8, 1), (0x41, 16), (0x101, 1), (0x102, 0xC0), (0x103, 2)]),
     (4, 2, 0, blob 16 []), (5, 0, 0, blob 0x20 [(2, 1), (4, 1)]), (6, 0, 0, List.replicate 1040 0),
     (7, 0, 0, blob 96 [(3, 1), (5, 2), (12, 1), (16, 2), (20, 3)]), (11, 0, 0, blob 128 [(2, 1), (8, 1)]),
     (12, 0, 0, blob 8 []), (13, 0, 0, blob 40 []), (14, 0, 0, blob 40 [])]

/-- A partial image that loads engine class 0 with one microword. -/
def imgPart : List Byte := image 1 [(10, 1)] [(8, 10, 0, blob 792 [(0, 1)])]

/-- Bytes of zero that the key hashes of these tests are taken over. -/
def zeroKeys : List Byte := List.replicate 2689 0
def withRoot (s : State) : State :=
  { s with fuse := { s.fuse with rootHash := sha zeroKeys, ownerHash := some (sha zeroKeys) } }
def withImg (f : ImgS → ImgS) (s : State) : State := { s with img := f s.img }


/-- A signature block of zeros but for its magic and format. -/
def sigHead : List Byte := toLe 4 0x53424B53 ++ toLe 2 1
def sigZero : List Byte := sigHead ++ List.replicate 14850 0

/-- A firmware image of 64 bytes of code. -/
def fwHead : List Byte :=
  toLe 4 0x57464B53 ++ toLe 4 7 ++ toLe 8 0 ++ toLe 4 64 ++ toLe 4 (crcT (List.replicate 64 0)) ++ List.replicate 104 0
def fwT : List Byte := fwHead ++ sigZero

theorem slice_zeros (x : List Byte) (k o n : Nat) (h : x.length ≤ o) :
    slice (x ++ List.replicate k 0) o n = List.replicate n 0 := by
  simp only [slice, List.drop_append, List.drop_eq_nil_of_le h, List.nil_append, List.drop_replicate, List.take_replicate,
    List.length_replicate, List.replicate_append_replicate]
  congr 1
  omega

theorem slice_prefix (x y : List Byte) (o n : Nat) (h : o + n ≤ x.length) : slice (x ++ y) o n = slice x o n := by
  have h1 : n - (x.length - o) = 0 := by omega
  have h2 : o - x.length = 0 := by omega
  simp [slice, List.drop_append, List.take_append, h1, h2]

theorem sigZero_keys :
    fieldLe sigZero 0 4 = 0x53424B53 ∧ fieldLe sigZero 4 2 = 1 ∧
      slice sigZero 8 97 ++ slice sigZero 0x198 2592 = zeroKeys ∧
      slice sigZero 0x70 97 ++ slice sigZero 0xBB8 2592 = zeroKeys := by
  have hl : sigHead.length = 6 := rfl
  refine ⟨by decide +kernel, by decide +kernel, ?_, ?_⟩ <;> unfold sigZero zeroKeys <;>
    rw [slice_zeros _ _ _ _ (by omega), slice_zeros _ _ _ _ (by omega), List.replicate_append_replicate]

theorem chain_holds (hk : ∀ p m g, Config.ecdsaOk p m g = true) (hm : ∀ p m g, Config.mldsaOk p m g = true)
    (f : FuseS) (d : List Byte) (hr : f.rootHash = sha zeroKeys) (ho : f.ownerHash = some (sha zeroKeys)) :
    chainFails f d sigZero = none := by
  obtain ⟨h1, h2, h3, h4⟩ := sigZero_keys
  simp [chainFails, h1, h2, h3, h4, hr, ho, hk, hm]

theorem imgFull_sig : slice imgFull (imSigOff imgFull) 14856 = sigZero := by
  have h : (imgFull.drop (imSigOff imgFull)).take 14856 = sigHead := by decide +kernel
  simp only [slice, h, sigZero]; rfl
theorem imgPart_sig : slice imgPart (imSigOff imgPart) 14856 = sigZero := by
  have h : (imgPart.drop (imSigOff imgPart)).take 14856 = sigHead := by decide +kernel
  simp only [slice, h, sigZero]; rfl

/-- What `overLimit` asks beside the table store. -/
def overPlain (u : Nat → Nat) (x : SecS) : Bool :=
  match x.kind with
  | 2 => (List.range 4).any (fun q => decide (32 < mpPool1 x.bytes q) || decide (u q < regionsMib x.bytes q 7)) ||
      decide (128 < ((List.range 4).map (mpPool1 x.bytes)).sum)
  | 3 => decide (256 < fieldLe x.bytes 0 2)
  | 4 => decide (24 < fieldLe x.bytes 0 1)
  | 5 => decide (16384 < fieldLe x.bytes 2 2) || decide (256 < fieldLe x.bytes 4 2) || decide (472 < fieldLe x.bytes 6 2)
  | 8 => decide (16384 < fieldLe x.bytes 0 2)
  | _ => false

theorem overLimit_plain (l : List SecS) (u : Nat → Nat) (h : (List.range 4).any (storeOver l) = false) :
    (fun x => !overLimit l u x) = fun x => !overPlain u x := by
  funext x
  unfold overLimit overPlain
  split <;> simp_all

/-- The sections of the full image. -/
def secsT : List SecS := imSections State.reset imgFull

theorem clear_sections (s : State) : imSections s imgFull = secsT := by
  have h : (secTable imgFull).all (fun e => !e.enc) = true := by decide +kernel
  have h : ∀ e ∈ secTable imgFull, e.enc = false := by simpa using h
  simp only [secsT, imSections]
  apply List.map_congr_left
  intro e he
  simp [h e (List.mem_of_mem_filter he)]

theorem secsT_fit (ho : Config.storeOverhead ≤ 2 ^ 20) : (List.range 4).any (storeOver secsT) = false := by
  have h : ∀ q ∈ List.range 4, storeOver secsT q = false := by
    intro q hq
    have h1 : ((List.range 4).all (fun q => mpTs (secBytes secsT 2 0) q * 16777216 == 100663296 &&
        (((tblsOf secsT).filter (fun d => bit d.quads q)).map tblStoreBytes).sum == 0 &&
        ((upFrom (16 * q) 16).map (fun g => 64 * (treeHdrOf (secBytes secsT 9 g)).nodeCount)).sum == 0 &&
        !flowIn secsT q)) = true := by decide +kernel
    have h2 := List.all_eq_true.mp h1 q hq
    simp only [Bool.and_eq_true, beq_iff_eq, Bool.not_eq_true'] at h2
    obtain ⟨⟨⟨a, b⟩, c⟩, d⟩ := h2
    simp only [storeOver, storeNeed, a, b, c, d, decide_eq_false_iff_not]
    simp only [Bool.false_eq_true, if_false]
    omega
  simpa using h

/-- The front checks hold of an image whose parts are right and whose chain holds. -/
theorem front_ok (s : State) (b : List Byte) (h1 : fieldLe b 0 4 = 0x53494B53)
    (h2 : ¬(imFormat b / 256 ≠ 1 ∨ fieldLe b 6 2 ≠ 128)) (h3 : layoutOk b = true) (h4 : crcsOk b = true)
    (hc : imChain s b = none) : checkFront s b [] = none := by
  unfold checkFront
  rw [if_neg (not_not.mpr h1), if_neg h2, if_neg (by rw [h3]; decide), crcsOk_none b h4, hc]
  rfl

theorem full_of (s : State) (b : List Byte) (l : List SecS) (hf : checkFront s b [] = none) (hl : imSections s b = l)
    (h1 : imRollback b = 0) (h2 : rd s R.imgFuseRollbackFuses = 0) (h3 : imKind b = 0)
    (h4 : variantOk s b = true) (h5 : badEnc b = none) (h6 : imEncrypted b = false) (h7 : placesFail b l = none)
    (h8 : fullPresent l = true) (h9 : firstBad b l (contentOk l (tailRsvOf s) (isS s)) = none) (h10 : stacksOk s = true)
    (h11 : firstBad b l (fun x => !overLimit l (stackMib s) x) = none) : checkFull s b [] = .ok l := by
  simp [checkFull, fullFront, fullRest, hf, hl, h1, h2, h3, h4, h5, h6, h7, h8, h9, h10, h11]

theorem full_front : fieldLe imgFull 0 4 = 0x53494B53 ∧ ¬(imFormat imgFull / 256 ≠ 1 ∨ fieldLe imgFull 6 2 ≠ 128) ∧
    layoutOk imgFull = true ∧ crcsOk imgFull = true := by decide +kernel
theorem full_rest : imRollback imgFull = 0 ∧ imKind imgFull = 0 ∧ badEnc imgFull = none ∧ imEncrypted imgFull = false ∧
    placesFail imgFull secsT = none ∧ fullPresent secsT = true := by decide +kernel

/-- What `contentOk` asks beside the room for the egress section. -/
def contentPlain (l : List SecS) (t : Nat → Nat) (v : Bool) (x : SecS) : Bool :=
  if x.kind = 4 then stagesOk (secBytes l 3 0) (secBytes l 0xE 0) x.bytes else contentOk l t v x

theorem content_plain (he : ∀ b, Config.egressOver b = false) (l : List SecS) (t : Nat → Nat) (v : Bool) :
    contentOk l t v = contentPlain l t v := by
  funext x
  unfold contentPlain
  split
  · simp_all [contentOk]
  · rfl

/-- The part, its fuses and its stacks accept the full image. -/
theorem full_ok (hk : ∀ p m g, Config.ecdsaOk p m g = true) (hm : ∀ p m g, Config.mldsaOk p m g = true)
    (ho : Config.storeOverhead ≤ 2 ^ 20) (he : ∀ b, Config.egressOver b = false) (s : State) (hr : s.fuse.rootHash = sha zeroKeys)
    (hw : s.fuse.ownerHash = some (sha zeroKeys))
    (h : rd s R.imgFuseRollbackFuses = 0 ∧ variantOk s imgFull = true ∧
      firstBad imgFull secsT (contentPlain secsT (tailRsvOf s) (isS s)) = none ∧ stacksOk s = true ∧
      firstBad imgFull secsT (fun x => !overPlain (stackMib s) x) = none) :
    checkFull s imgFull [] = .ok (imSections s imgFull) := by
  obtain ⟨h1, h2, h3, h4, h5⟩ := h
  have hc : imChain s imgFull = none := by
    rw [imChain, imgFull_sig]
    exact chain_holds hk hm _ _ hr hw
  have hf := front_ok s imgFull full_front.1 full_front.2.1 full_front.2.2.1 full_front.2.2.2 hc
  obtain ⟨g1, g2, g3, g4, g5, g6⟩ := full_rest
  rw [← content_plain he] at h3
  rw [← overLimit_plain secsT (stackMib s) (secsT_fit ho)] at h5
  rw [full_of s imgFull secsT hf (clear_sections s) g1 h1 g2 h2 g3 g4 g5 g6 h3 h4 h5, clear_sections]

theorem fwT_ok (hk : ∀ p m g, Config.ecdsaOk p m g = true) (hm : ∀ p m g, Config.mldsaOk p m g = true) (s : State)
    (hr : s.fuse.rootHash = sha zeroKeys) (hw : s.fuse.ownerHash = some (sha zeroKeys))
    (h : rd s R.imgFuseRollbackFuses = 0) : fwRefusal s fwT = none := by
  have g : fieldLe fwT 0 4 = 0x57464B53 ∧ fwCodeLen fwT = 64 ∧ fwSig fwT = 128 ∧ fwRollback fwT = 0 ∧
      crcT (slice fwT 64 64) = fieldLe fwT 0x14 4 ∧ fieldLe fwT 0x0E 2 = 0 ∧ leNat (slice fwT 0x18 40) = 0 ∧
      leNat (slice fwT 128 0) = 0 := by decide +kernel
  obtain ⟨g1, g2, g3, g4, g5, g6, g7, g8⟩ := g
  have hl : fwT.length = 14984 := by
    have : fwHead.length = 128 := by decide +kernel
    simp only [fwT, sigZero, List.length_append, List.length_replicate, this]; rfl
  have hs : slice fwT 128 14856 = sigZero := by
    have h : fwT.drop 128 = sigZero := List.drop_left' (by decide +kernel)
    have h2 : sigZero.length = 14856 := by simp only [sigZero, List.length_append, List.length_replicate]; rfl
    simp only [slice, h, List.take_of_length_le (Nat.le_of_eq h2), h2]; simp
  have hc := chain_holds hk hm s.fuse (sha (slice fwT 0 128)) hr hw
  simp [fwRefusal, g1, g2, g3, g4, g5, g6, g7, g8, hl, hs, hc, h, crcT_eq]

theorem part_of (s : State) (b : List Byte) (l : List SecS) (hf : checkFront s b [] = none) (hl : imSections s b = l)
    (h1 : imLineage b = rd s R.imgLineageLineage) (h2 : imBase b = rd s R.imgImageVerImageVer)
    (h3 : imRollback b = rd s R.imgImageVerRollback) (h4 : imKind b = 1) (h5 : variantOk s b = true)
    (h6 : placesFail b l = none) (h7 : (regionMap b).all (partRegionOk s) = true) (h8 : badEnc b = none)
    (h9 : imEncrypted b = false) (h10 : firstBad b l (partialOk s (mergedSecs s b l)) = none)
    (h11 : emptyShutterFits s b l = true)
    (h12 : firstBad b l (fun x => !overLimit (mergedSecs s b l) (stackMib s) x) = none) :
    checkPartial s b = .ok l := by
  simp only [checkPartial, partFront, partRest, hf, hl, h1, h2, h3, h4, h5, h6, h7, h8, h9, h10, h11, h12]
  simp

/-- The sections of the partial image. -/
def secsP : List SecS := imSections State.reset imgPart

theorem part_sections (s : State) : imSections s imgPart = secsP := by
  have h : (secTable imgPart).all (fun e => !e.enc) = true := by decide +kernel
  have h : ∀ e ∈ secTable imgPart, e.enc = false := by simpa using h
  simp only [secsP, imSections]
  apply List.map_congr_left
  intro e he
  simp [h e (List.mem_of_mem_filter he)]

theorem part_front : fieldLe imgPart 0 4 = 0x53494B53 ∧ ¬(imFormat imgPart / 256 ≠ 1 ∨ fieldLe imgPart 6 2 ≠ 128) ∧
    layoutOk imgPart = true ∧ crcsOk imgPart = true := by decide +kernel
theorem part_rest : imKind imgPart = 1 ∧ placesFail imgPart secsP = none ∧ badEnc imgPart = none ∧
    imEncrypted imgPart = false := by decide +kernel

theorem part_ok (hk : ∀ p m g, Config.ecdsaOk p m g = true) (hm : ∀ p m g, Config.mldsaOk p m g = true) (s : State)
    (hr : s.fuse.rootHash = sha zeroKeys) (hw : s.fuse.ownerHash = some (sha zeroKeys))
    (h : imLineage imgPart = rd s R.imgLineageLineage ∧ imBase imgPart = rd s R.imgImageVerImageVer ∧
      imRollback imgPart = rd s R.imgImageVerRollback ∧ variantOk s imgPart = true ∧
      (regionMap imgPart).all (partRegionOk s) = true ∧
      firstBad imgPart secsP (partialOk s (mergedSecs s imgPart secsP)) = none ∧
      emptyShutterFits s imgPart secsP = true ∧
      firstBad imgPart secsP (fun x => !overLimit (mergedSecs s imgPart secsP) (stackMib s) x) = none) :
    checkPartial s imgPart = .ok (imSections s imgPart) := by
  obtain ⟨h1, h2, h3, h4, h5, h6, h7, h8⟩ := h
  have hc : imChain s imgPart = none := by
    rw [imChain, imgPart_sig]
    exact chain_holds hk hm _ _ hr hw
  have hf := front_ok s imgPart part_front.1 part_front.2.1 part_front.2.2.1 part_front.2.2.2 hc
  obtain ⟨g1, g2, g3, g4⟩ := part_rest
  rw [part_of s imgPart secsP hf (part_sections s) h1 h2 h3 g1 h4 g2 h5 g3 g4 h6 h7 h8, part_sections]

theorem idle_step : step State.reset = .next (finish State.reset (bolvisFlush (timCycle State.reset))) := by
  have h : powered State.reset = true := by decide +kernel
  have e : step State.reset = idleStep State.reset := rfl
  rw [e, idleStep, whenPowered, if_pos h]
  rfl

/-- A LOAD that has read the full image from slot 0, and the stacks' identities. -/
def sLoad : State := withImg (fun f => { f with slot0 := imgFull }) (withRoot (st .load [(R.imgStatPhase, 1)]))
def ids4 : List StackId := List.replicate 4 ⟨true, 1, 1, 0⟩

/-- A running device with four equal stacks. -/
def sFull : State :=
  withRoot (st .serve ((List.range 4).flatMap (fun q => [(R.hbmIdPresent q, 1), (R.hbmIdPcMib q, 1024)])))

/-- A firmware restart into slot B, at core 3 or 0. -/
def sRestart (c : Nat) : State :=
  withMod (fun m => { m with restart := some ⟨1, 0, [3, 31]⟩ }) (st .serve [(R.modFwStatCore, c), (R.modFwStatPhase, 2)])
def withFw (s : State) : State := withMod (fun m => { m with fwA := fwT }) (withRoot s)
def seqAt (q : SeqSt) (s : State) : State := withMod (fun m => { m with seq := q }) s

/-- In SAFE, pipes 0 to 7 of quadrant 1 serve and pipe 8 is the spare. -/
def sDom (l : List (Fld × Nat)) : State :=
  st .safe ((R.modSpareSpare 1, 8) :: (List.range 16).map (fun n => (R.modXbarPg 1 n, n / 2)) ++ l)

theorem witness_ImagesAndFirmwareAreChecked (hk : ∀ p m g, Config.ecdsaOk p m g = true) (hm : ∀ p m g, Config.mldsaOk p m g = true) (ho : Config.storeOverhead ≤ 2 ^ 20) (he : ∀ b, Config.egressOver b = false):
    (∃ (s u : State) (ids : List StackId) (hurt : List Nat) (b : List Byte) (x : _), live s = true ∧ mode s = .load ∧
      rd s R.imgStatPhase = 1 ∧ s.img.staged = none ∧ u = (List.range 4).foldl (identify ids) s ∧ b = slotImage s
      s.img.loadSlot ∧ checkFull u b hurt = .ok x) ∧
    (∃ (s u : State) (ids : List StackId) (hurt : List Nat) (b : List Byte) (d x : _), live s = true ∧ mode s = .load
      ∧ rd s R.imgStatPhase = 1 ∧ s.img.staged = none ∧ u = (List.range 4).foldl (identify ids) s ∧ b = slotImage s
      s.img.loadSlot ∧ checkFull u b hurt = .error (d, x) ∧ d < 256 ∧ x < 65536 ∧ rdB s R.imgBootFallbackEn = false ∧
      64 * (u.saf.jTail.length + 1) ≤ rd u R.jnlCfgTailMax) ∧
    (∃ (s : State) (v : Nat) (b : List Byte), live s = true ∧ mode s = .load ∧ s.img.staged = some b ∧ rdB s
      R.keyStatDevkeys = true ∧ v < 65536) ∧
    (∃ (s : State) (h : CmdHdr) (b : List Byte) (l r v : _), live s = true ∧ ByCore h ∧ modeIn s [.serve, .splice] =
      true ∧ s.img.part = none ∧ checkPartial s b = .ok l ∧ regionMap b = [(r, v)] ∧ r < 128) ∧
    (∃ (s : State) (h : CmdHdr) (b : List Byte) (d x : _), live s = true ∧ ByCore h ∧ modeIn s [.serve, .splice] =
      true ∧ s.img.part = none ∧ checkPartial s b = .error (d, x) ∧ d < 256 ∧ x < 65536) ∧
    (∃ (s : State) (h : CmdHdr) (b : List Byte) (x : _), live s = true ∧ ByCore h ∧ modeIn s commandModes = true ∧
      s.img.part = none ∧ checkFull s b [] = .ok x) ∧
    (∃ (s : State) (h : CmdHdr) (b : List Byte) (d x slot : _), live s = true ∧ ByCore h ∧ modeIn s commandModes =
      true ∧ s.img.part = none ∧ checkFull s b [] = .error (d, x) ∧ slot < 2) ∧
    (∃ (s : State) (h : CmdHdr) (b : List Byte), live s = true ∧ ByCore h ∧ modeIn s commandModes = true ∧ s.img.part
      = none ∧ fwRefusal s b = none) ∧
    (∃ (s : State) (h : CmdHdr) (b : List Byte) (c : _), live s = true ∧ ByCore h ∧ modeIn s commandModes = true ∧
      s.img.part = none ∧ fwRefusal s b = some c) ∧
    (∃ (s : State) (h : CmdHdr) (slot fb : Nat), live s = true ∧ ByCore h ∧ slot < 2 ∧ fb < 2 ∧ rd s R.modFwSlotNext
      < 2) ∧
    (∃ (s : State) (h : CmdHdr) (n : Nat), live s = true ∧ ByCore h ∧ mode s = .serve ∧ rd s R.imgImageVerRollback <
      128 ∧ rd s R.imgFuseRollbackFuses < rd s R.imgImageVerRollback) ∧
    (∃ (s : State) (h : CmdHdr), live s = true ∧ ByCore h ∧ mode s = .serve ∧ rd s R.imgImageVerRollback < 128 ∧ rd s
      R.imgFuseRollbackFuses < rd s R.imgImageVerRollback) ∧
    (∃ (s : State) (h : CmdHdr), live s = true ∧ ByCore h ∧ mode s = .serve ∧ rd s R.imgImageVerRollback < 128 ∧ rd s
      R.imgImageVerRollback ≤ rd s R.imgFuseRollbackFuses) ∧
    (∃ (s : State) (r : Nat) (b : List Byte), live s = true ∧ isCore r = true ∧ modeIn s commandModes = true ∧ rd s
      R.modFwStatPhase = 0 ∧ b = fwImage s (rd s R.modFwSlotNext) ∧ restartRefusal s b = none) ∧
    (∃ (s : State) (r : Nat) (b : List Byte) (c : _), live s = true ∧ isCore r = true ∧ modeIn s commandModes = true
      ∧ rd s R.modFwStatPhase = 0 ∧ b = fwImage s (rd s R.modFwSlotNext) ∧ restartRefusal s b = some c) ∧
    (∃ (s : State) (x : RestartS) (c : Nat), live s = true ∧ s.mod.restart = some x ∧ c = rd s R.modFwStatCore ∧ c <
      4 ∧ (∀ e ∈ s.host.takenBy, e.2 ≠ 32 + c) ∧ (∀ n ∈ x.moved, n < 32) ∧ c ≠ 0) ∧
    (∃ (s : State) (x : RestartS) (c : Nat), live s = true ∧ s.mod.restart = some x ∧ c = rd s R.modFwStatCore ∧ c <
      4 ∧ (∀ e ∈ s.host.takenBy, e.2 ≠ 32 + c) ∧ (∀ n ∈ x.moved, n < 32) ∧ c = 0) :=
  ⟨⟨sLoad, (List.range 4).foldl (identify ids4) sLoad, ids4, [], imgFull, imSections ((List.range 4).foldl (identify
    ids4) sLoad) imgFull, by decide +kernel, (by decide +kernel), by decide +kernel, rfl, rfl, by decide +kernel,
    full_ok hk hm ho he _ (by rfl) (by rfl) (by decide +kernel)⟩,
  ⟨st .load [(R.imgStatPhase, 1), (R.jnlCfgTailMax, 4096)], (List.range 4).foldl (identify ids4) (st .load
    [(R.imgStatPhase, 1), (R.jnlCfgTailMax, 4096)]), ids4, [], [], 1, 0xFFFF, by decide +kernel, (by decide +kernel),
    by decide +kernel, rfl, rfl, by decide +kernel⟩,
  ⟨withImg (fun f => { f with staged := some [] }) (st .load [(R.keyStatDevkeys, 1)]), 800, [], by decide +kernel⟩,
  ⟨withRoot (st .serve []), h33, imgPart, imSections (withRoot (st .serve [])) imgPart, 10, 1, by decide +kernel,
    (by decide +kernel), by decide +kernel, rfl, part_ok hk hm _ (by rfl) (by rfl) (by decide +kernel),
    by decide +kernel, by decide +kernel⟩,
  ⟨st .splice [], h33, [], 1, 0xFFFF, by decide +kernel, (by decide +kernel), by decide +kernel, rfl,
    by decide +kernel⟩,
  ⟨sFull, h33, imgFull, imSections sFull imgFull, by decide +kernel, (by decide +kernel), by decide +kernel, rfl,
    full_ok hk hm ho he _ (by rfl) (by rfl) (by decide +kernel)⟩,
  ⟨st .serve [], h33, [], 1, 0xFFFF, 1, by decide +kernel⟩,
  ⟨withRoot (st .serve []), h33, fwT, by decide +kernel, (by decide +kernel), by decide +kernel, rfl, fwT_ok hk hm _
    (by rfl) (by rfl) (by decide +kernel)⟩,
  ⟨st .serve [], h33, [], Status.invalid, by decide +kernel⟩,
  ⟨st .safe [(R.modFwSlotNext, 1)], h33, 1, 1, by decide +kernel⟩,
  ⟨st .serve [(R.imgImageVerRollback, 5), (R.imgFuseRollbackFuses, 2)], h33, 2, by decide +kernel⟩,
  ⟨st .serve [(R.imgImageVerRollback, 127), (R.imgFuseRollbackFuses, 2)], h33, by decide +kernel⟩,
  ⟨st .serve [(R.imgImageVerRollback, 5), (R.imgFuseRollbackFuses, 5)], h33, by decide +kernel⟩,
  ⟨withFw (st .serve []), 32, fwT, by decide +kernel, (by decide +kernel), by decide +kernel, (by decide +kernel), rfl,
    by unfold restartRefusal; rw [fwT_ok hk hm _ (by rfl) (by rfl) (by decide +kernel)]; decide +kernel⟩,
  ⟨st .serve [], 32, [], Status.invalid, by decide +kernel⟩,
  ⟨sRestart 3, ⟨1, 0, [3, 31]⟩, 3, by decide +kernel⟩,
  ⟨sRestart 0, ⟨1, 0, [3, 31]⟩, 0, by decide +kernel⟩⟩

theorem witness_ResetSequencesRun (hk : ∀ p m g, Config.ecdsaOk p m g = true) (hm : ∀ p m g, Config.mldsaOk p m g = true):
    (∃ (s : State) (a b : Nat) (f : Option FlashS), s.mod.seq ≠ .off) ∧
    (∃ (s : State) (h : _), live s = true ∧ ByCore h) ∧
    (∃ (s : State) (a : _), live s = true ∧ s.mod.warmDue = true ∧ s.mod.warmAt = some a ∧ a + 100000 ≤ uptime s) ∧
    (∃ (s : State), live s = true) ∧
    (∃ (s : State), s.mod.seq = .commit ∧ s.mod.cause < 16 ∧ s.saf.pfwN = false) ∧
    (∃ (s : State), mode s = .freeze ∧ s.ctr.frzStep = 4 ∧ s.ctr.frzWarm = false) ∧
    (∃ (s : State), mode s = .freeze ∧ s.ctr.frzStep = 4 ∧ s.ctr.frzWarm = true) ∧
    (∃ (s : State) (x : PartS) (f : FuseS), s.mod.seq = .fuses ∧ s.fuse.sensed = false ∧ x.part < 65536 ∧ x.step <
      256 ∧ x.variant < 2) ∧
    (∃ (s : State), s.mod.seq = .plls ∧ s.mod.clkWait = false) ∧
    (∃ (s : State), s.mod.seq = .plls ∧ s.mod.clkWait = true) ∧
    (∃ (s : State), s.mod.seq = .plls) ∧
    (∃ (s : State) (n : Nat), s.mod.seq = .verify ∧ fwRefusal s (fwImage s s.mod.fwSlot) = none ∧ 4096 ≤ n) ∧
    (∃ (s : State) (n : Nat) (c : _), s.mod.seq = .verify ∧ fwRefusal s (fwImage s s.mod.fwSlot) = some c ∧
      s.mod.fwTried = false) ∧
    (∃ (s : State) (n : Nat) (c : _), s.mod.seq = .verify ∧ fwRefusal s (fwImage s s.mod.fwSlot) = some c ∧
      s.mod.fwTried = true) ∧
    (∃ (s : State) (a : Nat), s.mod.seq = .failed ∧ s.mod.failAt = some a ∧ a + 10 ^ 8 ≤ uptime s) ∧
    (∃ (s : State) (a : Nat), s.mod.seq = .failed ∧ s.mod.failAt = some a ∧ uptime s < a + 10 ^ 8) :=
  ⟨⟨withSaf (fun f => { f with jTail := [rec1] }) (st .freeze []), 3, 7, none, by decide +kernel⟩,
  ⟨st .serve [], h33, by decide +kernel⟩,
  ⟨withMod (fun m => { m with warmDue := true, warmAt := some 0 }) (st .serve [(R.timUptimeNs, 100000)]), 0,
    by decide +kernel⟩,
  ⟨st .serve [], by decide +kernel⟩,
  ⟨seqAt .commit (withMod (fun m => { m with cause := 4 }) (withSaf (fun f => { f with jTail := [rec1] }) (st .reset
    [(R.safFaultFault, 2 ^ 17 + 2 ^ 5)]))), by decide +kernel⟩,
  ⟨withCtr (fun c => { c with frzStep := 4 }) (withSaf (fun f => { f with jTail := [rec1] }) (st .freeze [])),
    by decide +kernel⟩,
  ⟨withCtr (fun c => { c with frzStep := 4, frzWarm := true }) (withSaf (fun f => { f with jTail := [rec1] }) (st
    .freeze [])), by decide +kernel⟩,
  ⟨State.reset, ⟨100, 65535, 255, 1, 3, 4, 5, 6⟩, ⟨false, [1], [2], none, none⟩, by decide +kernel⟩,
  ⟨seqAt .plls (st .reset [(R.fabLinkState 9, 2)]), by decide +kernel⟩,
  ⟨withMod (fun m => { m with clkWait := true }) (seqAt .plls (st .reset [])), by decide +kernel⟩,
  ⟨seqAt .plls (st .reset []), by decide +kernel⟩,
  ⟨withFw (seqAt .verify (st .reset [])), 4096, by decide +kernel, fwT_ok hk hm _ (by rfl) (by rfl)
    (by decide +kernel), by decide +kernel⟩,
  ⟨seqAt .verify (st .reset []), 4096, Status.invalid, by decide +kernel⟩,
  ⟨withMod (fun m => { m with fwTried := true }) (seqAt .verify (st .reset [])), 4096, Status.invalid,
    by decide +kernel⟩,
  ⟨withMod (fun m => { m with failAt := some 0 }) (seqAt .failed (st .reset [(R.timUptimeNs, 100000000)])), 0,
    by decide +kernel⟩,
  ⟨withMod (fun m => { m with failAt := some 0 }) (seqAt .failed (st .reset [])), 0, by decide +kernel⟩⟩

theorem witness_MastersAndDomainsReset :
    (∃ (s : State), live s = true ∧ s.host.wakeN = false) ∧
    (∃ (s : State), live s = true ∧ s.host.wakeN = true) ∧
    (∃ (s : State) (r : Nat), live s = true ∧ r ≠ 0 ∧ r < 0x3F ∧ (∀ e ∈ s.keys.sess, e.1 ≤ 16 ∧ e.2.1 < 64 ∧ e.2.2 <
      64) ∧ r ≤ 18) ∧
    (∃ (s : State) (r : Nat), live s = true ∧ r ≠ 0 ∧ r < 0x3F ∧ (∀ e ∈ s.keys.sess, e.1 ≤ 16 ∧ e.2.1 < 64 ∧ e.2.2 <
      64)) ∧
    (∃ (s : State) (r q i : Nat), live s = true ∧ isCore r = true ∧ q < 4 ∧ i < 16 ∧ mode s = .safe ∧ 9 ≤ i) ∧
    (∃ (s : State) (r q i : Nat), live s = true ∧ isCore r = true ∧ q < 4 ∧ i < 16 ∧ mode s = .safe ∧ i < 9 ∧
      quadParked s q = true) ∧
    (∃ (s : State) (r q i : Nat), live s = true ∧ isCore r = true ∧ q < 4 ∧ i < 16 ∧ mode s = .safe ∧ i < 9 ∧
      quadParked s q = false ∧ pipeServes s (9 * q + i) = true) ∧
    (∃ (s : State) (r q i : Nat), live s = true ∧ isCore r = true ∧ q < 4 ∧ i < 16 ∧ mode s = .safe ∧ i < 9 ∧
      quadParked s q = false ∧ pipeServes s (9 * q + i) = false ∧ handNames s q i = false) ∧
    (∃ (s : State) (r q i : Nat), live s = true ∧ isCore r = true ∧ q < 4 ∧ i < 16 ∧ mode s = .safe ∧ i < 8 ∧
      quadParked s q = false) ∧
    (∃ (s : State) (r q i : Nat), live s = true ∧ isCore r = true ∧ q < 4 ∧ i < 16 ∧ mode s = .safe ∧ quadParked s q
      = false ∧ memBusy s q = false) ∧
    (∃ (s : State) (r q i : Nat), live s = true ∧ isCore r = true ∧ q < 4 ∧ i < 16 ∧ mode s = .safe ∧ quadParked s q
      = false ∧ memBusy s q = true) ∧
    (∃ (s : State) (r q i : Nat), live s = true ∧ isCore r = true ∧ q < 4 ∧ i < 16 ∧ mode s = .safe ∧ i < 4 ∧ (∀ e ∈
      s.keys.sess, e.1 ≤ 16 ∧ e.2.1 < 64 ∧ e.2.2 < 64)) ∧
    (∃ (s : State) (c : Nat), live s = true ∧ mode s = .safe ∧ c < 4 ∧ rdB s (R.safWdtSuspended c) = false ∧ mgetD
      s.saf.wdtAt c 0 + 1000 * rd s (R.safWdtTimeoutUs c) ≤ uptime s ∧ (∀ e ∈ s.keys.sess, e.1 ≤ 16 ∧ e.2.1 < 64 ∧
      e.2.2 < 64)) ∧
    (∃ (s : State) (c : Nat), live s = true ∧ mode s = .safe ∧ c < 4 ∧ (rdB s (R.safWdtSuspended c) = true ∨ uptime s
      < mgetD s.saf.wdtAt c 0 + 1000 * rd s (R.safWdtTimeoutUs c))) :=
  ⟨⟨st .serve [], by decide +kernel⟩,
  ⟨withHost (fun h => { h with wakeN := true }) (st .serve []), by decide +kernel⟩,
  ⟨withHost (fun h => { h with ringTail := [(127, 3)] }) (st .serve [(R.hifRingCfgSizeLog2 127, 4), (R.lckOwner 63,
    2)]), 2, by decide +kernel⟩,
  ⟨st .serve [(R.lckOwner 63, 33), (R.mbxCfgReader 31, 33), (R.mbxStatState 31, 1)], 33, by decide +kernel⟩,
  ⟨sDom [], 35, 3, 9, by decide +kernel⟩,
  ⟨sDom [(R.pwrParkParked, 2)], 35, 1, 8, by decide +kernel⟩,
  ⟨sDom [], 35, 1, 7, by decide +kernel⟩,
  ⟨sDom [], 35, 1, 8, by decide +kernel⟩,
  ⟨sDom [], 35, 1, 7, by decide +kernel⟩,
  ⟨sDom [], 35, 1, 3, by decide +kernel⟩,
  ⟨sDom [(R.hbmStatState 1, 5)], 35, 1, 3, by decide +kernel⟩,
  ⟨sDom [(R.lckOwner 40, 35)], 35, 1, 3, by decide +kernel⟩,
  ⟨st .safe [(R.lckOwner 40, 35), (R.timUptimeNs, 100000000000)], 3, by decide +kernel⟩,
  ⟨st .safe [(R.safWdtSuspended 3, 1)], 3, by decide +kernel⟩⟩

theorem witness_PinsAlwaysFollow :
    ∃ (s t : State), step s = .next t ∧ PinsRight s :=
  ⟨State.reset, finish State.reset (bolvisFlush (timCycle State.reset)), idle_step, by decide +kernel⟩

end Sys2Proof.Tests
end

section
/-!
PROOFS. 32-bit accesses (R13, R14), accesses where no register is (R15), and writes of the cores' registers by other
masters (R322): first the laws of the register index and of a write of one half, then each access.
-/

namespace Sys2Proof.Proofs

open Sys2Proof Sys2Proof.Machine Sys2Proof.Laws

/-! ### The register index -/

theorem aliasAddr_aliasAddr (a : Nat) : aliasAddr (aliasAddr a) = aliasAddr a := by
  unfold aliasAddr
  split_ifs <;> omega

/-- Device-wide registers lie in the quadrants' windows (R462). -/
theorem devWide_base : ∀ d ∈ regTable, d.devWide = true → 0x1000000 ≤ d.base := by decide +kernel

/-- No field of the index is empty. -/
theorem field_wid_pos : ∀ d ∈ regTable, ∀ f ∈ d.fields, 0 < f.wid := by decide +kernel

/-- MOD_STAT and SAF_STAT hold nothing that a write sets. -/
theorem statusRows_ro : ∀ home ∈ [R.modStatMode.addr, R.safStatSafeN.addr],
    (regAt home).any (fun p => p.1.fields.all (fun f => f.acc == .ro)) = true := by decide +kernel

theorem regAt_mem {a home : Nat} {d : RegDesc} (h : regAt a = some (d, home)) :
    d ∈ regTable ∧ d.base ≤ aliasAddr a ∧ home = homeOf d (aliasAddr a) := by
  simp only [regAt, Option.map_eq_some_iff, Prod.mk.injEq] at h
  obtain ⟨x, hx, rfl, hhome⟩ := h
  have hp := List.find?_some hx
  simp only [Bool.and_eq_true, decide_eq_true_eq] at hp
  exact ⟨List.mem_of_find?_eq_some hx, hp.1, hhome.symm⟩

theorem base_le_homeOf {d : RegDesc} {a : Nat} (h : d.base ≤ a) : d.base ≤ homeOf d a := by
  unfold homeOf
  split
  · split
    · rename_i st _ _
      have := Nat.div_mul_le_self (a - d.base) st
      omega
    · exact h
  · exact h

/-- Below the quadrants' windows a home address decodes to its own register. -/
theorem regAt_home {a home : Nat} {d : RegDesc} (h : regAt a = some (d, home)) (hlow : home < 0x1000000) :
    regAt home = some (d, home) := by
  obtain ⟨hmem, hbase, hhome⟩ := regAt_mem h
  have hwide : d.devWide = false := by
    by_contra hw
    have hdev := devWide_base d hmem (by simpa using hw)
    have hle := base_le_homeOf hbase
    omega
  have hsame : home = aliasAddr a := by simpa [homeOf, hwide] using hhome
  rw [← h, hsame]
  simp only [regAt, aliasAddr_aliasAddr]

theorem statusRow_ro {a home : Nat} {d : RegDesc} (h : regAt a = some (d, home))
    (hhome : home = R.modStatMode.addr ∨ home = R.safStatSafeN.addr) : ∀ f ∈ d.fields, f.acc = .ro := by
  have hlow : home < 0x1000000 := by rcases hhome with rfl | rfl <;> decide
  have hro := statusRows_ro home (by simpa using hhome)
  rw [regAt_home h hlow] at hro
  simpa using hro

/-- A field that a write sets is no pin's: SAFE_N and FAULT_N follow the state alone (R420, R421). -/
theorem rw_field_ne_pin {a home : Nat} {d : RegDesc} (h : regAt a = some (d, home)) {f : FieldDesc}
    (hf : f ∈ d.fields) (hrw : f.acc = .rw) :
    fkey (fieldOf home f) ≠ 64 * 0x60000 ∧ fkey (fieldOf home f) ≠ 64 * 0x60000 + 1 := by
  have hlo := (fields_apart h).2 f hf
  have hne : home ≠ 0x60000 := fun e => by
    have hro := statusRow_ro h (.inr e) f hf
    rw [hrw] at hro
    cases hro
  simp only [fkey, fieldOf]
  omega

/-! ### A write of one half -/

theorem writeField_ro {f : FieldDesc} (h : f.acc = .ro) (home : Nat) (s : State) (v : Nat) :
    writeField home s f v = s := by
  simp [writeField, h]

/-- A value that may take effect is what the field then holds (R16). -/
theorem rd_writeField_rw {f : FieldDesc} {home v lo : Nat} (hown : f.own = false) (hrw : f.acc = .rw)
    (hok : okVal f.ok (bits v lo f.wid) = true) (s : State) :
    rd (writeField home s f (bits v lo f.wid)) (fieldOf home f) = bits v lo f.wid := by
  simp only [writeField, hown, hrw, hok, Bool.false_eq_true, if_false, if_true]
  rw [rd_wr_self]
  exact Nat.mod_eq_of_lt (bits_lt v lo f.wid)

/-- What `writeHalfReg` does at one field of the register. -/
def writeHalfField (home : Nat) (hi : Bool) (v : Nat) (s : State) (f : FieldDesc) : State :=
  let cur := if f.acc == .rw then rd s (fieldOf home f) else 0
  if hi then
    if 32 ≤ f.lo then writeField home s f (bits v (f.lo - 32) f.wid)
    else if 32 < f.lo + f.wid then
      writeField home s f (cur % 2 ^ (32 - f.lo) + bits v 0 (f.lo + f.wid - 32) * 2 ^ (32 - f.lo))
    else s
  else if f.lo + f.wid ≤ 32 then writeField home s f (bits v f.lo f.wid) else s

theorem writeHalfReg_eq_foldl (s : State) (d : RegDesc) (home : Nat) (hi : Bool) (v : Nat) :
    writeHalfReg s d home hi v = d.fields.foldl (writeHalfField home hi v) s := rfl

/-- At a field a write of one half leaves the state alone or is one write of that field. -/
theorem writeHalfField_cases (home : Nat) (hi : Bool) (v : Nat) (s : State) (f : FieldDesc) :
    writeHalfField home hi v s f = s ∨ ∃ x, writeHalfField home hi v s f = writeField home s f x := by
  unfold writeHalfField
  generalize (if f.acc == .rw then rd s (fieldOf home f) else 0) = cur
  dsimp only
  split_ifs
  · exact .inr ⟨_, rfl⟩
  · exact .inr ⟨_, rfl⟩
  · exact .inl rfl
  · exact .inr ⟨_, rfl⟩
  · exact .inl rfl

theorem rd_writeHalfField_ne (home : Nat) (hi : Bool) (v : Nat) (s : State) (f : FieldDesc) (g : Fld)
    (h : fkey (fieldOf home f) ≠ fkey g) : rd (writeHalfField home hi v s f) g = rd s g := by
  rcases writeHalfField_cases home hi v s f with e | ⟨x, e⟩
  · rw [e]
  · rw [e, rd_writeField_ne home s f x g h]

@[simp] theorem rest_writeHalfField (home : Nat) (hi : Bool) (v : Nat) (s : State) (f : FieldDesc) :
    rest (writeHalfField home hi v s f) = rest s := by
  rcases writeHalfField_cases home hi v s f with e | ⟨x, e⟩
  · rw [e]
  · rw [e, rest_writeField]

theorem writeHalfField_high (home v : Nat) (s : State) {f : FieldDesc} (h : 32 ≤ f.lo) :
    writeHalfField home true v s f = writeField home s f (bits v (f.lo - 32) f.wid) := by
  simp [writeHalfField, h]

theorem writeHalfField_low (home v : Nat) (s : State) {f : FieldDesc} (h : f.lo + f.wid ≤ 32) :
    writeHalfField home false v s f = writeField home s f (bits v f.lo f.wid) := by
  simp [writeHalfField, h]

theorem writeHalfField_high_of_low (home v : Nat) (s : State) {f : FieldDesc} (hpos : 0 < f.wid)
    (h : f.lo + f.wid ≤ 32) : writeHalfField home true v s f = s := by
  simp [writeHalfField, show ¬ 32 ≤ f.lo by omega, show ¬ 32 < f.lo + f.wid by omega]

theorem writeHalfField_low_of_high (home v : Nat) (s : State) {f : FieldDesc} (hpos : 0 < f.wid)
    (h : 32 ≤ f.lo) : writeHalfField home false v s f = s := by
  simp [writeHalfField, show ¬ f.lo + f.wid ≤ 32 by omega]

@[simp] theorem rest_writeHalfReg (s : State) (d : RegDesc) (home : Nat) (hi : Bool) (v : Nat) :
    rest (writeHalfReg s d home hi v) = rest s :=
  rest_foldl _ (rest_writeHalfField home hi v) d.fields s

/-- The latches after a write of one half are those before it. -/
@[simp] theorem writeHalfReg_latches (s : State) (d : RegDesc) (home : Nat) (hi : Bool) (v : Nat) :
    (writeHalfReg s d home hi v).host.latches = s.host.latches :=
  congrArg (·.host.latches) (rest_writeHalfReg s d home hi v)

theorem writeHalfReg_ro {d : RegDesc} (h : ∀ f ∈ d.fields, f.acc = .ro) (s : State) (home : Nat) (hi : Bool)
    (v : Nat) : writeHalfReg s d home hi v = s := by
  rw [writeHalfReg_eq_foldl]
  refine List.foldlRecOn d.fields _ (motive := (· = s)) rfl (fun t ht f hf => ?_)
  rcases writeHalfField_cases home hi v t f with e | ⟨x, e⟩
  · rw [e, ht]
  · rw [e, writeField_ro (h f hf), ht]

section Half

variable {a home : Nat} {d : RegDesc} (h : regAt a = some (d, home)) (s : State) (hi : Bool) (v : Nat)
include h

theorem rd_writeHalfReg_other {g : Fld} (hg : g.lo < 64) (hne : g.addr ≠ home) :
    rd (writeHalfReg s d home hi v) g = rd s g :=
  rd_fold_other home _ g (fun t f hk => rd_writeHalfField_ne home hi v t f g hk) d.fields (fields_apart h).2 hg hne s

/-- A field shows after the write of one half what the write at that field gave. -/
theorem rd_writeHalfReg_field {f : FieldDesc} (hf : f ∈ d.fields) :
    ∃ u : State, rd u (fieldOf home f) = rd s (fieldOf home f) ∧
      rd (writeHalfReg s d home hi v) (fieldOf home f) = rd (writeHalfField home hi v u f) (fieldOf home f) :=
  rd_fold_fields home _ (rd_writeHalfField_ne home hi v) d.fields (fields_apart h).1 f hf s

/-- No write of one half changes the mode. -/
theorem rd_writeHalfReg_mode : rd (writeHalfReg s d home hi v) R.modStatMode = rd s R.modStatMode := by
  by_cases hm : home = R.modStatMode.addr
  · rw [writeHalfReg_ro (statusRow_ro h (.inl hm))]
  · exact rd_writeHalfReg_other h s hi v (by decide) (Ne.symm hm)

theorem rd_writeHalfReg_high {f : FieldDesc} (hf : f ∈ d.fields) (hown : f.own = false) (hrw : f.acc = .rw)
    (hlo : 32 ≤ f.lo) (hok : okVal f.ok (bits v (f.lo - 32) f.wid) = true) :
    rd (writeHalfReg s d home true v) (fieldOf home f) = bits v (f.lo - 32) f.wid := by
  obtain ⟨u, -, hu⟩ := rd_writeHalfReg_field h s true v hf
  rw [hu, writeHalfField_high home v u hlo, rd_writeField_rw hown hrw hok]

theorem rd_writeHalfReg_low {f : FieldDesc} (hf : f ∈ d.fields) (hown : f.own = false) (hrw : f.acc = .rw)
    (hlo : f.lo + f.wid ≤ 32) (hok : okVal f.ok (bits v f.lo f.wid) = true) :
    rd (writeHalfReg s d home false v) (fieldOf home f) = bits v f.lo f.wid := by
  obtain ⟨u, -, hu⟩ := rd_writeHalfReg_field h s false v hf
  rw [hu, writeHalfField_low home v u hlo, rd_writeField_rw hown hrw hok]

theorem rd_writeHalfReg_high_of_low {f : FieldDesc} (hf : f ∈ d.fields) (hlo : f.lo + f.wid ≤ 32) :
    rd (writeHalfReg s d home true v) (fieldOf home f) = rd s (fieldOf home f) := by
  obtain ⟨u, hkeep, hu⟩ := rd_writeHalfReg_field h s true v hf
  rw [hu, writeHalfField_high_of_low home v u (field_wid_pos d (regAt_mem h).1 f hf) hlo, hkeep]

theorem rd_writeHalfReg_low_of_high {f : FieldDesc} (hf : f ∈ d.fields) (hlo : 32 ≤ f.lo) :
    rd (writeHalfReg s d home false v) (fieldOf home f) = rd s (fieldOf home f) := by
  obtain ⟨u, hkeep, hu⟩ := rd_writeHalfReg_field h s false v hf
  rw [hu, writeHalfField_low_of_high home v u (field_wid_pos d (regAt_mem h).1 f hf) hlo, hkeep]

end Half

/-- The low 32 bits of a value hold every field of the low half. -/
theorem bits_mod_half (v : Nat) {lo wid : Nat} (h : lo + wid ≤ 32) : bits (v % 2 ^ 32) lo wid = bits v lo wid := by
  have hsplit : (2 : Nat) ^ 32 = 2 ^ lo * 2 ^ (32 - lo) := by
    rw [← pow_add, Nat.add_sub_cancel' (by omega)]
  unfold bits
  rw [hsplit, Nat.mod_mul_right_div_self, Nat.mod_mod_of_dvd _ (pow_dvd_pow 2 (by omega))]

/-! ### What follows a write -/

@[simp] theorem rd_dropLatch (s : State) (r : Nat) (g : Fld) : rd (dropLatch s r) g = rd s g := rfl

@[simp] theorem latch_dropLatch (s : State) (r : Nat) : mget (dropLatch s r).host.latches r = none :=
  mget_mdel_self s.host.latches r

@[simp] theorem keepInFlash_host (s : State) (d : RegDesc) (home : Nat) : (keepInFlash s d home).host = s.host :=
  foldl_keep (fun t => t.host) _ (fun t f => by split <;> rfl) d.fields s

/-- A register outside the four whose write has a further effect: the boot flash keeps its copy, no more. -/
theorem afterWrite_plain {home : Nat}
    (h : home ∉ [R.modRotEn.addr, R.modFwSlotNext.addr, R.imgBootSlot.addr, R.timCfgHoldS.addr])
    (old s : State) (d : RegDesc) (who : Nat) : afterWrite old s d home who = keepInFlash s d home := by
  simp only [List.mem_cons, List.not_mem_nil, or_false, not_or] at h
  obtain ⟨hrot, hfw, himg, htim⟩ := h
  simp only [afterWrite, hrot, hfw, himg, htim, or_self, if_false]

/-- What follows a write looks at the registers before it, not at the latches. -/
theorem afterWrite_dropLatch (old s : State) (r : Nat) (d : RegDesc) (home who : Nat) :
    afterWrite (dropLatch old r) s d home who = afterWrite old s d home who := rfl

theorem ownEffects_plain {d : RegDesc} (h : PlainRow d) (s : State) (home who v m : Nat) :
    ownEffects s d home who v m = s := by
  simp only [ownEffects, h]

/-! ### What a 32-bit access comes to (R13) -/

/-- A meaning of the control die that leaves the mode alone completes with `finish`. -/
theorem completes_finish {c : Instr} {s u : State} {P : State → Prop} (hclk : clocked s = true)
    (hexec : exec c s = whenClocked s (settle s (.next u))) (hmode : rd u R.modStatMode = rd s R.modStatMode)
    (hP : P (finish s u)) : Completes c s P :=
  ⟨finish s u, by rw [hexec, settle_same hmode, whenClocked_next hclk], hP⟩

theorem rd_halfRead {g : Fld} (h : fkey R.timPpsInNew ≠ fkey g) (s : State) (d : RegDesc) (home r : Nat) (hi : Bool) :
    rd (halfRead s d home r hi).2 g = rd s g := by
  have heffect (t : State) : rd (readEffect t home) g = rd t g := by
    unfold readEffect
    split
    · exact rd_wr_ne t _ g 0 h
    · rfl
  have hread (b : Bool) :
      rd (if b then (0, (readReg s d home).2) else readReg s d home).2 g = rd s g := by cases b <;> rfl
  unfold halfRead
  dsimp only
  split
  · split
    · split
      · split
        · rfl
        · exact hread _
      · exact hread _
    · exact hread _
  · rw [heffect, rd_dropLatch]
    exact hread _

theorem stagedLow_eq_some_iff {s : State} {r home low : Nat} :
    stagedLow s r home = some low ↔ mget s.host.latches r = some (.write home low) := by
  unfold stagedLow
  constructor
  · intro h
    split at h
    · rename_i hlatch
      split at h
      · rename_i hhome
        cases h
        rw [hlatch, hhome]
      · cases h
    · cases h
  · intro h
    simp [h]

/-- The low half of a register with a crossing field waits in the requester's latch. -/
theorem halfWrite_stages {d : RegDesc} (hx : crosses d = true) (s : State) (home r v : Nat) :
    halfWrite s d home r false v =
      ({ s with host := { s.host with latches := mset s.host.latches r (.write home (v % 2 ^ 32)) } }, none) := by
  simp [halfWrite, hx]

/-- The high half after its low half is the 64-bit write of both. -/
theorem halfWrite_joins {d : RegDesc} (hx : crosses d = true) {s : State} {home r low : Nat}
    (hlow : stagedLow s r home = some low) (v : Nat) :
    halfWrite s d home r true v =
      (writeReg (dropLatch s r) d home (low + v % 2 ^ 32 * 2 ^ 32), some (low + v % 2 ^ 32 * 2 ^ 32, 2 ^ 64 - 1)) := by
  simp [halfWrite, hx, stagedLow_eq_some_iff.mp hlow]

/-- Without a low half that waits, a write of one half sets that half alone. -/
theorem halfWrite_alone {d : RegDesc} {s : State} {home r : Nat} {hi : Bool} (hx : hi = false → crosses d = false)
    (hlow : hi = true → stagedLow s r home = none) (v : Nat) :
    ∃ e, halfWrite s d home r hi v = (writeHalfReg (dropLatch s r) d home hi (v % 2 ^ 32), some e) := by
  unfold halfWrite
  dsimp only
  cases hi with
  | false => exact ⟨_, by rw [hx rfl]; rfl⟩
  | true =>
    rw [if_pos rfl]
    split
    · split
      · rename_i b low hlatch
        have hother : b ≠ home := by
          rintro rfl
          exact absurd (stagedLow_eq_some_iff.mpr hlatch) (by simp [hlow rfl])
        exact ⟨_, by rw [if_neg hother]⟩
      · exact ⟨_, rfl⟩
    · exact ⟨_, rfl⟩

section Access

variable {s : State} {r a v home : Nat} {d : RegDesc} (hclk : clocked s = true)
  (hreg : regAt (a - a % 8) = some (d, home)) (h32 : d.only64 = false)
include hreg h32

theorem exec_halfRead :
    exec (.halfAccess r a false v) s = whenClocked s (settle s
      (.next (emit (halfRead s d home r (a % 8 == 4)).2 (.read r (halfRead s d home r (a % 8 == 4)).1 4)))) := by
  simp [exec, execHalfAccess, hreg, h32]

theorem exec_halfWrite {hi : Bool} {u : State} {e : Option (Nat × Nat)} (hhalf : (a % 8 == 4) = hi)
    (hmay : mayWrite d home r = true) (hro : isReadOnly home = false) (hw : halfWrite s d home r hi v = (u, e)) :
    exec (.halfAccess r a true v) s = whenClocked s (settle s (.next (match e with
      | some (x, m) => ownEffects (afterWrite s u d home r) d home r x m
      | none => afterWrite s u d home r))) := by
  subst hhalf
  rcases e with _ | ⟨x, m⟩ <;> simp [exec, execHalfAccess, hreg, h32, hmay, hro, hw]

include hclk

/-- R13: a 32-bit read returns its half; at most TIM_PPS_IN.NEW changes (R280). -/
theorem halfRead_completes :
    Completes (.halfAccess r a false v) s (fun t =>
      .read r (halfRead s d home r (a % 8 == 4)).1 4 ∈ t.sent ∧ Leaves [R.timPpsInNew] s t) := by
  refine completes_finish hclk (exec_halfRead hreg h32) (rd_halfRead (by decide) ..) ⟨?_, ?_⟩
  · exact mem_finish_sent _ _ _ (by simp)
  · intro g hg hne
    rw [rd_finish_quiet _ _ _ hg, rd_emit]
    exact rd_halfRead (hne _ (by simp)) ..

variable (hmay : mayWrite d home r = true) (hro : isReadOnly home = false)
include hmay hro

/-- R13: the low half of a register with a crossing field is kept in the requester's latch. -/
theorem lowHalf_completes (hx : crosses d = true) (ha : a % 8 = 0)
    (hhome : home ∉ [R.modRotEn.addr, R.modFwSlotNext.addr, R.imgBootSlot.addr, R.timCfgHoldS.addr]) :
    Completes (.halfAccess r a true v) s (fun t =>
      mget t.host.latches r = some (.write home (v % 2 ^ 32)) ∧ Leaves [] s t) := by
  have hexec := exec_halfWrite (v := v) hreg h32 (by simp [ha]) hmay hro (halfWrite_stages hx s home r v)
  simp only [afterWrite_plain hhome] at hexec
  refine completes_finish hclk hexec (rd_keepInFlash ..) ⟨?_, ?_⟩
  · simp
  · intro g hg _
    rw [rd_finish_quiet _ _ _ hg, rd_keepInFlash]
    rfl

omit hclk in
/-- R13: the high half after its low half is the 64-bit write of both. -/
theorem highHalf_eq_registerWrite (hx : crosses d = true) (ha : a % 8 = 4) {low : Nat}
    (hlow : stagedLow s r home = some low) :
    exec (.halfAccess r a true v) s = exec (.registerWrite r (a - 4) (low + v % 2 ^ 32 * 2 ^ 32)) s := by
  have hexec := exec_halfWrite (v := v) hreg h32 (by simp [ha]) hmay hro (halfWrite_joins hx hlow v)
  rw [ha] at hreg
  rw [hexec]
  simp only [exec, execRegisterWrite, hreg, hmay, hro, afterWrite_dropLatch, Bool.not_true, Bool.false_eq_true,
    if_false]

/-- R13: a 32-bit write that no low half waits for is a write of its half alone. -/
theorem halfAlone_completes {hi : Bool} {P : State → Prop} (hhalf : (a % 8 == 4) = hi) (hplain : PlainRow d)
    (hx : hi = false → crosses d = false) (hlow : hi = true → stagedLow s r home = none)
    (hhome : home ∉ [R.modRotEn.addr, R.modFwSlotNext.addr, R.imgBootSlot.addr, R.timCfgHoldS.addr])
    (hP : P (finish s (keepInFlash (writeHalfReg (dropLatch s r) d home hi (v % 2 ^ 32)) d home))) :
    Completes (.halfAccess r a true v) s P := by
  obtain ⟨e, hw⟩ := halfWrite_alone hx hlow v
  have hexec := exec_halfWrite hreg h32 hhalf hmay hro hw
  simp only [afterWrite_plain hhome, ownEffects_plain hplain] at hexec
  refine completes_finish hclk hexec ?_ hP
  rw [rd_keepInFlash, rd_writeHalfReg_mode hreg, rd_dropLatch]

/-- R13: each plain field of the half that is written takes its value, and every other field stays. -/
theorem halfAlone_setsItsHalf (hplain : PlainRow d) (ha : a % 4 = 0) (hx : a % 8 = 0 → crosses d = false)
    (hlow : a % 8 = 4 → stagedLow s r home = none)
    (hhome : home ∉ [R.modRotEn.addr, R.modFwSlotNext.addr, R.imgBootSlot.addr, R.timCfgHoldS.addr]) :
    Completes (.halfAccess r a true v) s (fun t =>
      (∀ f ∈ d.fields, f.own = false → f.acc = .rw →
        (a % 8 = 4 → 32 ≤ f.lo → okVal f.ok (bits (v % 2 ^ 32) (f.lo - 32) f.wid) = true →
          rd t (fieldOf home f) = bits (v % 2 ^ 32) (f.lo - 32) f.wid) ∧
        (a % 8 = 0 → f.lo + f.wid ≤ 32 → okVal f.ok (bits v f.lo f.wid) = true →
          rd t (fieldOf home f) = bits v f.lo f.wid) ∧
        (a % 8 = 4 → f.lo + f.wid ≤ 32 → rd t (fieldOf home f) = rd s (fieldOf home f)) ∧
        (a % 8 = 0 → 32 ≤ f.lo → rd t (fieldOf home f) = rd s (fieldOf home f))) ∧
      mget t.host.latches r = none ∧
      ∀ g : Fld, g.lo < 64 → g.addr ≠ home → quiet (fkey g) = true → rd t g = rd s g) := by
  refine halfAlone_completes hclk hreg h32 hmay hro rfl hplain (fun e => hx (by have := ne_of_beq_false e; omega))
    (fun e => hlow (by simpa using e)) hhome ⟨fun f hf hown hrw => ?_, by simp, fun g hg hne hq => ?_⟩
  · obtain ⟨hsafe, hfault⟩ := rw_field_ne_pin hreg hf hrw
    rw [rd_finish _ _ _ hsafe hfault, rd_keepInFlash]
    refine ⟨fun h4 hlo hok => ?_, fun h0 hlo hok => ?_, fun h4 hlo => ?_, fun h0 hlo => ?_⟩
    · rw [h4]
      exact rd_writeHalfReg_high hreg _ _ hf hown hrw hlo hok
    · rw [← bits_mod_half v hlo] at hok ⊢
      rw [h0]
      exact rd_writeHalfReg_low hreg _ _ hf hown hrw hlo hok
    · rw [h4]
      exact rd_writeHalfReg_high_of_low hreg _ _ hf hlo
    · rw [h0]
      exact rd_writeHalfReg_low_of_high hreg _ _ hf hlo
  · rw [rd_finish_quiet _ _ _ hq, rd_keepInFlash, rd_writeHalfReg_other hreg _ _ _ hg hne, rd_dropLatch]

end Access

/-! ### Accesses that are reported (R14, R15, R322) -/

/-- A report sets its bit of HIF_ERR_STAT; but for that bit, its signal and the latch the state stays. -/
theorem report_finish {s u : State} {r : Nat} {f : Fld} (hwid : f.wid = 1) (hf : quiet (fkey f) = true)
    (hrd : ∀ g, rd u g = rd (hifErr (dropLatch s r) f) g) (hrest : rest u = rest (dropLatch s r)) :
    rd (finish s u) f = 1 ∧ Leaves [f] s (finish s u) ∧ rest (finish s u) = rest (dropLatch s r) := by
  refine ⟨?_, fun g hg hne => ?_, ?_⟩
  · rw [rd_finish_quiet _ _ _ hf, hrd, rd_hifErr_self _ _ hwid]
  · rw [rd_finish_quiet _ _ _ hg, hrd, rd_hifErr_ne _ _ _ (hne f (by simp)), rd_dropLatch]
  · have hpend : u.pending = s.pending := congrArg (·.pending) hrest
    rw [rest_finish hpend, hrest]

/-- The state of an access that is reported: a read also answers, a write does no more. -/
theorem report_access {s : State} {r : Nat} {f : Fld} (hwid : f.wid = 1) (hf : quiet (fkey f) = true) (w : Bool)
    (o : Sent) {u : State} (hu : u = if w then hifErr (dropLatch s r) f else emit (hifErr (dropLatch s r) f) o) :
    (w = false → o ∈ (finish s u).sent) ∧
      rd (finish s u) f = 1 ∧ Leaves [f] s (finish s u) ∧ rest (finish s u) = rest (dropLatch s r) := by
  subst hu
  refine ⟨?_, report_finish hwid hf (fun g => ?_) ?_⟩
  · rintro rfl
    exact mem_finish_sent _ _ _ (by simp)
  · cases w <;> rfl
  · cases w <;> simp

theorem latch_of_rest {s t : State} {r : Nat} (h : rest t = rest (dropLatch s r)) : mget t.host.latches r = none := by
  have hl : t.host.latches = (dropLatch s r).host.latches := congrArg (·.host.latches) h
  rw [hl, latch_dropLatch]

section Report

variable {s : State} {r a home : Nat} {d : RegDesc} (hclk : clocked s = true)
include hclk

theorem narrowAccess_completes (w : Bool) (hreg : regAt (a - a % 8) = some (d, home)) (h64 : d.only64 = true) :
    Completes (.narrowAccess r a w) s (fun t =>
      rd t R.hifErrStatNarrow = 1 ∧ (w = false → .read r 0xFFFFFFFF 4 ∈ t.sent) ∧ mget t.host.latches r = none ∧
      Leaves [R.hifErrStatNarrow] s t ∧ rest t = rest (dropLatch s r)) := by
  obtain ⟨hsent, hbit, hleaves, hrest⟩ :=
    report_access (s := s) (r := r) (f := R.hifErrStatNarrow) rfl (by decide) w (.read r 0xFFFFFFFF 4) rfl
  refine ⟨_, ?_, hbit, hsent, latch_of_rest hrest, hleaves, hrest⟩
  simp [exec, execNarrowAccess, hreg, h64, whenClocked_next hclk]

theorem unmappedAccess_completes (w : Bool) (n : Nat) (hreg : regAt (a - a % 8) = none)
    (ha : a < 0x8000000 ∨ 0x10000000 ≤ a) :
    Completes (.unmappedAccess r a n w) s (fun t =>
      rd t R.hifErrStatUnmapped = 1 ∧ (w = false → .read r 0 n ∈ t.sent) ∧ Leaves [R.hifErrStatUnmapped] s t ∧
      rest t = rest (dropLatch s r)) := by
  obtain ⟨hsent, hbit, hleaves, hrest⟩ :=
    report_access (s := s) (r := r) (f := R.hifErrStatUnmapped) rfl (by decide) w (.read r 0 n) rfl
  refine ⟨_, ?_, hbit, hsent, hleaves, hrest⟩
  simp [exec, execUnmappedAccess, hreg, ha, whenClocked_next hclk]

theorem protectedWrite_completes (hreg : regAt (a - a % 8) = some (d, home)) (hmay : mayWrite d home r = false)
    (hr : r ≠ 48) :
    Completes (.protectedWrite r a) s (fun t =>
      rd t R.hifErrStatProtected = 1 ∧ Leaves [R.hifErrStatProtected] s t ∧ rest t = rest (dropLatch s r)) := by
  refine ⟨finish s (hifErr (dropLatch s r) R.hifErrStatProtected), ?_,
    report_finish rfl (by decide) (fun _ => rfl) (rest_hifErr _ _)⟩
  simp [exec, execProtectedWrite, hreg, hmay, protectedWrite, hr, whenClocked_next hclk]

end Report

/-- Settles O2: each access's own theorem above, the 32-bit ones (R13) first. -/
theorem narrowAndForeignAccessesAreReported : Obligations.NarrowAndForeignAccessesAreReported := by
  unfold Obligations.NarrowAndForeignAccessesAreReported
  refine ⟨fun s r a v d home hclk hreg h32 => ⟨halfRead_completes hclk hreg h32, ?_, ?_, ?_⟩, ?_, ?_, ?_⟩
  · exact fun hmay hro hx ha hhome => lowHalf_completes hclk hreg h32 hmay hro hx ha hhome
  · exact fun hmay hro hx ha low hlow => highHalf_eq_registerWrite hreg h32 hmay hro hx ha hlow
  · exact fun hmay hro hplain ha hx hlow hhome =>
      halfAlone_setsItsHalf hclk hreg h32 hmay hro hplain ha hx hlow hhome
  · exact fun s r a w d home hclk hreg h64 => narrowAccess_completes hclk w hreg h64
  · exact fun s r a n w hclk hreg ha => unmappedAccess_completes hclk w n hreg ha
  · exact fun s r a d home hclk hreg hmay hr => protectedWrite_completes hclk hreg hmay hr

end Sys2Proof.Proofs
end

section
/-!
PROOFS. A write of MOD_HANDOVER by the cluster agent (R26, R322): it has no effect, and it is not reported either, since
PROTECTED reports the writes of hosts.
-/

namespace Sys2Proof.Proofs

open Sys2Proof Sys2Proof.Machine Sys2Proof.Laws

/-- R322: only a host's write of a core-only register is reported; requester 48 is the cluster agent. -/
@[simp] theorem protectedWrite_agent (s : State) : protectedWrite s 48 = s := if_pos rfl

theorem exec_handoverGo_agent {s : State} (hlive : live s = true) (q t : Nat) :
    exec (.handoverGo 48 q t) s = .next (finish s (dropLatch s 48)) := by
  have hforeign : isCore 48 = false := by decide
  simp [exec, execHandoverGo, hforeign, whenLive_next hlive]

/-- R26, R322: the cluster agent's write of MOD_HANDOVER changes no field but the pins that follow every step. -/
theorem handoverGo_agent_leaves {s : State} (hlive : live s = true) (q t : Nat) :
    Completes (.handoverGo 48 q t) s (Leaves [] s) :=
  ⟨_, exec_handoverGo_agent hlive q t, fun g hg _ => by rw [rd_finish_quiet _ _ _ hg, rd_dropLatch]⟩

/-- A device that serves, with no error reported in HIF_ERR_STAT. -/
def servingState : State :=
  wr { State.reset with mod := { ModS.reset with seq := .running } } R.modStatMode (modeNum .serve)

/-- Refutes O46: its last clause says of every requester but the management cores that a write of MOD_HANDOVER sets
HIF_ERR_STAT.PROTECTED. In `servingState` the write of the cluster agent (requester 48) leaves the bit 0: R322 reports
host writes. -/
theorem not_handoversRotateThePipes : ¬ Obligations.HandoversRotateThePipes := by
  unfold Obligations.HandoversRotateThePipes
  rintro ⟨-, -, -, -, -, -, -, -, -, -, -, hforeign⟩
  have hlive : live servingState = true := by decide
  have hclear : rd servingState R.hifErrStatProtected = 0 := by decide
  obtain ⟨u, hu, hset, -, -⟩ := hforeign servingState 48 0 0 hlive (by decide)
  obtain ⟨v, hv, hkeeps⟩ := handoverGo_agent_leaves hlive 0 0
  obtain rfl : u = v := Host.Outcome.next.inj (hu.symm.trans hv)
  have hstays : rd u R.hifErrStatProtected = 0 := (hkeeps R.hifErrStatProtected (by decide) (by simp)).trans hclear
  exact absurd (hset.symm.trans hstays) (by decide)

end Sys2Proof.Proofs
end

section
/-!
PROOFS. The time base (R264, R266, R268, R269, R290): first the laws of what moves the counter, of VALID, of a change of
STATE and of a commit that is not pending, then each write and command.
-/

namespace Sys2Proof.Proofs

open Sys2Proof Sys2Proof.Machine Sys2Proof.Laws

/-! ### The end of a meaning -/

theorem completes_live {c : Instr} {s u : State} {P : State → Prop} (hlive : live s = true)
    (hexec : exec c s = whenLive s (.next u)) (hP : P (finish s u)) : Completes c s P :=
  ⟨finish s u, by rw [hexec, whenLive_next hlive], hP⟩

theorem leaves_finish {fs : List Fld} {s u : State} (h : Leaves fs s u) : Leaves fs s (finish s u) :=
  fun g hg hne => by rw [rd_finish_quiet _ _ _ hg, h g hg hne]

@[simp] theorem timeValid_finish (s t : State) : timeValid (finish s t) = timeValid t := by
  simp (disch := decide) only [timeValid, rdB, rd_finish]

theorem rd_wr_fits (s : State) (f : Fld) {v : Nat} (h : v < 2 ^ f.wid) : rd (wr s f v) f = v := by
  rw [rd_wr_self, Nat.mod_eq_of_lt h]

/-! ### The meanings of this family's writes, commands and event -/

section Arms

variable (s : State) (h : CmdHdr) (r v e k sec ns lim hold : Nat) (b : Bool) (d : Int)

theorem exec_timIncrementWrite : exec (.timIncrementWrite r v) s = execTimIncrementWrite r v s := rfl
theorem exec_timEpochAck : exec (.timEpochAck r k b) s = execTimEpochAck r k b s := rfl
theorem exec_timAdjStep : exec (.timAdjStep r v) s = execTimAdjStep r v s := rfl
theorem exec_timAdjSet : exec (.timAdjSet r v) s = execTimAdjSet r v s := rfl
theorem exec_lockDeclare : exec (.lockDeclare r b e) s = execLockDeclare r b e s := rfl
theorem exec_lossDeclare : exec (.lossDeclare r) s = execLossDeclare r s := rfl
theorem exec_holdTimerExpire : exec .holdTimerExpire s = execHoldTimerExpire s := rfl
theorem exec_timeSet : exec (.timeSet h sec ns) s = execTimeSet h sec ns s := rfl
theorem exec_timeStep : exec (.timeStep h d) s = execTimeStep h d s := rfl
theorem exec_timeCfg : exec (.timeCfg h lim hold) s = execTimeCfg h lim hold s := rfl

end Arms

/-! ### The counter (R263, R266, R269) -/

theorem ibits_lt (w : Nat) (v : Int) : ibits w v < 2 ^ w := by
  have hpos : 0 < 2 ^ w := Nat.two_pow_pos w
  have hlt := Int.emod_lt_of_pos v (b := (2 ^ w : Nat)) (by omega)
  have hnonneg := Int.emod_nonneg v (b := (2 ^ w : Nat)) (by omega)
  unfold ibits
  omega

/-- Adding a signed step and cutting to 32 bits is adding its bits modulo 2^32. -/
theorem ibits_add_sbits (a v : Nat) : ibits 32 ((a : Int) + sbits 32 v) = (a + v) % 2 ^ 32 := by
  unfold ibits sbits
  dsimp only
  split <;> omega

theorem sbits_ne_min {v : Nat} (hlt : v < 2 ^ 32) (hne : v ≠ 2 ^ 31) : sbits 32 v ≠ -(2 ^ 31 : Int) := by
  unfold sbits
  dsimp only
  split <;> omega

theorem rd_pendingUp_ne (s : State) (g : Fld) (hpend : fkey R.timNowxPending ≠ fkey g)
    (hreb : fkey R.timNowxRebase ≠ fkey g) : rd (pendingUp s) g = rd s g := by
  unfold pendingUp
  split
  · exact rd_wr_ne _ _ _ _ hreb
  · exact rd_wr_ne _ _ _ _ hpend

/-- A step moves NS and the wrap fields of TIM_NOWX; the other fields stay. -/
theorem rd_stepNs_of_ne_wrap (s : State) (d : Int) (g : Fld) (hpend : fkey R.timNowxPending ≠ fkey g)
    (hreb : fkey R.timNowxRebase ≠ fkey g) :
    rd (stepNs s d) g = rd (wr s R.timNowNs (ibits 32 ((nowNs s : Int) + d))) g := by
  unfold stepNs
  dsimp only
  split
  · exact rd_pendingUp_ne _ _ hpend hreb
  · split
    · split
      · exact rd_wr_ne _ _ _ _ hpend
      · exact rd_wr_ne _ _ _ _ hreb
    · rfl

theorem rd_stepNs_ns (s : State) (d : Int) : rd (stepNs s d) R.timNowNs = ibits 32 ((nowNs s : Int) + d) := by
  rw [rd_stepNs_of_ne_wrap _ _ _ (by decide) (by decide), rd_wr_fits _ _ (ibits_lt 32 _)]

@[simp] theorem pendingUp_tim (s : State) : (pendingUp s).tim = s.tim := by
  unfold pendingUp
  split <;> rfl

@[simp] theorem pendingUp_take (s : State) : (pendingUp s).take = s.take := by
  unfold pendingUp
  split <;> rfl

@[simp] theorem stepNs_take (s : State) (d : Int) : (stepNs s d).take = s.take := by
  unfold stepNs
  dsimp only
  split
  · simp
  · split
    · split <;> rfl
    · rfl

@[simp] theorem stepNs_oper (s : State) (d : Int) : (stepNs s d).tim.oper = s.tim.oper := by
  unfold stepNs
  dsimp only
  split
  · simp
  · split
    · split <;> rfl
    · rfl

@[simp] theorem setNs_oper (s : State) (v net : Nat) : (setNs s v net).tim.oper = s.tim.oper := rfl

/-- R266, R269: an absolute set: FRAC and PENDING clear and REBASE is set. -/
theorem setNs_counter (s : State) (v net : Nat) :
    rd (setNs s v net) R.timNowNs = v % 2 ^ 32 ∧ rd (setNs s v net) R.timNowFrac = 0 ∧
      rd (setNs s v net) R.timNowxPending = 0 ∧ rd (setNs s v net) R.timNowxRebase = 1 := by
  simp only [setNs, rd_mk, rdR_regs, wrs_cons, wrs_nil]
  refine ⟨?_, ?_, ?_, ?_⟩
  · simp (disch := decide) only [rd_wr_ne, rd_wr_self]
    rfl
  all_goals simp (disch := decide) only [rd_wr_ne, rd_wr_fits]

/-! ### A commit that is not pending (R94, R96) -/

theorem timedRemaining_none {s : State} (h : s.take.timed = none) : timedRemaining s = 0 := by
  have hdiff : nsDiff (nowNs s) (nowNs s) = 0 := by
    unfold nsDiff
    omega
  simp [timedRemaining, h, hdiff, sbits]

theorem cancelBefore_none {s : State} (h : s.take.timed = none) : cancelBefore s = s := by
  simp [cancelBefore, timedRemaining_none h]

theorem pastDue_none {s : State} (h : s.take.timed = none) : pastDue s = false := by
  simp [pastDue, h]

@[simp] theorem keepDue_false (s : State) : keepDue false s = s := rfl

theorem activateDue_none {s : State} (hacc : s.take.accepted = none) (htim : s.take.timed = none)
    (stamp : Nat → Nat) : activateDue s stamp = s := by
  simp [activateDue, hacc, htim]

/-- Without a pending commit a step of the counter is no more than that. -/
theorem stepTime_none {s : State} (hacc : s.take.accepted = none) (htim : s.take.timed = none) (d : Int) :
    stepTime s d = stepNs s d := by
  rw [stepTime, pastDue_none htim, keepDue_false]
  exact activateDue_none (by rw [stepNs_take, hacc]) (by rw [stepNs_take, htim]) _

/-! ### VALID, and the changes of STATE (R268) -/

theorem timeValid_setValid (s : State) (b : Bool) : timeValid (setValid s b) = b := by
  unfold setValid
  split
  · rename_i hsame
    exact hsame
  · simp (disch := decide) only [timeValid, rdB, rd_syncPins, rd_timInt_ne, rd_wrB_self _ R.timStatValid b rfl]
    cases b <;> rfl

theorem rd_setValid_ne (s : State) (b : Bool) (g : Fld) (hg : quiet (fkey g) = true)
    (hvalid : fkey R.timStatValid ≠ fkey g) (hint : fkey R.timIntValidChg ≠ fkey g) :
    rd (setValid s b) g = rd s g := by
  unfold setValid
  split
  · rfl
  · rw [rd_syncPins_quiet _ _ hg, rd_timInt_ne _ _ _ hint, rd_wrB_ne _ _ _ _ hvalid]

@[simp] theorem setValid_tim (s : State) (b : Bool) : (setValid s b).tim = s.tim := by
  unfold setValid
  split <;> simp

@[simp] theorem setValid_take (s : State) (b : Bool) : (setValid s b).take = s.take := by
  unfold setValid
  split
  · rfl
  · rw [syncPins_take]
    exact congrArg (·.take) (rest_timInt _ _)

@[simp] theorem timeValid_timeMark (s : State) : timeValid (timeMark s) = timeValid s := by
  simp (disch := decide) only [timeValid, rdB, rd_timeMark]

/-- With no list there is none to suspend: TIM_INT.SUSPEND is set all the same. -/
theorem suspendLists_nil {s : State} (h : s.tim.oper = []) : suspendLists s = timInt s R.timIntSuspend := by
  simp [suspendLists, h]

/-- R268: what the end of holdover comes to without a list and without a pending commit. -/
theorem holdExpired_idle {s : State} (hoper : s.tim.oper = []) (htim : s.take.timed = none) :
    rd (holdExpired s) R.timStatState = 0 ∧ rd (holdExpired s) R.timStatSource = 0 ∧
      timeValid (holdExpired s) = false ∧ (holdExpired s).tim.holdStart = none ∧
      rd (holdExpired s) R.timIntSuspend = 1 := by
  have heq : holdExpired s = timInt (setValid (wrs { s with tim := { s.tim with holdStart := none } }
      [(R.timStatSource, 0), (R.timStatState, 0)]) false) R.timIntSuspend := by
    simp only [holdExpired]
    rw [cancelBefore_none (by simpa using htim), suspendLists_nil (by simpa using hoper)]
  rw [heq]
  refine ⟨?_, ?_, ?_, by simp, rd_timInt_self _ _ rfl⟩
  · simp (disch := decide) only [rd_timInt_ne, rd_setValid_ne, wrs_cons, wrs_nil, rd_wr_fits]
  · simp (disch := decide) only [rd_timInt_ne, rd_setValid_ne, wrs_cons, wrs_nil, rd_wr_ne, rd_wr_fits]
  · have hset := timeValid_setValid (wrs { s with tim := { s.tim with holdStart := none } }
      [(R.timStatSource, 0), (R.timStatState, 0)]) false
    simp (disch := decide) only [timeValid, rdB, rd_timInt_ne] at hset ⊢
    exact hset

/-- R268: HOLDOVER starts its timer, unless HOLD_S ends it at once. -/
theorem enterHoldover_holds {s : State} (hhold : rd s R.timCfgHoldS ≠ 0) :
    enterHoldover s = wr { s with tim := { s.tim with holdStart := some (uptime s) } } R.timStatState 2 := by
  have hsame : rd (wr { s with tim := { s.tim with holdStart := some (uptime s) } } R.timStatState 2) R.timCfgHoldS =
      rd s R.timCfgHoldS := rd_wr_ne _ _ _ _ (by decide)
  simp only [enterHoldover]
  rw [if_neg (by rw [hsame]; exact hhold)]

/-- R268, R290: a commanded time is VALID with SOURCE 2 and STATE TIMED, whatever the lists did. -/
theorem commandedTime_status (s : State) :
    rd (commandedTime s) R.timStatState = 1 ∧ rd (commandedTime s) R.timStatSource = 2 ∧
      timeValid (commandedTime s) = true := by
  refine ⟨?_, ?_, ?_⟩
  · simp (disch := decide) only [commandedTime, rd_timeMark, rd_setValid_ne, wrs_cons, wrs_nil, rd_wr_fits]
  · simp (disch := decide) only [commandedTime, rd_timeMark, rd_setValid_ne, wrs_cons, wrs_nil, rd_wr_ne, rd_wr_fits]
  · simp only [commandedTime, timeValid_timeMark, timeValid_setValid]

/-- With no list, a commanded time leaves the counter as the command set it. -/
theorem commandedTime_counter {s : State} (hoper : s.tim.oper = []) :
    rd (commandedTime s) R.timNowNs = rd s R.timNowNs ∧ rd (commandedTime s) R.timNowFrac = rd s R.timNowFrac := by
  have hsuspend : suspendLists { s with tim := { s.tim with holdStart := none } } =
      timInt { s with tim := { s.tim with holdStart := none } } R.timIntSuspend := suspendLists_nil hoper
  constructor <;>
    simp (disch := decide) only [commandedTime, hsuspend, rd_timeMark, rd_setValid_ne, wrs_cons, wrs_nil, rd_wr_ne,
      rd_timInt_ne, rd_mk, rdR_regs]

/-! ### TIM_INCREMENT and TIM_EPOCH_ACK (R264, R266) -/

section Writes

variable {s : State} {r : Nat} (hlive : live s = true)
include hlive

/-- A meaning that sets one field and does no more. -/
theorem completes_oneField {c : Instr} {f : Fld} {v : Nat}
    (hexec : exec c s = whenLive s (.next (wr (dropLatch s r) f v)))
    (hf : quiet (fkey f) = true) (hv : v < 2 ^ f.wid) :
    Completes c s (fun t => rd t f = v ∧ Leaves [f] s t ∧ rest t = rest (dropLatch s r)) := by
  refine completes_live hlive hexec ⟨?_, leaves_finish fun g _ hne => ?_, ?_⟩
  · rw [rd_finish_quiet _ _ _ hf, rd_wr_fits _ _ hv]
  · rw [rd_wr_ne _ _ _ _ (hne f (by simp)), rd_dropLatch]
  · exact rest_finish rfl

theorem timIncrementWrite_accepted (hr : isCore r = true) {v : Nat} (hv : v < 2 ^ 36) (hmin : 0xCCC78EA0 ≤ v)
    (hmax : v ≤ 0xCCD20AFA) : Completes (.timIncrementWrite r v) s (fun t =>
      rd t R.timIncrementInc = v ∧ Leaves [R.timIncrementInc] s t ∧ rest t = rest (dropLatch s r)) := by
  refine completes_oneField hlive ?_ (by decide) hv
  simp only [exec_timIncrementWrite, execTimIncrementWrite, hr, Nat.mod_eq_of_lt hv, hmin, hmax, and_self,
    Bool.not_true, Bool.false_eq_true, if_false, if_true]

theorem timIncrementWrite_rejected (hr : isCore r = true) {v : Nat} (hv : v < 2 ^ 36)
    (hout : v < 0xCCC78EA0 ∨ 0xCCD20AFA < v) : Completes (.timIncrementWrite r v) s (fun t =>
      rd t R.timStatIncRej = 1 ∧ Leaves [R.timStatIncRej] s t ∧ rest t = rest (dropLatch s r)) := by
  have hrange : ¬(0xCCC78EA0 ≤ v ∧ v ≤ 0xCCD20AFA) := by omega
  refine completes_oneField hlive ?_ (by decide) (by decide)
  simp only [exec_timIncrementWrite, execTimIncrementWrite, hr, Nat.mod_eq_of_lt hv, if_neg hrange, Bool.not_true,
    Bool.false_eq_true, if_false]

/-- R322: a write by another master is at most reported. -/
theorem timIncrementWrite_foreign (hr : isCore r = false) (v : Nat) : Completes (.timIncrementWrite r v) s (fun t =>
    Leaves [R.hifErrStatProtected] s t ∧ rest t = rest (dropLatch s r)) := by
  have hexec : exec (.timIncrementWrite r v) s = whenLive s (.next (protectedWrite (dropLatch s r) r)) := by
    simp [exec_timIncrementWrite, execTimIncrementWrite, hr]
  refine completes_live hlive hexec ?_
  unfold protectedWrite
  split
  · exact ⟨leaves_finish fun _ _ _ => rfl, rest_finish rfl⟩
  · obtain ⟨-, hleaves, hrest⟩ := report_finish (s := s) (r := r) (f := R.hifErrStatProtected) rfl (by decide)
      (fun _ => rfl) (rest_hifErr _ _)
    exact ⟨hleaves, hrest⟩

/-- R266: PF0 acknowledges wraps, and clears REBASE if it says so. -/
theorem timEpochAck_completes (k : Nat) (clr : Bool) : Completes (.timEpochAck 1 k clr) s (fun t =>
    rd t R.timNowxPending = (rd s R.timNowxPending - k % 256) % 256 ∧ (clr = true → rd t R.timNowxRebase = 0) ∧
    Leaves [R.timNowxPending, R.timNowxRebase] s t ∧ rest t = rest (dropLatch s 1)) := by
  have hexec : exec (.timEpochAck 1 k clr) s = whenLive s (.next
      (let u := wr (dropLatch s 1) R.timNowxPending (rd s R.timNowxPending - k % 256)
       if clr then wr u R.timNowxRebase 0 else u)) := by
    cases clr <;> simp [exec_timEpochAck, execTimEpochAck]
  refine completes_live hlive hexec ⟨?_, ?_, leaves_finish fun g _ hne => ?_, ?_⟩
  · cases clr
    all_goals
      simp (disch := decide) only [rd_finish_quiet, if_true, Bool.false_eq_true, if_false, rd_wr_ne, rd_wr_self]
      rfl
  · rintro rfl
    simp (disch := decide) only [rd_finish_quiet, if_true, rd_wr_fits]
  · have hpend := hne R.timNowxPending (by simp)
    have hreb := hne R.timNowxRebase (by simp)
    cases clr <;> simp [rd_wr_ne _ _ _ _ hpend, rd_wr_ne _ _ _ _ hreb]
  · cases clr <;> exact rest_finish rfl

end Writes

/-! ### TIM_ADJ (R268, R269) -/

theorem rd_adjDone_ne (s : State) (c : Status) (g : Fld) (hg : fkey R.timAdjGo ≠ fkey g) :
    rd (adjDone s c) g = rd s g := rd_wr_ne _ _ _ _ hg

theorem rd_adjDone_go (s : State) (c : Status) : rd (adjDone s c) R.timAdjGo = 0 := rd_wr_fits _ _ (by decide)

@[simp] theorem rdStat_adjDone (s : State) (c : Status) : rdStat (adjDone s c) R.timAdjStatus = c :=
  rdStat_wrStat_self s _ c

section Adjust

variable {s : State} {r v : Nat} (hlive : live s = true) (hr : isCore r = true)
include hlive hr

/-- R268, R269: a step in NO_TIME, or one within JUMP_LIMIT, moves NS and leaves STATE. -/
theorem timAdjStep_accepted (hv : v < 2 ^ 32) (hmin : v ≠ 2 ^ 31)
    (hlim : rd s R.timStatState = 0 ∨
      (0 < rd s R.timJumpLimitLimitNs ∧ (sbits 32 v).natAbs ≤ rd s R.timJumpLimitLimitNs))
    (hacc : s.take.accepted = none) (htim : s.take.timed = none) :
    Completes (.timAdjStep r v) s (fun t => rd t R.timNowNs = (rd s R.timNowNs + v) % 2 ^ 32 ∧
      rdStat t R.timAdjStatus = .ok ∧ rd t R.timAdjGo = 0 ∧ rd t R.timStatState = rd s R.timStatState) := by
  have hexec : exec (.timAdjStep r v) s = whenLive s (.next (adjDone (timeMark
      (stepNs (wrs (dropLatch s r) [(R.timAdjStepNs, v), (R.timAdjSet, 0)]) (sbits 32 v))) .ok)) := by
    rw [← stepTime_none (by rw [wrs_take]; exact hacc) (by rw [wrs_take]; exact htim)]
    simp (disch := decide) only [exec_timAdjStep, execTimAdjStep, hr, Bool.not_true, Bool.false_eq_true, if_false,
      if_neg (sbits_ne_min hv hmin), wrs_cons, wrs_nil, rd_wr_ne, rd_dropLatch, if_pos hlim]
  refine completes_live hlive hexec ⟨?_, by simp, ?_, ?_⟩
  · simp (disch := decide) only [rd_finish_quiet, rd_adjDone_ne, rd_timeMark, rd_stepNs_ns, nowNs, wrs_cons, wrs_nil,
      rd_wr_ne, rd_dropLatch, ibits_add_sbits]
  · simp (disch := decide) only [rd_finish_quiet, rd_adjDone_go]
  · simp (disch := decide) only [rd_finish_quiet, rd_adjDone_ne, rd_timeMark, rd_stepNs_of_ne_wrap, wrs_cons, wrs_nil,
      rd_wr_ne, rd_dropLatch]

theorem timAdjSet_noTime (hstate : rd s R.timStatState = 0) :
    Completes (.timAdjSet r v) s (fun t => rd t R.timNowNs = v % 2 ^ 32 ∧ rd t R.timNowFrac = 0 ∧
      rd t R.timNowxPending = 0 ∧ rd t R.timNowxRebase = 1 ∧ rdStat t R.timAdjStatus = .ok) := by
  have hexec : exec (.timAdjSet r v) s = whenLive s (.next (adjDone (timeMark
      (setNs (wrs (dropLatch s r) [(R.timAdjStepNs, v), (R.timAdjSet, 1)]) v (v % 2 ^ 32))) .ok)) := by
    simp (disch := decide) only [exec_timAdjSet, execTimAdjSet, hr, Bool.not_true, Bool.false_eq_true, if_false,
      wrs_cons, wrs_nil, rd_wr_ne, rd_dropLatch, hstate, if_true]
  refine completes_live hlive hexec ?_
  simp (disch := decide) only [rd_finish_quiet, rd_adjDone_ne, rd_timeMark, rdStat_finish, rdStat_adjDone]
  simp only [setNs_counter, and_self]

theorem timAdjSet_refused (hstate : rd s R.timStatState ≠ 0) :
    Completes (.timAdjSet r v) s (fun t => rd t R.timNowNs = rd s R.timNowNs ∧
      rdStat t R.timAdjStatus = .refusedMode) := by
  have hexec : exec (.timAdjSet r v) s = whenLive s (.next
      (adjDone (wrs (dropLatch s r) [(R.timAdjStepNs, v), (R.timAdjSet, 1)]) .refusedMode)) := by
    simp (disch := decide) only [exec_timAdjSet, execTimAdjSet, hr, Bool.not_true, Bool.false_eq_true, if_false,
      wrs_cons, wrs_nil, rd_wr_ne, rd_dropLatch, if_neg hstate]
  refine completes_live hlive hexec ⟨?_, by simp⟩
  simp (disch := decide) only [rd_finish_quiet, rd_adjDone_ne, wrs_cons, wrs_nil, rd_wr_ne, rd_dropLatch]

end Adjust

/-! ### TIM_CTL and the hold timer (R268, R376) -/

/-- A meaning that does nothing leaves every field and the rest of the state. -/
theorem completes_unchanged {c : Instr} {s u : State} (hlive : live s = true) (hexec : exec c s = whenLive s (.next u))
    (hrd : ∀ g, rd u g = rd s g) (hpend : u.pending = s.pending) :
    Completes c s (fun t => Leaves [] s t ∧ rest t = rest u) :=
  completes_live hlive hexec ⟨leaves_finish fun g _ _ => hrd g, rest_finish hpend⟩

/-- R268: what declaring lock makes of a state: SOURCE, STATE TIMED, the hold timer stopped, the network time's base. -/
def lockTimed (s : State) (d : Bool) (e : Nat) : State :=
  wrs { s with tim := { s.tim with holdStart := none, netBase := e * 2 ^ 32 } }
    [(R.timStatSource, if d then 3 else 1), (R.timStatState, 1)]

theorem lockTimed_holdStart (s : State) (d : Bool) (e : Nat) : (lockTimed s d e).tim.holdStart = none := rfl
theorem lockTimed_netBase (s : State) (d : Bool) (e : Nat) : (lockTimed s d e).tim.netBase = e * 2 ^ 32 := rfl

theorem rd_lockTimed_status (s : State) (d : Bool) (e : Nat) :
    rd (lockTimed s d e) R.timStatState = 1 ∧ rd (lockTimed s d e) R.timStatSource = (if d then 3 else 1) := by
  constructor
  · simp (disch := decide) only [lockTimed, wrs_cons, wrs_nil, rd_wr_fits]
  · cases d <;> simp (disch := decide) only [lockTimed, wrs_cons, wrs_nil, rd_wr_ne, rd_wr_fits, if_true,
      Bool.false_eq_true, if_false]

section Control

variable {s : State} {r : Nat} (hlive : live s = true) (hr : isCore r = true)
include hlive hr

/-- R376: a Crew whose Director's time is not valid declares no lock to it. -/
theorem lockDeclare_invalidDirector {e : Nat} (hact : rd s R.cluStatActing = 2) (hdir : directorValid s = false) :
    Completes (.lockDeclare r true e) s (fun t => Leaves [] s t ∧ rest t = rest (dropLatch s r)) := by
  refine completes_unchanged hlive ?_ (rd_dropLatch s r) rfl
  have hdrop : directorValid (dropLatch s r) = false := hdir
  simp [exec_lockDeclare, execLockDeclare, hr, hact, hdrop]

omit hlive in
theorem exec_lockDeclare_timed {e : Nat} {d : Bool} (hstate : rd s R.timStatState ≠ 1)
    (hdir : d = false ∨ rd s R.cluStatActing ≠ 2 ∨ directorValid s = true) :
    exec (.lockDeclare r d e) s = whenLive s (.next
      (if rd s R.timStatState = 0 then
        timeMark (setValid (lockTimed (wrB (dropLatch s r) R.timCtlDirector d) d e) true)
      else lockTimed (wrB (dropLatch s r) R.timCtlDirector d) d e)) := by
  have hdrop : directorValid (dropLatch s r) = directorValid s := rfl
  have hallowed : ¬((d && rd s R.cluStatActing == 2 && !directorValid s) = true) := by
    rcases hdir with h | h | h <;> simp [h]
  have hstays : rd (wrB (dropLatch s r) R.timCtlDirector d) R.timStatState = rd s R.timStatState :=
    rd_wrB_ne _ _ _ _ (by decide)
  simp only [exec_lockDeclare, execLockDeclare, hr, Bool.not_true, Bool.false_eq_true, if_false, rd_dropLatch, hdrop,
    if_neg hallowed, hstays, if_neg hstate, lockTimed]

/-- R268: LOCK outside TIMED makes the device TIMED by its source; in NO_TIME, time becomes valid. -/
theorem lockDeclare_timed {e : Nat} {d : Bool} (hstate : rd s R.timStatState ≠ 1)
    (hdir : d = false ∨ rd s R.cluStatActing ≠ 2 ∨ directorValid s = true) :
    Completes (.lockDeclare r d e) s (fun t => rd t R.timStatState = 1 ∧
      rd t R.timStatSource = (if d then 3 else 1) ∧ t.tim.holdStart = none ∧ t.tim.netBase = e * 2 ^ 32 ∧
      (rd s R.timStatState = 0 → timeValid t = true)) := by
  refine completes_live hlive (exec_lockDeclare_timed hr hstate hdir) ?_
  obtain ⟨hst, hsrc⟩ := rd_lockTimed_status (wrB (dropLatch s r) R.timCtlDirector d) d e
  split
  · simp (disch := decide) only [rd_finish_quiet, rd_timeMark, rd_setValid_ne, hst, hsrc, finish_tim, timeMark_tim,
      setValid_tim, lockTimed_holdStart, lockTimed_netBase, timeValid_finish, timeValid_timeMark, timeValid_setValid,
      implies_true, and_self]
  · rename_i hheld
    simp (disch := decide) only [rd_finish_quiet, hst, hsrc, finish_tim, lockTimed_holdStart, lockTimed_netBase, hheld,
      false_implies, and_self]

/-- R268: LOSS of a source 1 or 3 enters HOLDOVER: time stays as valid as it was. -/
theorem lossDeclare_holdover (hstate : rd s R.timStatState = 1)
    (hsrc : rd s R.timStatSource = 1 ∨ rd s R.timStatSource = 3) (hhold : rd s R.timCfgHoldS ≠ 0) :
    Completes (.lossDeclare r) s (fun t => rd t R.timStatState = 2 ∧ t.tim.holdStart = some (uptime s) ∧
      timeValid t = timeValid s ∧ Leaves [R.timStatState] s t) := by
  have hexec : exec (.lossDeclare r) s = whenLive s (.next (wr
      { dropLatch s r with tim := { s.tim with holdStart := some (uptime s) } } R.timStatState 2)) := by
    have henter := enterHoldover_holds (s := dropLatch s r) hhold
    simp only [exec_lossDeclare, execLossDeclare, hr, Bool.not_true, Bool.false_eq_true, if_false, rd_dropLatch,
      hstate, hsrc, and_self, if_true, henter]
    rfl
  refine completes_live hlive hexec ⟨?_, ?_, ?_, leaves_finish fun g _ hne => ?_⟩
  · rw [rd_finish_quiet _ _ _ (by decide), rd_wr_fits _ _ (by decide)]
  · rw [finish_tim]
    rfl
  · rw [timeValid_finish]
    exact congrArg (· != 0) (rd_wr_ne _ R.timStatState R.timStatValid 2 (by decide))
  · rw [rd_wr_ne _ _ _ _ (hne R.timStatState (by simp))]
    rfl

end Control

section Hold

variable {s : State} {t0 : Nat} (hlive : live s = true) (hstart : s.tim.holdStart = some t0)
include hlive hstart

theorem holdTimerExpire_early (hearly : uptime s - t0 < rd s R.timCfgHoldS * 10 ^ 9) :
    Completes .holdTimerExpire s (fun t => Leaves [] s t ∧ rest t = rest s) := by
  have hnotYet : ¬(rd s R.timCfgHoldS * 10 ^ 9 ≤ uptime s - t0) := Nat.not_le_of_lt hearly
  refine completes_unchanged hlive ?_ (fun _ => rfl) rfl
  simp only [exec_holdTimerExpire, execHoldTimerExpire, hstart, hnotYet, and_false, if_false]

theorem holdTimerExpire_due (hstate : rd s R.timStatState = 2)
    (hdue : rd s R.timCfgHoldS * 10 ^ 9 ≤ uptime s - t0) (hoper : s.tim.oper = [])
    (htim : s.take.timed = none) :
    Completes .holdTimerExpire s (fun t => rd t R.timStatState = 0 ∧ rd t R.timStatSource = 0 ∧
      timeValid t = false ∧ t.tim.holdStart = none ∧ rd t R.timIntSuspend = 1) := by
  have hexec : exec .holdTimerExpire s = whenLive s (.next (holdExpired s)) := by
    simp only [exec_holdTimerExpire, execHoldTimerExpire, hstart, hstate, hdue, and_self, if_true]
  refine completes_live hlive hexec ?_
  simp (disch := decide) only [rd_finish_quiet, timeValid_finish, finish_tim]
  exact holdExpired_idle hoper htim

end Hold

/-! ### The time commands of a management core (R290) -/

/-- A core's command in a mode that accepts it holds its answer, and its effect is the command's own. -/
theorem guarded_inModes {h : CmdHdr} (hb : ByCore h) {s : State} {l : List Mode} (hmode : modeIn s l = true)
    (grp : Option Nat) (f : State → CmdOut) :
    guarded s h grp (fun s => inModes l s f) = holdAnswer (f s).st h none (f s).status (f s).payload := by
  rw [guarded_core hb.1]
  simp only [inModes, hmode, if_true]

section Commands

variable {s : State} {h : CmdHdr} (hlive : live s = true) (hb : ByCore h)
include hlive hb

/-- What TIME_SET and TIME_STEP share: the status of a commanded time, and the answer. -/
theorem completes_commandedTime {c : Instr} {u : State} {P : State → Prop}
    (hexec : exec c s = whenLive s (.next (holdAnswer (commandedTime u) h none .ok [])))
    (hP : P (finish s (holdAnswer (commandedTime u) h none .ok []))) :
    Completes c s (fun t => rd t R.timStatState = 1 ∧ rd t R.timStatSource = 2 ∧ timeValid t = true ∧
      Answers h .ok [] t ∧ P t) := by
  obtain ⟨hstate, hsrc, hvalid⟩ := commandedTime_status u
  refine completes_live hlive hexec ⟨?_, ?_, ?_, answers_finish (answers_hold hb _ _ _), hP⟩
  · rw [rd_finish_quiet _ _ _ (by decide), rd_holdAnswer, hstate]
  · rw [rd_finish_quiet _ _ _ (by decide), rd_holdAnswer, hsrc]
  · rw [timeValid_finish]
    simpa only [timeValid, rdB, rd_holdAnswer] using hvalid

variable (hmode : modeIn s commandModes = true)
include hmode

theorem timeSet_completes (sec ns : Nat) :
    Completes (.timeSet h sec ns) s (fun t => rd t R.timStatState = 1 ∧ rd t R.timStatSource = 2 ∧
      timeValid t = true ∧ Answers h .ok [] t ∧
      (s.tim.oper = [] → s.take.timed = none →
        rd t R.timNowNs = (sec * 10 ^ 9 + ns) % 2 ^ 32 ∧ rd t R.timNowFrac = 0)) := by
  refine completes_commandedTime hlive hb (u := keepDue (pastDue s)
    (setNs (cancelBefore s) (sec * 10 ^ 9 + ns) (sec * 10 ^ 9 + ns))) ?_ fun hoper htim => ?_
  · simp only [exec_timeSet, execTimeSet, guarded_inModes hb hmode, okay]
  · obtain ⟨hns, hfrac, -, -⟩ := setNs_counter s (sec * 10 ^ 9 + ns) (sec * 10 ^ 9 + ns)
    obtain ⟨hkeepNs, hkeepFrac⟩ := commandedTime_counter (s := setNs s (sec * 10 ^ 9 + ns) (sec * 10 ^ 9 + ns))
      (by rw [setNs_oper, hoper])
    rw [cancelBefore_none htim, pastDue_none htim, keepDue_false]
    simp (disch := decide) only [rd_finish_quiet, rd_holdAnswer, hkeepNs, hkeepFrac, hns, hfrac, and_self]

/-- R290: an accepted TIME_STEP steps the counter; a commit too far behind it is cancelled (R94). -/
theorem timeStep_accepted {d : Int} (hd : d.natAbs < 2 ^ 31) :
    Completes (.timeStep h d) s (fun t => rd t R.timStatState = 1 ∧ rd t R.timStatSource = 2 ∧
      timeValid t = true ∧ Answers h .ok [] t ∧
      (s.tim.oper = [] → s.take.timed = none → s.take.accepted = none →
        rd t R.timNowNs = ibits 32 ((rd s R.timNowNs : Int) + d))) := by
  refine completes_commandedTime hlive hb (u := if timedRemaining s - d < -(2 ^ 31 : Int)
    then cancelTimed (stepNs s d) else stepTime s d) ?_ fun hoper htim hacc => ?_
  · simp only [exec_timeStep, execTimeStep, guarded_inModes hb hmode, okay, if_neg (Nat.not_le_of_lt hd)]
  · have hnear : ¬(timedRemaining s - d < -(2 ^ 31 : Int)) := by
      rw [timedRemaining_none htim]
      omega
    obtain ⟨hkeepNs, -⟩ := commandedTime_counter (s := stepNs s d) (by rw [stepNs_oper, hoper])
    rw [if_neg hnear, stepTime_none hacc htim, rd_finish_quiet _ _ _ (by decide), rd_holdAnswer, hkeepNs, rd_stepNs_ns,
      nowNs]

theorem timeStep_tooFar {d : Int} (hd : 2 ^ 31 ≤ d.natAbs) :
    Completes (.timeStep h d) s (fun t => Answers h .invalid [] t ∧ Leaves [] s t) := by
  have hexec : exec (.timeStep h d) s = whenLive s (.next (holdAnswer s h none .invalid [])) := by
    simp only [exec_timeStep, execTimeStep, guarded_inModes hb hmode, if_pos hd, refuse]
  exact completes_live hlive hexec ⟨answers_finish (answers_hold hb _ _ _),
    leaves_finish fun g _ _ => rd_holdAnswer _ _ _ _ _ g⟩

theorem timeCfg_completes {lim hold : Nat} (hlim : lim < 2 ^ 32) (hhold : hold < 2 ^ 16)
    (hstart : s.tim.holdStart = none) :
    Completes (.timeCfg h lim hold) s (fun t => rd t R.timJumpLimitLimitNs = lim ∧ rd t R.timCfgHoldS = hold ∧
      Answers h .ok [] t ∧ Leaves [R.timJumpLimitLimitNs, R.timCfgHoldS] s t) := by
  have hfits : ¬(2 ^ 32 ≤ lim ∨ 65535 < hold) := by omega
  have hexec : exec (.timeCfg h lim hold) s = whenLive s (.next (holdAnswer
      (wr (wr s R.timJumpLimitLimitNs lim) R.timCfgHoldS hold) h none .ok [])) := by
    simp only [exec_timeCfg, execTimeCfg, guarded_inModes hb hmode, if_neg hfits, okay, wrs_cons, wrs_nil,
      wr_tim, hstart]
  refine completes_live hlive hexec ⟨?_, ?_, answers_finish (answers_hold hb _ _ _), leaves_finish fun g _ hne => ?_⟩
  · rw [rd_finish_quiet _ _ _ (by decide), rd_holdAnswer, rd_wr_ne _ _ _ _ (by decide), rd_wr_fits _ _ hlim]
  · rw [rd_finish_quiet _ _ _ (by decide), rd_holdAnswer, rd_wr_fits _ _ hhold]
  · rw [rd_holdAnswer, rd_wr_ne _ _ _ _ (hne R.timCfgHoldS (by simp)),
      rd_wr_ne _ _ _ _ (hne R.timJumpLimitLimitNs (by simp))]

end Commands

/-- Settles O12: each write's and each command's own theorem above. -/
theorem timeIsSetAndControlled : Obligations.TimeIsSetAndControlled := by
  unfold Obligations.TimeIsSetAndControlled
  refine ⟨⟨?increment, ?epochAck, ?adjStep, ?adjSet, ?adjSetRefused, ?noLock, ?lock, ?loss, ?early, ?due⟩,
    ?timeSet, ?timeStep, ?timeCfg, ?foreign⟩
  case increment =>
    exact fun s r v hlive hr hv =>
      ⟨timIncrementWrite_accepted hlive hr hv, timIncrementWrite_rejected hlive hr hv⟩
  case epochAck => exact fun s k clr hlive => timEpochAck_completes hlive k clr
  case adjStep =>
    exact fun s r v hlive hr hv hmin _ hlim hacc htim => timAdjStep_accepted hlive hr hv hmin hlim hacc htim
  case adjSet => exact fun s r v hlive hr hstate => timAdjSet_noTime hlive hr hstate
  case adjSetRefused => exact fun s r v hlive hr hstate => timAdjSet_refused hlive hr hstate
  case noLock => exact fun s r e hlive hr hact hdir => lockDeclare_invalidDirector hlive hr hact hdir
  case lock => exact fun s r e d hlive hr hstate hdir => lockDeclare_timed hlive hr hstate hdir
  case loss => exact fun s r hlive hr hstate hsrc hhold => lossDeclare_holdover hlive hr hstate hsrc hhold
  case early => exact fun s t0 hlive hstart _ hearly => holdTimerExpire_early hlive hstart hearly
  case due =>
    exact fun s t0 hlive hstart hstate hdue hoper htim => holdTimerExpire_due hlive hstart hstate hdue hoper htim
  case timeSet => exact fun s h sec ns hlive hb hmode => timeSet_completes hlive hb hmode sec ns
  case timeStep =>
    exact fun s h d hlive hb hmode => ⟨timeStep_accepted hlive hb hmode, timeStep_tooFar hlive hb hmode⟩
  case timeCfg =>
    exact fun s h lim hold hlive hb hmode hlim hhold hstart =>
      timeCfg_completes hlive hb hmode hlim hhold hstart
  case foreign => exact fun s r v hlive hr => timIncrementWrite_foreign hlive hr v

end Sys2Proof.Proofs
end

section
/-!
PROOFS. The power-fail input, the journal and scan test (R430, R432–R437): first what a record that finds room and a
fault's report come to, then each event, command and write.
-/

namespace Sys2Proof.Proofs

open Sys2Proof Sys2Proof.Machine Sys2Proof.Laws

/-! ### The end of a meaning -/

theorem completes_act {c : Instr} {s u : State} {P : State → Prop} (hexec : exec c s = act s (.next u))
    (hP : P (finish s u)) : Completes c s P :=
  ⟨finish s u, by rw [hexec, act_next], hP⟩

theorem completes_clocked {c : Instr} {s u : State} {P : State → Prop} (hclk : clocked s = true)
    (hexec : exec c s = whenClocked s (.next u)) (hP : P (finish s u)) : Completes c s P :=
  ⟨finish s u, by rw [hexec, whenClocked_next hclk], hP⟩

theorem completes_powered {c : Instr} {s u : State} {P : State → Prop} (hpow : powered s = true)
    (hexec : exec c s = whenPowered s (.next u)) (hP : P (finish s u)) : Completes c s P :=
  ⟨finish s u, by rw [hexec, whenPowered_next hpow], hP⟩

/-! ### PFW_N's level and the retry of a flash program -/

def setPfwN (s : State) (b : Bool) : State := { s with saf := { s.saf with pfwN := b } }

def setJRetry (s : State) (b : Bool) : State := { s with saf := { s.saf with jRetry := b } }

section Levels

variable (s : State) (b : Bool)

@[simp] theorem setPfwN_saf_pfwN : (setPfwN s b).saf.pfwN = b := rfl
@[simp] theorem setPfwN_saf_jTail : (setPfwN s b).saf.jTail = s.saf.jTail := rfl
@[simp] theorem rd_setPfwN (g : Fld) : rd (setPfwN s b) g = rd s g := rfl
@[simp] theorem setJRetry_saf_jRetry : (setJRetry s b).saf.jRetry = b := rfl
@[simp] theorem setJRetry_saf_jTail : (setJRetry s b).saf.jTail = s.saf.jTail := rfl
@[simp] theorem setJRetry_saf_jOver : (setJRetry s b).saf.jOver = s.saf.jOver := rfl
@[simp] theorem setJRetry_saf_jFlash : (setJRetry s b).saf.jFlash = s.saf.jFlash := rfl
@[simp] theorem setJRetry_saf_jLost : (setJRetry s b).saf.jLost = s.saf.jLost := rfl
@[simp] theorem setJRetry_img : (setJRetry s b).img = s.img := rfl
@[simp] theorem rd_setJRetry (g : Fld) : rd (setJRetry s b) g = rd s g := rfl

end Levels

/-! ### The meanings of this family's events, commands and writes -/

section Arms

variable (s : State) (h : CmdHdr) (n m ty sev req u a b c r : Nat) (st : JStatus) (ok : Bool) (i : JtagIr)
  (cells : List (String × Bool))

theorem exec_pfwNAssert : exec .pfwNAssert s = whenPowered s (settle s
    (if s.saf.pfwN then .next s
     else if modeIn (setPfwN s true) [.freeze] then
       .next (if s.ctr.frzStep = 7 then setPfwN s true else powerFailRec (setPfwN s true) (jBytes s.saf.jTail))
     else .next (powerFailRec (raiseFault (setPfwN s true) 18 0 0) (jBytes s.saf.jTail)))) := rfl

theorem exec_pfwNDeassert :
    exec .pfwNDeassert s = whenPowered s (.next (wr (setPfwN s false) R.jnlStatPfDone 0)) := rfl

theorem exec_journalCommit : exec (.journalCommit n ok) s = whenClocked s
    (if rdB s R.jnlStatPfDone ∨ s.saf.jTail = [] then .next s
     else if ok then
       .next (qspiRelease (reportLoss (refillTail (commitRecs (setJRetry s false) n (mirrorOn s)))))
     else if !s.saf.jRetry then .next (bump (setJRetry s true) (R.jnlCntCount 3))
     else .next (raiseFault (wr (setJRetry s false) R.jnlStatWriteErr 1) 21 0 0)) := rfl

theorem exec_powerFailCommitDone : exec .powerFailCommitDone s = execPowerFailCommitDone s := rfl
theorem exec_journalPost :
    exec (.journalPost ty sev req u st a b c) s = execJournalPost ty sev req u st a b c s := rfl
theorem exec_journalRead : exec (.journalRead h n m) s = execJournalRead h n m s := rfl
theorem exec_scanEnable : exec (.scanEnable r) s = execScanEnable r s := rfl
theorem exec_jtagInstruction : exec (.jtagInstruction i cells) s = execJtagInstruction i cells s := rfl

end Arms

/-! ### Counting leaves the state of chapter 16 alone, the journal's buffers included -/

@[simp] theorem raiseVec_saf (s : State) (fn vec : Nat) : (raiseVec s fn vec).saf = s.saf := by
  unfold raiseVec
  split
  · rfl
  · split <;> rfl

@[simp] theorem matchStep_saf (n old new : Nat) (s : State) (j : Nat) : (matchStep n old new s j).saf = s.saf := by
  unfold matchStep
  dsimp only
  split
  · split <;> split <;> simp
  · rfl

@[simp] theorem countOne_saf (s : State) (n inc : Nat) : (countOne s n inc).saf = s.saf := by
  unfold countOne
  dsimp only
  split
  · exact foldl_keep (·.saf) _ (fun t j => matchStep_saf n _ _ t j) _ _
  · split <;> simp

@[simp] theorem countProg_saf (s : State) (n inc : Nat) : (countProg s n inc).saf = s.saf := by
  unfold countProg
  dsimp only
  split <;> simp

@[simp] theorem bumpBy_saf (s : State) (f : Fld) (inc : Nat) : (bumpBy s f inc).saf = s.saf := by
  unfold bumpBy
  exact foldl_keep (·.saf) _ (fun t p => by split <;> simp) _ _

@[simp] theorem bump_saf (s : State) (f : Fld) : (bump s f).saf = s.saf := bumpBy_saf s f 1

@[simp] theorem jSync_saf (s : State) : (jSync s).saf = s.saf := rfl

/-! ### A fault's bit (R415, R435) -/

/-- `setBit` sets its bit, also once the value is cut to a field that holds the bit. -/
theorem bit_setBit_mod (v : Nat) {i w : Nat} (h : i < w) : bit (setBit v i % 2 ^ w) i = true := by
  have hquot : setBit v i / 2 ^ i = 1 + v / 2 ^ (i + 1) * 2 := by
    have hsplit : setBit v i = v % 2 ^ i + (1 + v / 2 ^ (i + 1) * 2) * 2 ^ i := by
      simp only [setBit, putBits]
      ring
    rw [hsplit, Nat.add_mul_div_right _ _ (Nat.two_pow_pos i),
      Nat.div_eq_of_lt (Nat.mod_lt _ (Nat.two_pow_pos i)), Nat.zero_add]
  have hself : (setBit v i).testBit i = true := by
    rw [Nat.testBit_eq_decide_div_mod_eq, hquot]
    simp
  have hmod := Nat.testBit_mod_two_pow (setBit v i) w i
  rw [hself, Nat.testBit_eq_decide_div_mod_eq] at hmod
  simpa [bit, h] using hmod

/-- R435: a record that is discarded sets code 21. -/
theorem bit_jDiscard (s : State) : bit (rd (jDiscard s) R.safFaultFault) 21 = true := by
  unfold jDiscard
  dsimp only
  rw [rd_syncPins _ _ (by decide) (by decide), rd_bump_ne _ _ _ (by decide) (by decide), rd_wr_self]
  exact bit_setBit_mod _ (by decide)

/-- A record that takes its place leaves SAF_FAULT alone, or is discarded and sets code 21. -/
theorem bit_jPlace {s : State} (h : bit (rd s R.safFaultFault) 21 = true) (r : JRec) :
    bit (rd (jPlace s r) R.safFaultFault) 21 = true := by
  unfold jPlace
  dsimp only
  split
  · exact h
  · split
    · split
      · split
        · exact h
        · exact bit_jDiscard _
      · exact h
    · split
      · exact h
      · exact bit_jDiscard _

theorem bit_journal {s : State} (h : bit (rd s R.safFaultFault) 21 = true) (typ sev unit : Nat) (st : JStatus)
    (a b : Nat) : bit (rd (journal s typ sev unit st a b) R.safFaultFault) 21 = true := by
  unfold journal journalFull
  dsimp only [jSync]
  rw [rd_wr_ne _ _ _ _ (by decide)]
  apply bit_jPlace
  rwa [rd_bump_ne _ _ _ (by decide) (by decide), rd_wr_ne _ _ _ _ (by decide)]

/-! ### A source fires (R415–R418) -/

/-- SAF_FIRST latches a source that fires while no bit is set. -/
def firstLatched (s : State) (code unit : Nat) : State :=
  if rd s R.safFaultFault = 0 then
    wrs s [(R.safFirstCode, code), (R.safFirstUnit, unit), (R.safFirstUptimeUs, uptimeUs s)]
  else s

/-- What `raiseFault` does before it reacts: SAF_FIRST, the source's bit, and its class's counter. -/
def faultLatched (s : State) (code unit : Nat) : State :=
  bump (wr (firstLatched s code unit) R.safFaultFault (setBit (rd (firstLatched s code unit) R.safFaultFault) code))
    (R.safCntCount (if classS code then 2 else 3))

theorem raiseFault_eq (s : State) (code unit detail : Nat) :
    raiseFault s code unit detail =
      if classS code && freezeOnFault (faultLatched s code unit) code then
        syncPins (setTrigger (faultLatched s code unit) 4 code)
      else if modeIn (faultLatched s code unit) [.reset] then
        syncPins { faultLatched s code unit with saf := { (faultLatched s code unit).saf with
          unposted := (faultLatched s code unit).saf.unposted ++ [(code, unit, detail)] } }
      else if classS code && modeIn (faultLatched s code unit) [.sync, .serve, .splice] then
        enterSafe (faultLatched s code unit) code unit detail
      else if modeIn (faultLatched s code unit) [.safe, .freeze] then syncPins (faultLatched s code unit)
      else syncPins
        (journal (faultLatched s code unit) 0x0040 (if classS code then 3 else 2) unit (.num code) detail 0) :=
  rfl

@[simp] theorem firstLatched_saf (s : State) (code unit : Nat) : (firstLatched s code unit).saf = s.saf := by
  unfold firstLatched
  split <;> rfl

@[simp] theorem faultLatched_saf (s : State) (code unit : Nat) : (faultLatched s code unit).saf = s.saf := by
  simp [faultLatched]

theorem rd_firstLatched (s : State) (code unit : Nat) {g : Fld} (hg : quiet (fkey g) = true) :
    rd (firstLatched s code unit) g = rd s g := by
  unfold firstLatched
  split
  · rw [wrs_cons, wrs_cons, wrs_cons, wrs_nil, rd_wr_quiet _ _ _ _ (by decide) hg,
      rd_wr_quiet _ _ _ _ (by decide) hg, rd_wr_quiet _ _ _ _ (by decide) hg]
  · rfl

theorem rd_faultLatched (s : State) (code unit : Nat) {g : Fld} (hg : quiet (fkey g) = true)
    (hcnt : fkey (R.safCntCount (if classS code then 2 else 3)) ≠ fkey g) :
    rd (faultLatched s code unit) g = rd s g := by
  rw [faultLatched, rd_bump_ne _ _ _ hcnt (offCtr_of_quiet hg), rd_wr_quiet _ _ _ _ (by decide) hg,
    rd_firstLatched _ _ _ hg]

/-- R415: the source's bit is set. -/
theorem bit_faultLatched (s : State) {code : Nat} (unit : Nat) (hcode : code < 23) :
    bit (rd (faultLatched s code unit) R.safFaultFault) code = true := by
  have hcnt : fkey (R.safCntCount (if classS code then 2 else 3)) ≠ fkey R.safFaultFault := by
    split <;> decide
  rw [faultLatched, rd_bump_ne _ _ _ hcnt (by decide), rd_wr_self]
  exact bit_setBit_mod _ hcode

/-- R418: in SAFE a source that fires sets its bit and its counter, and at most asks for a freeze. -/
theorem raiseFault_safe {s : State} (hmode : mode s = .safe) (code unit detail : Nat) :
    (raiseFault s code unit detail).saf = s.saf ∧
      ∀ g : Fld, fkey g ≠ 64 * 0x60000 → fkey g ≠ 64 * 0x60000 + 1 →
        rd (raiseFault s code unit detail) g = rd (faultLatched s code unit) g := by
  have hcnt : fkey (R.safCntCount (if classS code then 2 else 3)) ≠ fkey R.modStatMode := by
    split <;> decide
  have hsafe : mode (faultLatched s code unit) = .safe := by
    rw [← hmode, mode, mode, rd_faultLatched _ _ _ (by decide) hcnt]
  rw [raiseFault_eq]
  simp only [modeIn_of_mode hsafe]
  split
  · exact ⟨by rw [saf_syncPins, setTrigger_saf, faultLatched_saf], fun g h1 h2 => by rw [rd_syncPins _ _ h1 h2]; rfl⟩
  · rw [if_neg (by decide), if_neg (by simp), if_pos (by decide)]
    exact ⟨by rw [saf_syncPins, faultLatched_saf], fun g h1 h2 => rd_syncPins _ _ h1 h2⟩

/-- R435: code 21 sets its bit in every mode; it is not of class S, so no reaction follows but its record. -/
theorem raiseFault_journalCode (s : State) (unit detail : Nat) :
    bit (rd (raiseFault s 21 unit detail) R.safFaultFault) 21 = true ∧
      (raiseFault s 21 unit detail).saf.jRetry = s.saf.jRetry ∧
      ∀ g : Fld, quiet (fkey g) = true → rd (raiseFault s 21 unit detail) g = rd s g := by
  have hclass : classS 21 = false := by decide
  have hbit := bit_faultLatched s (code := 21) unit (by decide)
  have hquiet (g : Fld) (hg : quiet (fkey g) = true) : rd (faultLatched s 21 unit) g = rd s g :=
    rd_faultLatched s 21 unit hg (quiet_ne hg (by decide))
  have hpins (t : State) (hb : bit (rd t R.safFaultFault) 21 = true) (hr : t.saf.jRetry = s.saf.jRetry)
      (hq : ∀ g : Fld, quiet (fkey g) = true → rd t g = rd s g) :
      bit (rd (syncPins t) R.safFaultFault) 21 = true ∧ (syncPins t).saf.jRetry = s.saf.jRetry ∧
        ∀ g : Fld, quiet (fkey g) = true → rd (syncPins t) g = rd s g :=
    ⟨by rwa [rd_syncPins _ _ (by decide) (by decide)], by rwa [saf_syncPins],
      fun g hg => by rw [rd_syncPins_quiet _ _ hg, hq g hg]⟩
  rw [raiseFault_eq]
  simp only [hclass, Bool.false_and, Bool.false_eq_true, if_false]
  split_ifs
  · exact hpins _ hbit (by simp) hquiet
  · exact hpins _ hbit (by simp) hquiet
  · exact hpins _ (bit_journal hbit ..) (by simp) (fun g hg => by rw [rd_journal _ _ _ _ _ _ _ _ hg, hquiet g hg])

/-! ### A record that finds room in the tail (R432, R435) -/

section Room

variable {s : State} (hroom : 64 * (s.saf.jTail.length + 1) ≤ rd s R.jnlCfgTailMax)
  (typ sev req unit : Nat) (st : JStatus) (a b c : Nat)
include hroom

theorem jPlace_room (r : JRec) : jPlace s r = setJTail s (s.saf.jTail ++ [r]) := by
  have hfits : jBytes s.saf.jTail + 64 ≤ rd s R.jnlCfgTailMax := by
    unfold jBytes
    omega
  simp only [jPlace, if_pos hfits]

theorem journalFull_room : journalFull s typ sev req unit st a b c =
    jSync (setJTail (bump (wr s R.jnlStatSeq (rd s R.jnlStatSeq + 1)) (R.jnlCntCount 0))
      (s.saf.jTail ++ [jRec s typ sev req unit st a b c])) := by
  have hplace := jPlace_room (s := bump (wr s R.jnlStatSeq (rd s R.jnlStatSeq + 1)) (R.jnlCntCount 0))
    (by rwa [bump_saf, wr_saf, rd_bump_ne _ _ _ (by decide) (by decide), rd_wr_ne _ _ _ _ (by decide)])
    (jRec s typ sev req unit st a b c)
  rw [bump_saf, wr_saf] at hplace
  exact congrArg jSync hplace

/-- The record stands last in the tail; the overflow buffer stays. -/
theorem journalFull_room_buffers :
    (journalFull s typ sev req unit st a b c).saf.jTail = s.saf.jTail ++ [jRec s typ sev req unit st a b c] ∧
      (journalFull s typ sev req unit st a b c).saf.jOver = s.saf.jOver := by
  simp [journalFull_room hroom]

theorem rd_journalFull_room_seq :
    rd (journalFull s typ sev req unit st a b c) R.jnlStatSeq = (rd s R.jnlStatSeq + 1) % 2 ^ 32 := by
  rw [journalFull_room hroom, jSync, rd_wr_ne _ _ _ _ (by decide), rd_setJTail,
    rd_bump_ne _ _ _ (by decide) (by decide), rd_wr_self]
  rfl

/-- JNL_STAT.TAIL shows the tail's bytes; JNL_CFG.TAIL_MAX is at most 64 KiB (R432). -/
theorem rd_journalFull_room_tail (hmax : rd s R.jnlCfgTailMax ≤ 65536) :
    rd (journalFull s typ sev req unit st a b c) R.jnlStatTail = 64 * (s.saf.jTail.length + 1) := by
  have hfits : 64 * (s.saf.jTail.length + 1) < 2 ^ R.jnlStatTail.wid := by
    have hwid : (2 : Nat) ^ R.jnlStatTail.wid = 131072 := by decide
    omega
  rw [journalFull_room hroom, jSync, setJTail_saf_jTail, jBytes, List.length_append, List.length_singleton,
    rd_wr_fits _ _ hfits]

theorem rd_journalFull_room_fault :
    rd (journalFull s typ sev req unit st a b c) R.safFaultFault = rd s R.safFaultFault := by
  rw [journalFull_room hroom, jSync, rd_wr_ne _ _ _ _ (by decide), rd_setJTail,
    rd_bump_ne _ _ _ (by decide) (by decide), rd_wr_ne _ _ _ _ (by decide)]

end Room

/-! ### Commits (R435, R436) -/

section Commit

variable (s : State) (n : Nat) (mirror : Bool)

theorem commitRecs_tail : (commitRecs s n mirror).saf.jTail = s.saf.jTail.drop n := by simp [commitRecs]

theorem commitRecs_flash :
    (commitRecs s n mirror).saf.jFlash = ringPut s.saf.jFlash (s.saf.jTail.take n) := by simp [commitRecs]

@[simp] theorem commitRecs_over : (commitRecs s n mirror).saf.jOver = s.saf.jOver := by simp [commitRecs]

@[simp] theorem commitRecs_lost : (commitRecs s n mirror).saf.jLost = s.saf.jLost := by simp [commitRecs]

@[simp] theorem commitRecs_img : (commitRecs s n mirror).img = s.img := by simp [commitRecs, jSync]

/-- JNL_CNT[1] counts the records committed. -/
theorem rd_commitRecs_count : rd (commitRecs s n mirror) (R.jnlCntCount 1) =
    (rd s (R.jnlCntCount 1) + (s.saf.jTail.take n).length) % 2 ^ 48 := by
  rw [commitRecs, jSync, rd_wr_ne _ _ _ _ (by decide), rd_bumpBy_self _ _ _ (by decide)]
  rfl

theorem rd_commitRecs_tail : rd (commitRecs s n mirror) R.jnlStatTail =
    jBytes (s.saf.jTail.drop n) % 2 ^ 17 := by
  rw [commitRecs, jSync, rd_wr_self, bumpBy_saf]
  rfl

end Commit

/-- With no record in the overflow buffer the tail keeps its own. -/
theorem refillTail_saf {s : State} (h : s.saf.jOver = []) : (refillTail s).saf = s.saf := by
  simp only [refillTail, jSync_saf, h, List.take_nil, List.drop_nil, List.append_nil]
  rw [← h]

@[simp] theorem refillTail_img (s : State) : (refillTail s).img = s.img := rfl

theorem rd_refillTail (s : State) {g : Fld} (hg : fkey R.jnlStatTail ≠ fkey g) : rd (refillTail s) g = rd s g :=
  rd_wr_ne _ _ _ _ hg

theorem reportLoss_none {s : State} (h : s.saf.jLost = 0) : reportLoss s = s := by
  simp [reportLoss, h]

@[simp] theorem qspiRelease_saf (s : State) : (qspiRelease s).saf = s.saf := by
  unfold qspiRelease
  split
  · split <;> rfl
  · rfl

@[simp] theorem rd_qspiRelease (s : State) (g : Fld) : rd (qspiRelease s) g = rd s g := by
  unfold qspiRelease
  split
  · split <;> rfl
  · rfl

/-- R64: the QSPI pins are released once the awaited record has left the tail and the overflow buffer. -/
theorem qspiRelease_released {s : State} {m : Nat} (hwait : s.img.qspiAfter = some m) (hover : s.saf.jOver = [])
    (hleft : ∀ r ∈ s.saf.jTail, r.seq ≠ m) : (qspiRelease s).img.qspiOut = true := by
  have hgone : (s.saf.jTail ++ s.saf.jOver).any (fun r => r.seq == m) = false := by
    simpa [hover] using hleft
  simp [qspiRelease, hwait, hgone]

/-! ### PFW_N (R436) -/

/-- R436: in SAFE, PFW_N raises code 18, and the POWER_FAIL record tells the tail's bytes at t0. -/
theorem pfwNAssert_completes {s : State} (hpow : powered s = true) (hidle : s.saf.pfwN = false)
    (hmode : mode s = .safe) (hroom : 64 * (s.saf.jTail.length + 1) ≤ rd s R.jnlCfgTailMax) :
    Completes .pfwNAssert s (fun t => t.saf.pfwN = true ∧ bit (rd t R.safFaultFault) 18 = true ∧
      ∃ r, t.saf.jTail = s.saf.jTail ++ [r] ∧ r.typ = 0x0060 ∧ r.arg0 = 64 * s.saf.jTail.length) := by
  obtain ⟨hsaf, hrd⟩ := raiseFault_safe (s := setPfwN s true) hmode 18 0 0
  have hbit := bit_faultLatched (setPfwN s true) (code := 18) 0 (by decide)
  rw [← hrd _ (by decide) (by decide)] at hbit
  have hkeeps (g : Fld) (hg : quiet (fkey g) = true) (hcnt : fkey (R.safCntCount 2) ≠ fkey g) :
      rd (raiseFault (setPfwN s true) 18 0 0) g = rd s g := by
    rw [hrd g (quiet_pins hg).1 (quiet_pins hg).2, rd_faultLatched _ 18 _ hg hcnt, rd_setPfwN]
  have hrun : modeIn (setPfwN s true) [.freeze] = false := modeIn_of_mode (m := .safe) hmode _
  have hexec : exec .pfwNAssert s = whenPowered s (settle s
      (.next (powerFailRec (raiseFault (setPfwN s true) 18 0 0) (jBytes s.saf.jTail)))) := by
    simp only [exec_pfwNAssert, hidle, hrun, Bool.false_eq_true, if_false]
  generalize raiseFault (setPfwN s true) 18 0 0 = u at *
  have hroomU : 64 * (u.saf.jTail.length + 1) ≤ rd u R.jnlCfgTailMax := by
    rwa [hsaf, setPfwN_saf_jTail, hkeeps _ (by decide) (by decide)]
  have hmodeU : rd (powerFailRec u (jBytes s.saf.jTail)) R.modStatMode = rd s R.modStatMode := by
    rw [powerFailRec, rd_journal _ _ _ _ _ _ _ _ (by decide), hkeeps _ (by decide) (by decide)]
  rw [settle_same hmodeU] at hexec
  obtain ⟨htail, -⟩ := journalFull_room_buffers hroomU 0x0060 3 0 0 (.num 0) (jBytes s.saf.jTail) 0 0
  refine completes_powered hpow hexec
    ⟨?_, ?_, jRec u 0x0060 3 0 0 (.num 0) (jBytes s.saf.jTail) 0 0, ?_, rfl, rfl⟩
  · rw [finish_saf, powerFailRec, journal_saf_pfwN, hsaf, setPfwN_saf_pfwN]
  · rw [rd_finish _ _ _ (by decide) (by decide), powerFailRec, journal, rd_journalFull_room_fault hroomU, hbit]
  · rw [finish_saf, powerFailRec, journal, htail, hsaf, setPfwN_saf_jTail]

/-- R436 step 2: the whole tail is committed, and PF_DONE says so. -/
theorem powerFailCommitDone_completes {s : State} (hclk : clocked s = true) (hlow : s.saf.pfwN = true)
    (hundone : rdB s R.jnlStatPfDone = false) :
    Completes .powerFailCommitDone s (fun t => rd t R.jnlStatPfDone = 1 ∧ t.saf.jTail = [] ∧ rd t R.jnlStatTail = 0 ∧
      t.saf.jFlash = ringPut s.saf.jFlash s.saf.jTail ∧ t.saf.jOver = s.saf.jOver) := by
  have hrun : modeIn s [.freeze] = false := by
    simp only [clocked, Bool.and_eq_true, Bool.not_eq_true'] at hclk
    exact hclk.2
  have hexec : exec .powerFailCommitDone s =
      whenClocked s (.next (wr (commitTail s (mirrorOn s)) R.jnlStatPfDone 1)) := by
    simp only [exec_powerFailCommitDone, execPowerFailCommitDone, hlow, hundone, hrun, Bool.not_false, and_self,
      if_true]
  refine completes_clocked hclk hexec ⟨?_, ?_, ?_, ?_, ?_⟩
  · rw [rd_finish_quiet _ _ _ (by decide), rd_wr_fits _ _ (by decide)]
  · rw [finish_saf, wr_saf, commitTail, commitRecs_tail, List.drop_length]
  · rw [rd_finish _ _ _ (by decide) (by decide), rd_wr_ne _ _ _ _ (by decide), commitTail, rd_commitRecs_tail,
      List.drop_length]
    rfl
  · rw [finish_saf, wr_saf, commitTail, commitRecs_flash, List.take_length]
  · rw [finish_saf, wr_saf, commitTail, commitRecs_over]

/-- R436: PFW_N rises: PF_DONE clears, and the tail is left as it is. -/
theorem pfwNDeassert_completes {s : State} (hpow : powered s = true) :
    Completes .pfwNDeassert s (fun t => t.saf.pfwN = false ∧ rd t R.jnlStatPfDone = 0 ∧ t.saf.jTail = s.saf.jTail ∧
      Leaves [R.jnlStatPfDone] s t) := by
  refine completes_powered hpow (exec_pfwNDeassert s) ⟨?_, ?_, ?_, leaves_finish fun g _ hne => ?_⟩
  · rw [finish_saf, wr_saf, setPfwN_saf_pfwN]
  · rw [rd_finish_quiet _ _ _ (by decide), rd_wr_fits _ _ (by decide)]
  · rw [finish_saf, wr_saf, setPfwN_saf_jTail]
  · rw [rd_wr_ne _ _ _ _ (hne R.jnlStatPfDone (by simp)), rd_setPfwN]

/-! ### Posting and committing records (R432, R435) -/

theorem journalPost_completes {s : State} {ty sev : Nat} (hlive : live s = true) (hty : ty ∈ jTypes) (hsev : sev < 4)
    (hroom : 64 * (s.saf.jTail.length + 1) ≤ rd s R.jnlCfgTailMax) (hmax : rd s R.jnlCfgTailMax ≤ 65536)
    (req u a b c : Nat) (st : JStatus) :
    Completes (.journalPost ty sev req u st a b c) s (fun t =>
      t.saf.jTail = s.saf.jTail ++ [jRec s ty sev req u st a b c] ∧ t.saf.jOver = s.saf.jOver ∧
      rd t R.jnlStatSeq = (rd s R.jnlStatSeq + 1) % 2 ^ 32 ∧
      rd t R.jnlStatTail = 64 * (s.saf.jTail.length + 1) ∧ Leaves [] s t) := by
  have hexec : exec (.journalPost ty sev req u st a b c) s =
      whenLive s (.next (journalFull s ty sev req u st a b c)) := by
    simp only [exec_journalPost, execJournalPost, List.contains_iff_mem, hty, hsev, and_self, if_true]
  obtain ⟨htail, hover⟩ := journalFull_room_buffers hroom ty sev req u st a b c
  refine completes_live hlive hexec ⟨?_, ?_, ?_, ?_, leaves_finish fun g hg _ => rd_journalFull _ _ _ _ _ _ _ _ _ _ hg⟩
  · rw [finish_saf, htail]
  · rw [finish_saf, hover]
  · rw [rd_finish _ _ _ (by decide) (by decide), rd_journalFull_room_seq hroom]
  · rw [rd_finish _ _ _ (by decide) (by decide), rd_journalFull_room_tail hroom _ _ _ _ _ _ _ _ hmax]

section Program

variable {s : State} (hclk : clocked s = true) (hundone : rdB s R.jnlStatPfDone = false) (htail : s.saf.jTail ≠ [])
  (n : Nat)
include hclk hundone htail

/-- R435: a program that succeeds commits the oldest records; without an overflow or a loss no more follows. -/
theorem journalCommit_done (hover : s.saf.jOver = []) (hlost : s.saf.jLost = 0) :
    Completes (.journalCommit n true) s (fun t =>
      t.saf.jTail = s.saf.jTail.drop n ∧ t.saf.jFlash = ringPut s.saf.jFlash (s.saf.jTail.take n) ∧
      rd t (R.jnlCntCount 1) = (rd s (R.jnlCntCount 1) + (s.saf.jTail.take n).length) % 2 ^ 48 ∧
      (∀ m, s.img.qspiAfter = some m → (∀ r ∈ s.saf.jTail.drop n, r.seq ≠ m) → t.img.qspiOut = true)) := by
  have hoverU : (commitRecs (setJRetry s false) n (mirrorOn s)).saf.jOver = [] := by simp [hover]
  have hsafU := refillTail_saf hoverU
  have hlostU : (refillTail (commitRecs (setJRetry s false) n (mirrorOn s))).saf.jLost = 0 := by simp [hsafU, hlost]
  have hexec : exec (.journalCommit n true) s = whenClocked s
      (.next (qspiRelease (refillTail (commitRecs (setJRetry s false) n (mirrorOn s))))) := by
    simp only [exec_journalCommit, hundone, htail, Bool.false_eq_true, or_self, if_false, if_true,
      reportLoss_none hlostU]
  refine completes_clocked hclk hexec ⟨?_, ?_, ?_, fun m hwait hleft => ?_⟩
  · rw [finish_saf, qspiRelease_saf, hsafU, commitRecs_tail, setJRetry_saf_jTail]
  · rw [finish_saf, qspiRelease_saf, hsafU, commitRecs_flash, setJRetry_saf_jFlash, setJRetry_saf_jTail]
  · rw [rd_finish _ _ _ (by decide) (by decide), rd_qspiRelease, rd_refillTail _ (by decide), rd_commitRecs_count,
      rd_setJRetry, setJRetry_saf_jTail]
  · rw [finish_img]
    refine qspiRelease_released (m := m) ?_ ?_ ?_
    · rw [refillTail_img, commitRecs_img, setJRetry_img, hwait]
    · rw [hsafU, hoverU]
    · rwa [hsafU, commitRecs_tail, setJRetry_saf_jTail]

/-- R435: a program that fails for the first time is retried, and counted. -/
theorem journalCommit_retried (hfirst : s.saf.jRetry = false) :
    Completes (.journalCommit n false) s (fun t => t.saf.jRetry = true ∧
      t.saf.jTail = s.saf.jTail ∧ rd t (R.jnlCntCount 3) = (rd s (R.jnlCntCount 3) + 1) % 2 ^ 48) := by
  have hexec : exec (.journalCommit n false) s =
      whenClocked s (.next (bump (setJRetry s true) (R.jnlCntCount 3))) := by
    simp only [exec_journalCommit, hundone, htail, hfirst, Bool.false_eq_true, or_self, if_false, Bool.not_false,
      if_true]
  refine completes_clocked hclk hexec ⟨?_, ?_, ?_⟩
  · rw [finish_saf, bump_saf, setJRetry_saf_jRetry]
  · rw [finish_saf, bump_saf, setJRetry_saf_jTail]
  · rw [rd_finish _ _ _ (by decide) (by decide), rd_bump_self _ _ (by decide), rd_setJRetry]
    rfl

/-- R435: a retry that fails sets WRITE_ERR and raises code 21. -/
theorem journalCommit_failed (hretry : s.saf.jRetry = true) :
    Completes (.journalCommit n false) s (fun t => t.saf.jRetry = false ∧
      rd t R.jnlStatWriteErr = 1 ∧ bit (rd t R.safFaultFault) 21 = true) := by
  have hexec : exec (.journalCommit n false) s =
      whenClocked s (.next (raiseFault (wr (setJRetry s false) R.jnlStatWriteErr 1) 21 0 0)) := by
    simp only [exec_journalCommit, hundone, htail, hretry, Bool.false_eq_true, or_self, if_false, Bool.not_true]
  obtain ⟨hbit, hkeepsRetry, hkeeps⟩ := raiseFault_journalCode (wr (setJRetry s false) R.jnlStatWriteErr 1) 0 0
  refine completes_clocked hclk hexec ⟨?_, ?_, ?_⟩
  · rw [finish_saf, hkeepsRetry, wr_saf, setJRetry_saf_jRetry]
  · rw [rd_finish_quiet _ _ _ (by decide), hkeeps _ (by decide), rd_wr_fits _ _ (by decide)]
  · rw [rd_finish _ _ _ (by decide) (by decide), hbit]

end Program

/-! ### JOURNAL_READ (R437) -/

theorem journalRead_completes {s : State} {h : CmdHdr} {a n : Nat} (hlive : live s = true) (hb : ByCore h)
    (hn : n ≤ 4096) (hlen : ((readRecs s a n).foldl (fun a r => a ++ recBytes r) []).length ≤ cmdBufLen h) :
    Completes (.journalRead h a n) s (fun t =>
      Answers h .ok ((readRecs s a n).foldl (fun a r => a ++ recBytes r) []) t ∧ t.saf = s.saf ∧ Leaves [] s t) := by
  have hexec : exec (.journalRead h a n) s = whenLive s
      (.next (holdAnswer s h none .ok ((readRecs s a n).foldl (fun a r => a ++ recBytes r) []))) := by
    simp only [exec_journalRead, execJournalRead, openCmd_core hb.1, if_neg (Nat.not_lt_of_le hn),
      if_neg (Nat.not_lt_of_le hlen)]
  refine completes_live hlive hexec ⟨answers_finish (answers_hold hb _ _ _), ?_, leaves_finish fun g _ _ => ?_⟩
  · rw [finish_saf, holdAnswer_saf]
  · rw [rd_holdAnswer]

/-! ### Scan test (R430) -/

section Scan

variable {s : State}

theorem scanEnable_zeroized {r : Nat} (hlive : live s = true) (hr : isCore r = true)
    (hz : rdB s R.keyStatZeroized = true) :
    Completes (.scanEnable r) s (fun t => rd t R.bstScanEn = 1 ∧ rdStat t R.bstScanStatus = .ok ∧
      t.saf.scanOn = true) := by
  have hzd : rdB (dropLatch s r) R.keyStatZeroized = true := hz
  refine completes_live (u := { wrStat (wr (dropLatch s r) R.bstScanEn 1) R.bstScanStatus .ok with
    saf := { s.saf with scanOn := true } }) hlive ?_ ⟨?_, ?_, ?_⟩
  · simp only [exec_scanEnable, execScanEnable, hr, hzd, Bool.not_true, Bool.false_eq_true, if_false, if_true]
    rfl
  · rw [rd_finish_quiet _ _ _ (by decide)]
    exact rd_wr_fits (dropLatch s r) R.bstScanEn (v := 1) (by decide)
  · rw [rdStat_finish]
    exact rdStat_wrStat_self _ _ _
  · rw [finish_saf]

/-- R430: before the zeroize the request is refused, and no chain moves. -/
theorem scanEnable_refused {r : Nat} (hlive : live s = true) (hr : isCore r = true)
    (hz : rdB s R.keyStatZeroized = false) :
    Completes (.scanEnable r) s (fun t => rdStat t R.bstScanStatus = .refusedMode ∧ t.saf.scanOn = s.saf.scanOn ∧
      Leaves [] s t) := by
  have hzd : rdB (dropLatch s r) R.keyStatZeroized = false := hz
  have hexec : exec (.scanEnable r) s =
      whenLive s (.next (wrStat (dropLatch s r) R.bstScanStatus .refusedMode)) := by
    simp only [exec_scanEnable, execScanEnable, hr, hzd, Bool.not_true, Bool.false_eq_true, if_false]
  refine completes_live hlive hexec ⟨?_, ?_, leaves_finish fun g _ _ => ?_⟩
  · rw [rdStat_finish, rdStat_wrStat_self]
  · rw [finish_saf, wrStat_saf]
    rfl
  · rw [rd_wrStat, rd_dropLatch]

variable (hseq : s.mod.seq ≠ .off) (cells : List (String × Bool))
include hseq

theorem jtagScan_zeroized (hz : rdB s R.keyStatZeroized = true) :
    Completes (.jtagInstruction .scan cells) s (fun t => t.saf.scanOn = true) := by
  have hexec : exec (.jtagInstruction .scan cells) s = act s (.next { s with
      saf := { s.saf with scanOn := true }, ctr := { s.ctr with jtag := .scan } }) := by
    simp [exec_jtagInstruction, execJtagInstruction, hseq, hz, rushesIr]
  refine completes_act hexec ?_
  rw [finish_saf]

theorem jtagScan_refused (hz : rdB s R.keyStatZeroized = false) :
    Completes (.jtagInstruction .scan cells) s (fun t => rdStat t R.bstScanStatus = .refusedMode ∧
      t.saf.scanOn = s.saf.scanOn ∧ t.ctr.jtag = s.ctr.jtag ∧ Leaves [] s t) := by
  have hexec : exec (.jtagInstruction .scan cells) s = act s (.next (wrStat s R.bstScanStatus .refusedMode)) := by
    simp [exec_jtagInstruction, execJtagInstruction, hseq, hz, rushesIr]
  refine completes_act hexec ⟨?_, ?_, ?_, leaves_finish fun g _ _ => ?_⟩
  · rw [rdStat_finish, rdStat_wrStat_self]
  · rw [finish_saf, wrStat_saf]
  · rw [finish_ctr, wrStat_ctr]
  · rw [rd_wrStat]

end Scan

/-- Settles O50: each event's, command's and write's own theorem above. -/
theorem journalRecordsAreKept : Obligations.JournalRecordsAreKept := by
  unfold Obligations.JournalRecordsAreKept
  refine ⟨?assert, ?commitDone, ?deassert, ?post, ?commit, ?read, ?enable, ?jtag⟩
  case assert => exact fun s hpow hidle hmode hroom => pfwNAssert_completes hpow hidle hmode hroom
  case commitDone => exact fun s hclk hlow hundone => powerFailCommitDone_completes hclk hlow hundone
  case deassert => exact fun s hpow => pfwNDeassert_completes hpow
  case post =>
    exact fun s ty sev req u a b c st hlive hty hsev hroom hmax =>
      journalPost_completes hlive hty hsev hroom hmax req u a b c st
  case commit =>
    exact fun s n hclk hundone htail => ⟨journalCommit_done hclk hundone htail n,
      journalCommit_retried hclk hundone htail n, journalCommit_failed hclk hundone htail n⟩
  case read => exact fun s h a n hlive hb hn hlen => journalRead_completes hlive hb hn hlen
  case enable => exact fun s r hlive hr => ⟨scanEnable_zeroized hlive hr, scanEnable_refused hlive hr⟩
  case jtag => exact fun s cells hseq => ⟨jtagScan_zeroized hseq cells, jtagScan_refused hseq cells⟩

end Sys2Proof.Proofs
end
